-- ==== Sys2Proof/Word.lean ====
section
/-! DEFINITION. The words and the numbered resources of the part: bytes, 32-bit registers, 64-byte lines (R6), and
the index types of tiles, ports, sessions and the other numbered resources (R1, R18). -/

namespace Sys2Proof

/-- A byte. -/
abbrev Byte := BitVec 8

/-- A management register (R11). -/
abbrev Word := BitVec 32

/-- A 64-byte line (R6): byte `i` of the line, counted from its lowest address, is bits `[8i + 7 : 8i]`. -/
abbrev Line := BitVec 512

/-- A tile number (R2, R18). -/
abbrev TileId := Fin 8

/-- A port number (R2): port `2t` is PORTA of tile `t`, port `2t + 1` its PORTB (R18). -/
abbrev PortId := Fin 16

/-- A link of a port (Table 2.1). -/
abbrev LinkId := Fin 4

/-- A session number (R1). -/
abbrev SessId := Fin 64

/-- A region number (R1). -/
abbrev RegionId := Fin 16

/-- A medium channel of a tile (R18). -/
abbrev ChanId := Fin 8

/-- A die of a stack (R18). -/
abbrev DieId := Fin 8

/-- A board rail (Table 12.1). -/
abbrev RailId := Fin 8

/-- An internal power domain (Table 12.2). -/
abbrev DomainId := Fin 34

/-- A clock generator (Table 13.1). -/
abbrev GenId := Fin 64

/-- An event source (R299). -/
abbrev SourceId := Fin 288

/-- A sparse table: key and value, keys strictly rising, no entry equal to the table's default. -/
abbrev Tab (α : Type) := List (Nat × α)

end Sys2Proof
end

