-- ==== Sys2Proof/Config.lean ====
section
/-! DEFINITION. What the model leaves open: free values (log entry 1) and two functions whose form the spec does not give (log
entry 2). None of them has a body that a proof can see. -/

namespace Sys2Proof.Config

/-- A value the spec leaves open, `w` bits wide: the `n`-th drawn (log entry 1). The meanings draw the number `n` from
the counter `State.free`. -/
opaque freeValue (w n : Nat) : BitVec w

/-- The `n`-th free choice between two outcomes the spec allows (log entry 1). -/
opaque freeChoice (n : Nat) : Bool

/-- The keyed MAC of a location token (R165), whose form the spec does not give: the tile's token key, the tile, the group's
tile-local address, the codeword address and the map page's full GEN. -/
opaque tokenMac (key : BitVec 128) (tile : Nat) (tla : Nat) (cwa : BitVec 34) (gen : BitVec 32) : BitVec 16

/-- The fixed bijection on 36 bits of R160, whose form the spec does not give. -/
opaque overlayHash (line : BitVec 36) : BitVec 36

end Sys2Proof.Config
end

