-- ==== Sys2Proof/Syntax.lean ====
section
/-! DEFINITION. The commands of the block: one constructor of `Instr` per row of spec/opcode_table.json, with the
operands the row's step takes from outside (a frame, a register value, a pin, the outcome of a physical step). -/

namespace Sys2Proof

/-- The Jilum header (Table 2.4). -/
structure Hdr where
  version : BitVec 4 := 2
  opcode : BitVec 8 := 0
  session : SessId := 0
  flags : BitVec 8 := 0
  status : BitVec 8 := 0
  count : BitVec 8 := 0
  epoch : BitVec 16 := 0
  seq : BitVec 32 := 0
  ack : BitVec 32 := 0
  ref : BitVec 32 := 0
  aux : BitVec 32 := 0
  addr : BitVec 64 := 0
  deriving DecidableEq, Repr

/-- A Jilum frame as the home tile sees it once MACsec has passed: header and payload bytes (Table 2.6). -/
structure Rq where
  hdr : Hdr
  payload : List Byte := []
  deriving DecidableEq, Repr

/-- The C-tag of a frame in clear-tag mode (Table 2.3). -/
structure CTag where
  pcp : BitVec 3
  vid : BitVec 12
  deriving DecidableEq, Repr

/-- The SecTAG of a protected frame (Table 2.3); `tci` is V, ES, SC, SCB, E, C from bit 5 down. -/
structure SecTag where
  tci : BitVec 6
  an : BitVec 2
  sl : BitVec 6
  pn : BitVec 32
  sci : BitVec 64
  deriving DecidableEq, Repr

/-- A frame at a link's receive pins: its bytes, DA to FCS inclusive, and what the RS(544,514) decoder made of its codewords
(R38, R39). -/
structure RxFrame where
  fecCorrected : Nat := 0
  fecUncorrected : Nat := 0
  bytes : List Byte
  deriving DecidableEq, Repr

/-- An unprotected enrollment frame (Table 3.3) with its source address and its C-tag. -/
structure EnrFrame where
  sa : BitVec 48
  ctag : Option CTag := none
  rq : Rq
  deriving DecidableEq, Repr

/-- What the loader finds on the configuration flash (R361, R362): the SFDP facts and the bytes of both slots. -/
structure Flash where
  bfpt : Bool
  fast114 : Bool
  densityLog2 : Nat
  maxMhz : Nat
  sfdpMinor : Byte
  sfdpMajor : Byte
  cells : Tab Byte
  deriving DecidableEq, Repr

/-- One conversion of a junction diode (R382), in units of 0.25 °C where the converter reports no fault. -/
inductive DiodeConv where
  | openDiode
  | shorted
  | value (quarters : Int)
  deriving DecidableEq, Repr

/-- What medium initialisation reads on a tile (R194, R214): the dies whose remap area cannot be read (bit `8c + d`), and
the bits corrected in the witness page under the sets of bucket 0 and of bucket 1, where it can be read. -/
structure MedInit where
  unreadable : BitVec 64 := 0
  witness : Option (Nat × Nat) := none
  deriving DecidableEq, Repr

/-- A die whose program or erase step reports failure, and whether a repeated step recovered it (Table 7.2). -/
structure DieFail where
  die : DieId
  recovered : Bool
  deriving DecidableEq, Repr

/-- What gives a codeword that does not decode under the set it is read with first: a retry, its siblings, or nothing (Table 7.7). -/
inductive Recourse where
  | retried
  | rebuilt
  | lost
  deriving DecidableEq, Repr

/-- The pins of the VGPIO bank that the board straps, as they stand when the prelude brings VGPIO up (R317, R397, R408). -/
structure Prelude where
  dbgEn : Bool := false
  smbAddr : BitVec 2 := 0
  deriving DecidableEq, Repr

/-- A tile at step 9 of start-up (R359). -/
structure RecoveryAt where
  tile : TileId
  deriving DecidableEq, Repr

/-- Where an uncorrectable SRAM word lies (R297): a structure of a tile (Table 11.2), the item of it that the word belongs
to (a line, a cell, a session, a page, a group or a word index, by structure) and the word index; or a MESH block. The last two are the
reads that find a single wrong bit in a word of a tile's structure or of the MESH domain and correct it (R296). -/
inductive SramSite where
  | tile (t : TileId) (struct : BitVec 4) (item : Nat) (word : BitVec 24)
  | mesh (block : Byte)
  | corrected (t : TileId) (struct : BitVec 4) (word : BitVec 24)
  | meshCorrected
  deriving DecidableEq, Repr

/-- A Block Write of the SMBus target (Table 16.4): the command code, the count byte, the bytes after it, and whether a PEC
was sent and matched. -/
structure SmbWrite where
  code : Byte
  count : Byte
  data : List Byte
  pec : Option Bool := none
  deriving DecidableEq, Repr

/-- A line of a request part on its owning tile: session, host sequence number, index of the line in the request. -/
structure PartLine where
  sess : SessId
  seq : BitVec 32
  ix : Fin 64
  deriving DecidableEq, Repr

/-- What makes a cold reset (R413): RESET_N low for a number of AON clocks, or VAON reaching regulation. -/
inductive ColdCause where
  | resetLow
  | resetN (lowClocks : Nat)
  | vaonUp
  deriving DecidableEq, Repr

/-- The commands, in the order of spec/opcode_table.json. -/
inductive Instr where
  | receiveFrame (p : PortId) (l : LinkId) (f : RxFrame)
  | read (r : Rq)
  | write (r : Rq)
  | writePartial (r : Rq)
  | cas64 (r : Rq)
  | fadd64 (r : Rq)
  | barrier (r : Rq)
  | lock (r : Rq)
  | unlock (r : Rq)
  | mgmtRead (r : Rq)
  | mgmtWrite (r : Rq)
  | enroll (p : PortId) (l : LinkId) (f : EnrFrame)
  | enrollFinish (p : PortId) (l : LinkId) (f : EnrFrame)
  | enrollQueueService
  | enrollmentComplete (x : SessId)
  | rolloverEnroll (r : Rq)
  | rolloverEnrollFinish (r : Rq)
  | oldReceiveSaDelete (x : SessId)
  | pendingExchangeExpiry (x : SessId)
  | keepalive (r : Rq)
  | hostGapNak (r : Rq)
  | gapNakResend (x : SessId)
  | retransmissionTimeout (x : SessId)
  | tailKeepaliveSend (x : SessId)
  | kaLimitKeepaliveSend (x : SessId)
  | keepAliveLost (x : SessId)
  | retentionRoomSend (x : SessId)
  | sessionCloseComplete (x : SessId)
  | sesKill (x : SessId)
  | sesStrgClr (p : PortId) (l : LinkId)
  | credentialDisable (x : SessId)
  | credentialEnable (x : SessId)
  | claim (src dst : TileId)
  | claimResult (src dst : TileId)
  | arm (src dst : TileId)
  | dropRemainder (src dst : TileId)
  | rewind (src dst : TileId)
  | markerSealTimeout (x : SessId)
  | partCompletion (src dst : TileId)
  | barrierAck (x : SessId)
  | frameStart (t : TileId)
  | galeLong (t : TileId)
  | slotDecision (t : TileId)
  | stepOverdue (t : TileId) (c : ChanId) (d : DieId) (erase : Bool)
  | variantLatch (t : TileId)
  | superframeStart
  | codewordDecoded (t : TileId) (id : Nat) (ok : Bool)
  | rebuildComplete (t : TileId) (id : Nat)
  | mapFetchComplete (t : TileId) (page : Nat)
  | counterFetchComplete (t : TileId) (group : Nat)
  | mergeComplete (t : TileId) (pl : PartLine)
  | checkOutcome (t : TileId) (pl : PartLine) (tagOk treeOk : Bool)
  | checkTimeout (t : TileId) (pl : PartLine)
  | squall (x : SessId)
  | tileFaultReplay (t : TileId)
  | programComplete (t : TileId) (c : ChanId) (d : DieId)
  | programFail (t : TileId) (c : ChanId) (d : DieFail)
  | eraseFail (t : TileId) (c : ChanId) (d : DieFail)
  | eraseComplete (t : TileId) (stratum : Nat)
  | eraseBegin (t : TileId) (stratum : Nat)
  | checkpoint (t : TileId)
  | dieCommandTimeout (t : TileId) (c : ChanId) (d : DieId)
  | housekeepingRound (t : TileId) (diode : DiodeConv) (railsMv : List (BitVec 12))
  | stratumBucketEntry (t : TileId) (stratum : Nat)
  | stratumPad (t : TileId) (stratum : Nat)
  | patrolFinding (t : TileId) (cwa : BitVec 34) (first : Option Nat) (next : Recourse) (sets : List (Option Nat))
  | surveyComplete (t : TileId)
  | rolloverImage (t : TileId) (group : Nat)
  | rekeyPassEnd (r : RegionId)
  | rgnBaseWrite (r : RegionId) (v : Word)
  | rgnSizeWrite (r : RegionId) (v : Word)
  | modeWrite (r : RegionId) (compact : Bool)
  | enable (r : RegionId)
  | online (r : RegionId)
  | readOnly (r : RegionId)
  | offline (r : RegionId)
  | zeroize (r : RegionId)
  | disable (r : RegionId)
  | rekey (r : RegionId)
  | lostZeroize (r : RegionId)
  | lostRekey (r : RegionId)
  | regionShutdownComplete (r : RegionId)
  | leaseExpiry (r : RegionId)
  | leaseBreakResolution (r : RegionId)
  | sramUncorrectable (w : SramSite)
  | evtPendClear (k : Fin 9) (mask : Word)
  | evtTrbClear (src : BitVec 9) (clr all : Bool)
  | pmcCounterOverflow (t : TileId) (i : Fin 64)
  | pmcSample (t : TileId) (i : Fin 64)
  | clrAll (t : TileId)
  | pmcCfgClr (t : TileId) (i : Fin 64)
  | pop (t : TileId)
  | portCntClr (p : PortId) (mask : BitVec 4)
  | admCntClr (t : TileId)
  | xltCntClr (t : TileId)
  | medCcntClr (t : TileId) (c : ChanId)
  | medTcntClr (t : TileId)
  | schCntClr (t : TileId)
  | secCntClr (t : TileId)
  | secEccClr (t : TileId)
  | cntClr
  | tokenRoll (t : TileId)
  | maxClr (mask : Byte)
  | portEnable (p : PortId) (v : Word)
  | portDisable (p : PortId) (v : Word)
  | portStopComplete (p : PortId)
  | portReset (p : PortId)
  | linkUp (p : PortId) (l : LinkId)
  | linkLoss (p : PortId) (l : LinkId)
  | pwrfailFall (lowClocks : Nat)
  | drainRecordCommit (t : TileId)
  | finalRecord
  | vaonWarning
  | pwrfailRise
  | autoOn
  | seqEnd
  | seqEnable
  | seqDisable
  | wait
  | check
  | jump
  | mark
  | waitExpiry
  | checkPass (transitions : Byte)
  | checkTimeoutRailFail (transitions : Byte)
  | domainOn (d : DomainId)
  | domainStartTimeout (d : DomainId)
  | domainOff (d : DomainId)
  | pgFall (x : RailId) (clocks : Nat)
  | runningFault (x : RailId)
  | retryOffExpiry (x : RailId)
  | systemAction
  | systemDrainTimeout
  | off
  | on
  | cleanStopTimeout (t : TileId)
  | minimumOffTimeExpiry
  | vgpioPrelude (p : Prelude)
  | preludeRepeat
  | coldReset (c : ColdCause)
  | warmReset
  | tileFaultReset (t : TileId) (cause : Byte)
  | watchdog (t : TileId)
  | warm
  | refclkLoss
  | refclkRestored
  | pllLockLoss (g : GenId)
  | pendingAccessComplete (inBand : Bool)
  | pendingAccessRelease (inBand : Bool)
  | resetPend (inBand : Bool)
  | tileStop (t : TileId)
  | tileStart (t : TileId)
  | faultReset (t : TileId)
  | ledgerRecall
  | configurationRead (f : Flash)
  | tilePhaseLoad (f : Flash) (readbackFail : Byte)
  | meshTableLoad
  | mediumInitialisation (t : TileId) (m : MedInit)
  | engineStart (t : TileId)
  | tileRecovery (t : RecoveryAt)
  | admissionOpen (t : TileId)
  | ledgerCommitComplete
  | ledgerWindowWrite (addr v : Word)
  | commit
  | retry
  | thermalStateFall (t : TileId)
  | thermalStop (t : TileId)
  | sensorStop (t : TileId)
  | resume (mask : Byte)
  | regWrite (w : SmbWrite)
  | readSet (w : SmbWrite)
  | regRead
  | xstatus
  | alertResponse
  | smbusStretchTimeout
  | smbusClockHeldLow
  | idcode
  | samplePreload
  | extest
  | clamp
  | highz
  | dapReg (data addr : Word) (write go : Bool)
  | dapMem (data : BitVec 64) (struct : BitVec 4) (tile : TileId) (write : Bool)
  | bypass (code : Byte)
  | tapReset
  | lockDebug
  | dmaStart (t : TileId)
  | dmaComplete
  | registerWrite (addr v : Word)
  | lossOfVaon
  | microsequencerInternalFault (t : TileId) (c : ChanId) (d : DieId)
  | onProgrammeBegins
  deriving DecidableEq, Repr

end Sys2Proof
end

