-- ==== Sys2Proof/WellFormed.lean ====
section
/-! DEFINITION. Well-formed commands: every operand names something the spec numbers (R156, R158, R274, R406, Table 13.6). Operands
of bounded types need no check. -/

namespace Sys2Proof

/-- Strata of a tile (R156), map pages (R158, R159), counter-group slots (R274). -/
def strataLimit : Nat := 524288
def pageLimit : Nat := 1310720
def groupLimit : Nat := 671088640

/-- Codes of Table 16.7 that select another instruction than BYPASS. -/
def tapCodes : List Byte := [0x01, 0x02, 0x03, 0x04, 0x05, 0x20, 0x21]

/-- A cause of Table 13.6. -/
def faultCause (c : Byte) : Bool := decide (1 ≤ c.toNat ∧ c.toNat ≤ 8)

/-- A command whose operands name what exists. -/
def Instr.wellFormed : Instr → Bool
  | .mapFetchComplete _ page => decide (page < pageLimit)
  | .counterFetchComplete _ group => decide (group < groupLimit)
  | .eraseComplete _ n => decide (n < strataLimit)
  | .eraseBegin _ n => decide (n < strataLimit)
  | .stratumBucketEntry _ n => decide (n < strataLimit)
  | .stratumPad _ n => decide (n < strataLimit)
  | .rolloverImage _ group => decide (group < groupLimit)
  | .tileFaultReset _ cause => faultCause cause
  | .patrolFinding _ _ _ _ sets => decide (sets.length = 16)
  | .bypass code => !tapCodes.contains code
  | _ => true

end Sys2Proof
end

