-- ==== Sys2Proof/Machine/Types.lean ====
section
/-! DEFINITION. The records of the state that belong to the transport, the sessions, the ports, the ledger, the regions
and the events (chapters 2, 3, 4, 10, 11, 14). -/

namespace Sys2Proof.Machine

/-- State of a link (PORT_STS, R427). -/
inductive LinkSt where | down | training | up | stopping
  deriving DecidableEq, Repr

/-- State of a session (Table 3.1, R75). -/
inductive SesSt where | idle | enrolling | live | closing
  deriving DecidableEq, Repr

/-- State of a region (Table 10.1, R264). -/
inductive RgnSt where | disabled | online | readOnly | stopping | offline | zeroizing
  deriving DecidableEq, Repr

/-- A port (R36, R74, R427; PORT registers of chapter 2). -/
structure Port where
  /-- PORT_CTL.ENABLE, PENDING_ENABLE, MODE, AN_EN, LT_EN, CLEAR_TAG, VLAN_ID, in their bit places. [32; 02 PORT_CTL; image, DESIGN CHOICE 0 (log 4)] -/
  ctl : Word := 0
  /-- PORT_RTO. [16; 02 PORT_RTO; image, DESIGN CHOICE 0 (log 4)] -/
  rto : BitVec 16 := 0
  /-- The mode the port runs in, taken from MODE at its start. [2; 02 R36; DESIGN CHOICE 0 (log 4)] -/
  run : BitVec 2 := 0
  /-- Link states of PORT_STS, by link. [4 x 3; 02 PORT_STS; DOWN] -/
  links : Tab LinkSt := []
  /-- PORT_LCNT, counter i of link j at 8j + i. [4 x 8 x 32; 02 PORT_LCNT; 0] -/
  cnt : Tab Word := []
  /-- A port reset waits for the port's stop. [1; 13 R356; 0] -/
  rstPend : Bool := false
  /-- The port's stop has completed with ENABLE still 1: its lane clocks do not run (Table 13.2). [1; 13 R345; 0] -/
  rxOff : Bool := false
  deriving DecidableEq, Repr

/-- A credential (R77, R78; SES_CRED). `key` holds byte `i` of the key at bits `[8i + 7 : 8i]`. -/
structure Cred where
  /-- SES_CRED_CTL.ENABLE. [1; 03 SES_CRED_CTL; 0] -/
  enable : Bool := false
  /-- SES_CRED_CTL.STEWARD. [1; 03 SES_CRED_CTL; 0] -/
  steward : Bool := false
  /-- SES_CRED_CTL.FROM_IMAGE. [1; 03 SES_CRED_CTL; 0] -/
  fromImage : Bool := false
  /-- SES_CRED_CTL.V1_OK. [1; 03 SES_CRED_CTL; 0] -/
  v1ok : Bool := false
  /-- SES_CRED_GRANT.RD_MASK. [16; 03 SES_CRED_GRANT; 0] -/
  rd : BitVec 16 := 0
  /-- SES_CRED_GRANT.WR_MASK. [16; 03 SES_CRED_GRANT; 0] -/
  wr : BitVec 16 := 0
  /-- SES_CRED_KEY. [256; 03 SES_CRED_KEY; 0] -/
  key : BitVec 256 := 0
  /-- ENABLE as the last write asked for it, while the commit of that write is pending. [2; 03 R78; none] -/
  want : Option Bool := none
  deriving DecidableEq, Repr

/-- A secure association of a session's channel (R85, R86): `pn` is the next packet number of the transmit side, or the
next one expected by the receive side. -/
structure Sa where
  an : BitVec 2
  key : BitVec 256
  salt : BitVec 96
  pn : BitVec 64
  deriving DecidableEq, Repr

/-- A pending enrollment or rollover exchange with the values of R81. -/
structure Exch where
  /-- The ENROLL frame answered. -/
  rq : Rq
  mac : BitVec 48
  /-- PCP of the ENROLL_FINISH that verified (R42). -/
  pcp : BitVec 3 := 0
  port : PortId
  link : LinkId
  v1 : Bool
  e : BitVec 16
  d : Word
  t : BitVec 256
  okm : BitVec 960
  /-- The payload of the ACK of ENROLL. -/
  ack : List Byte
  /-- KA_LIMIT in ms, as given in the ACK (R90). -/
  ka : Nat
  /-- When the ACK was sent, in core cycles. -/
  at_ : Nat
  /-- The ENROLL_FINISH that verified, and the repeats of it that wait for its ACK: port, link, source address, PCP. -/
  finish : Option Rq := none
  repeats : List (PortId × LinkId × BitVec 48 × BitVec 3) := []
  deriving DecidableEq, Repr

/-- A frame the device sent or holds for a session. -/
structure Frame where
  hdr : Hdr
  payload : List Byte := []
  /-- Its word in the retention store is uncorrectable (Table 11.2, 0x9). -/
  bad : Bool := false
  deriving DecidableEq, Repr

/-- A frame that left a link: the Jilum frame it carries, and its bytes on the wire (Table 2.3, R44). -/
structure Sent where
  port : PortId
  link : LinkId
  mac : BitVec 48
  /-- AN and packet number of a protected frame; `none` for an enrollment frame. -/
  sec : Option (BitVec 2 × BitVec 64)
  pcp : BitVec 3
  frame : Frame
  /-- DA to FCS inclusive. -/
  wire : List Byte := []
  deriving DecidableEq, Repr

/-- The outcome of a request part, as its completion reports it to the home tile (R30, R149). -/
structure PartRes where
  status : Byte := 0
  poison : BitVec 64 := 0
  pending : BitVec 64 := 0
  neverWritten : Bool := false
  waived : Bool := false
  retry : Bool := false
  stale : Bool := false
  anyPoison : Bool := false
  lines : List Line := []
  tokens : List (BitVec 64) := []
  old : BitVec 64 := 0
  deriving DecidableEq, Repr

/-- Why a claim failed (R98, R429). -/
structure Short where
  cell : Bool := false
  park : Bool := false
  stall : Bool := false
  deriving DecidableEq, Repr

/-- Where a request part stands at the home tile. -/
inductive PartSt where
  | waiting
  | sent
  | claimed
  | failed (s : Short)
  | armed
  | done (r : PartRes)
  deriving DecidableEq, Repr

/-- A part of a request (R27): its tile, the tile-local address of its first line, the index of that line in the request,
and how many lines it has. -/
structure Part where
  tile : TileId
  tla : BitVec 42
  first : Nat
  n : Nat
  st : PartSt := .waiting
  deriving DecidableEq, Repr

/-- Where a request stands. `ledger`: its completion waits for a ledger commit. `bridge`: it waits at the in-band bridge.
`queued`: it waits for an earlier access of its session to take effect (R404). -/
inductive ReqSt where
  | claiming
  | armed
  | ledger
  | bridge
  | queued
  deriving DecidableEq, Repr

/-- A request in flight at its home tile, from acceptance to the entry of its completion into retention. -/
structure Req where
  rq : Rq
  parts : List Part := []
  st : ReqSt := .claiming
  /-- The status of a request that failed its checks, until every earlier request has been resolved (R98). -/
  fail : Option Byte := none
  /-- The cell of a request with no lines, on the home tile. -/
  cell : Option Nat := none
  /-- A repeated READ or MGMT_READ that is performed again (Table 2.7). -/
  replay : Bool := false
  deriving DecidableEq, Repr

/-- An entry of the completion cache (R66). `bad`: its SRAM word is uncorrectable (Table 11.2, 0xA). -/
structure Cached where
  opcode : BitVec 8
  status : Byte
  flags : Byte
  old : BitVec 64
  bad : Bool := false
  deriving DecidableEq, Repr

/-- The DATA of a session whose checks are pending (R70, R286). -/
structure Unsettled where
  dseq : Word
  rseq : Word
  addr : BitVec 64
  pending : BitVec 64
  failed : BitVec 64
  /-- The tiles of the pending lines. -/
  tiles : List (Nat × TileId)
  count : BitVec 8
  deriving DecidableEq, Repr

/-- What a rollover's ACK does as it is sent: the ACK of the ENROLL takes D from its own sequence number and makes the
exchange pending; the ACK of the ENROLL_FINISH is the last frame under the old association (R88, R89). -/
inductive KeyStep where
  | offer (rq : Rq) (priv : BitVec 256) (nonce : BitVec 128)
  | change (x : Exch)
  deriving DecidableEq, Repr

/-- A frame that has no device sequence number yet (R63, R306). `rseq`: the request it completes. `pend`: its lines with
pending checks, by tile, and `addr` the device address of its first line. `src`: the event source of an EVENT frame.
`marker`: the BUSY NAK of a sealed marker. -/
structure Waiting where
  hdr : Hdr
  payload : List Byte := []
  rseq : Option Word := none
  pend : List (Nat × TileId) := []
  addr : BitVec 64 := 0
  src : Option Nat := none
  marker : Bool := false
  squall : Bool := false
  key : Option KeyStep := none
  /-- The ACK of a LOCK: region, lease in ms, which starts as the ACK takes its sequence number (R120). -/
  lease : Option (RegionId × Nat) := none
  deriving DecidableEq, Repr

/-- A marker cell (R108). -/
structure Marker where
  /-- 0b00 empty, 0b01 open, 0b10 sealed. -/
  st : BitVec 2 := 0
  first : Word := 0
  last : Word := 0
  at_ : Nat := 0
  /-- Of a sealed marker: the last host sequence number consumed before it was sealed. -/
  seen : Word := 0
  /-- Of an open marker: its cell has an uncorrectable word (Table 11.2, 0x3). -/
  lost : Bool := false
  deriving DecidableEq, Repr

/-- A session: its table entry, its transport state and what its home tile holds for it (R29, R75). -/
structure Sess where
  /-- SES_SSTS.STATE. [3; 03 R75; IDLE] -/
  st : SesSt := .idle
  /-- SES_SSTS.PORT. [4; 03 SES_SSTS; 0] -/
  port : PortId := 0
  /-- SES_SSTS.LINK. [2; 03 SES_SSTS; 0] -/
  link : LinkId := 0
  /-- SES_SSTS.V1. [1; 03 SES_SSTS; 0] -/
  v1 : Bool := false
  /-- SES_SSTS.STEWARD. [1; 03 SES_SSTS; 0] -/
  steward : Bool := false
  /-- SES_SSTS.LAST_END. [3; 03 R91; 0] -/
  lastEnd : BitVec 3 := 0
  /-- SES_SSTS.EPOCH. [16; 03 R76; 0] -/
  epoch : BitVec 16 := 0
  /-- Host MAC address of the binding. [48; 03 R80; DESIGN CHOICE 0 (log 4)] -/
  mac : BitVec 48 := 0
  /-- Host SCI of the binding. [64; 03 R86; DESIGN CHOICE 0 (log 4)] -/
  sci : BitVec 64 := 0
  /-- Pending enrollment exchange. [record; 03 R82; none] -/
  exch : Option Exch := none
  /-- Pending rollover exchange. [record; 03 R88; none] -/
  roll : Option Exch := none
  /-- An enrollment whose ENROLL_FINISH has verified and which waits for CLOSING to end. [record; 03 R83; none] -/
  fin : Option Exch := none
  /-- The ENROLL_FINISH frames accepted and their ACKs, newest first. [list; 03 R82; none] -/
  finAck : List (Rq × Frame) := []
  /-- Receive secure associations, the current one first. [list; 03 R85; none] -/
  rx : List Sa := []
  /-- Transmit secure association. [record; 03 R85; none] -/
  tx : Option Sa := none
  /-- When the old receive association is deleted. [time; 03 R89; none] -/
  oldAt : Option Nat := none
  /-- Keep-alive limit given at enrollment, in ms. [10; 03 R90; DESIGN CHOICE 0 (log 4)] -/
  ka : Nat := 0
  /-- PCP of the most recent frame received. [3; 02 R42; DESIGN CHOICE 0 (log 4)] -/
  pcp : BitVec 3 := 0
  /-- e, the next host sequence number expected. [32; 02 R58; DESIGN CHOICE 0 (log 4)] -/
  e : Word := 0
  /-- Highest host SEQ received. [32; 04 R104; DESIGN CHOICE 0 (log 4)] -/
  hi : Word := 0
  /-- Open gap: when its NAK was last sent, and AUX. [time, 32; 02 R59; none] -/
  gap : Option (Nat × Word) := none
  /-- Requests in flight, in host sequence order. [list; 04 R98; none] -/
  reqs : List Req := []
  /-- Repeats of READ and MGMT_READ requests that are being performed again. [list; 02 R58, R66; none] -/
  repeats : List Rq := []
  /-- Claim results still to come for requests discarded under R104, by tile. [8 counts; 04 R104, 01 R20; none] -/
  stale : Tab Nat := []
  /-- Completion cache, by host SEQ. [4,096 entries; 02 R66; empty] -/
  cache : Tab Cached := []
  /-- Next device SEQ. [32; 02 R54; DESIGN CHOICE 0 (log 4)] -/
  dseq : Word := 0
  /-- Acknowledged position: the highest device SEQ acknowledged. [32; 02 R56; DESIGN CHOICE 0 (log 4)] -/
  acked : Word := 0
  /-- Retention store, oldest first. [1 MiB; 02 R63; empty] -/
  retain : List Frame := []
  /-- Frames waiting for a device sequence number. [list; 02 R63; empty] -/
  waitQ : List Waiting := []
  /-- The DATA whose checks are pending. [record; 02 R70; none] -/
  unset : Option Unsettled := none
  /-- Marker cell on the home tile. [record; 04 R108; empty] -/
  marker : Marker := {}
  /-- Retransmission: resends without progress, and the time of the last progress or resend. [5, time; 02 R64; 0] -/
  tries : Nat := 0
  rtoAt : Nat := 0
  /-- When the device last sent to the session, and last received from it. [time; 02 R65, 03 R90; 0] -/
  txAt : Nat := 0
  rxAt : Nat := 0
  deriving DecidableEq, Repr

/-- An enrollment frame waiting for signing or verification (R428). -/
structure Queued where
  port : PortId
  link : LinkId
  frame : EnrFrame
  deriving DecidableEq, Repr

/-- One link's stranger counters (SES_STRG, Table 3.7). -/
structure Strg where
  /-- UNPROT, NO_SA, ICV_FAIL, ENROLL_DROP, REPLAY_DROP at 0 to 4. [5 x 32; 03 SES_STRG; 0] -/
  cnt : Tab Word := []
  /-- STRG_LAST. [48; 03 SES_STRG; 0] -/
  last : BitVec 48 := 0
  deriving DecidableEq, Repr

/-- A step of a lock's journal (R118). -/
structure Step where
  addr : Word
  count : Nat
  idem : Bool
  written : BitVec 3
  olds : List Word
  news : List Word
  deriving DecidableEq, Repr

/-- A change of a region's table entry (R266, Table 10.2). -/
inductive RgnUpd where
  | base (v : BitVec 15)
  | size (v : BitVec 15)
  | mode (compact : Bool)
  | st (x : RgnSt)
  | disabling (b : Bool)
  | pendEn (b : Bool)
  | cur (k : Bool)
  | secret (slot : Bool) (k : Option (BitVec 256))
  | stalled (b : Bool)
  deriving DecidableEq, Repr

/-- A step of a lock's journal that has not been acknowledged: its journal and number, its command of Table 10.2 (16 for a write of
RGN_BASE or RGN_SIZE alone), and the request whose ACK waits for it: session, epoch, SEQ. `done`: the step has been applied. -/
structure Act where
  id : Word
  k : Nat
  cmd : Nat
  /-- The step as its record holds it. -/
  step : Option Step := none
  req : Option (SessId × BitVec 16 × Word) := none
  /-- It has taken effect. -/
  ran : Bool := false
  done : Bool := false
  deriving DecidableEq, Repr

/-- A region: table entry (R266), pass (R283), lock and journal (R116 to R121). -/
structure Region where
  /-- RGN_BASE.BASE. [15; 10 RGN_BASE; 0 (no record: DISABLED)] -/
  base : BitVec 15 := 0
  /-- RGN_SIZE.SIZE. [15; 10 RGN_SIZE; 0] -/
  size : BitVec 15 := 0
  /-- RGN_CTL.MODE: COMPACT. [1; 10 R265; 0] -/
  compact : Bool := false
  /-- RGN_CTL.STATE. [3; 10 R264; DISABLED] -/
  st : RgnSt := .disabled
  /-- The DISABLE command holds the region in ZEROIZING. [1; 10 R269; 0] -/
  disabling : Bool := false
  /-- RGN_CTL.PENDING_ENABLE. [1; 10 R269; 0] -/
  pendEn : Bool := false
  /-- RGN_CTL.CUR_EPOCH. [1; 10 R270; 0] -/
  cur : Bool := false
  /-- Secrets of key slots 0 and 1. [2 x 256; 10 R270; none] -/
  slot0 : Option (BitVec 256) := none
  slot1 : Option (BitVec 256) := none
  /-- A pass of the region is running (RGN_STS.REKEY), and per tile the groups reached. [1, list; 10 R283; none] -/
  pass : Bool := false
  reached : Tab Nat := []
  /-- Superframe at which the pass began. [40; 08 Table 8.6; none] -/
  passSf : BitVec 40 := 0
  /-- RGN_CTL.STALLED. [1; 10 R284; 0] -/
  stalled : Bool := false
  /-- A lost-range command of the pass: 0 none, 1 LOST_ZEROIZE, 2 LOST_REKEY. [2; 10 R291; 0] -/
  lostCmd : Nat := 0
  /-- RGN_LOCK.HELD, HOLDER and the holder's epoch. [1, 6, 16; 04 R116; free] -/
  held : Bool := false
  holder : SessId := 0
  hepoch : BitVec 16 := 0
  /-- RGN_LOCK.RESOLVING, with the cause of the break. [1, 2; 04 R121; 0] -/
  resolving : Option (BitVec 2) := none
  /-- When the lease expires, in core cycles. [time; 04 R120; none] -/
  expiry : Option Nat := none
  /-- The open journal. [16 steps; 04 R118; empty] -/
  steps : List Step := []
  /-- Steps applied, the count of the journal head. [5; 04 R118; 0] -/
  finished : Nat := 0
  /-- SEQ of the JHEAD record that opened the journal. [32; 14 R376; 0] -/
  jid : Word := 0
  /-- Steps not acknowledged. [list; 04 R118; none] -/
  acts : List Act := []
  /-- Tiles whose UNMAP records of the ZEROIZE in progress have been programmed. [list of 3; 10 R268; none] -/
  zeroed : List TileId := []
  deriving DecidableEq, Repr

/-- An entry of the trouble record (R301). -/
structure Trouble where
  count : Nat := 0
  set : Bool := false
  firstSf : BitVec 40 := 0
  boot : BitVec 16 := 0
  deriving DecidableEq, Repr

/-- The body of a ledger record (Table 14.6), the counters (R377) and a user-area write (R381). The wrapped fields are kept
as the secrets they wrap; where the window shows bytes, those fields read as 0 (R381). -/
inductive Body where
  | ikey (h : BitVec 256)
  | identity (priv wrapping tree : BitVec 256)
  | drain (kind : BitVec 2) (run : BitVec 64) (sf : BitVec 40)
  | final (cause state seen : Byte) (run : BitVec 64) (sf : BitVec 40) (lastUs : BitVec 16)
  | root (jseq : BitVec 52) (counters : List (BitVec 56))
  | cred (enable v1ok : Bool) (rd wr : BitVec 16) (key : BitVec 256)
  | region (base size : BitVec 15) (compact : Bool) (st : BitVec 3) (cur stalled pendEn : Bool)
      (slot0 slot1 : Option (BitVec 256))
  | jhead (isOpen : Bool) (holder : SessId) (epoch : BitVec 16) (steps finished : Nat) (id : Word)
  | jstep (s : Step) (id : Word)
  | lost (first : BitVec 30) (level cause : BitVec 4) (valid : Bool) (regions : BitVec 16)
  | trouble (entries : List Trouble)
  | counter (v : BitVec 64)
  | user (vs : List Word)
  deriving DecidableEq, Repr

/-- A privileged record (R339): a drain-completion record, or the supervisor's final record. -/
def Body.privileged : Body → Bool
  | .drain kind _ _ => decide (kind ≠ 3)
  | .final .. => true
  | _ => false

/-- A copy of a record in the cells (R374); what a torn one holds is the free value of its number (log 1). -/
inductive Copy where
  | empty
  | torn (n : Nat)
  | ok (seq : Word) (b : Body)
  deriving DecidableEq, Repr

/-- What waits for a record to be committed (R375); the EVENT frames of an occurrence with the number of those they stand for (R306). -/
inductive Deferred where
  | ackReq (x : SessId) (epoch : BitVec 16) (seq : Word)
  | lockAck (x : SessId) (epoch : BitVec 16) (seq : Word) (r : RegionId) (lease : Nat)
  | credSet (x : SessId)
  | credOff (x : SessId)
  | stepApply (r : RegionId) (k : Nat) (id : Word)
  | stepDone (r : RegionId) (k : Nat) (id : Word)
  | stepAck (r : RegionId) (k : Nat) (id : Word)
  | resolved (r : RegionId)
  | rgnSet (r : RegionId) (us : List RgnUpd)
  | passStart (r : RegionId) (lost : Nat)
  | eventFrames (n : Nat) (sf : BitVec 40) (detail : BitVec 64) (count : Nat)
  | trbClear (k : Nat)
  | lostSet (t : TileId) (i : Nat)
  | lostFree (t : TileId) (i : Nat)
  | drainDone (t : TileId) (kind : BitVec 2)
  | finalDone
  | served
  | ikeySet (h : BitVec 256)
  | smbAck
  deriving DecidableEq, Repr

/-- A copy write waiting in the queue (R380); `first`: it is copy A of a record, whose copy B a later commit writes; `only`:
it rewrites one copy after recall (R376). -/
structure CopyWrite where
  base : Nat
  off : Nat
  size : Nat
  copy : Copy
  first : Bool
  only : Bool := false
  post : List Deferred := []
  deriving DecidableEq, Repr

/-- A record instance: the value that is committed, the one whose copy A is yet to be written, and the change merged behind a commit in
flight (R375). -/
structure Inst where
  seq : Word := 0
  gen : Bool := false
  val : Option Body := none
  flying : Option Body := none
  busy : Bool := false
  next : Option (Body × List Deferred) := none
  deriving DecidableEq, Repr

/-- The ledger (R372 to R381). -/
structure Ledger where
  /-- The cells, by ledger offset of the copy. [524,288 bytes; 14 R372, R373; empty as shipped, DESIGN CHOICE (log 4)] -/
  cells : Tab Copy := []
  /-- The record instances, by base offset. [list; 14 R373; none until recall] -/
  insts : Tab Inst := []
  /-- Copy writes waiting, and those whose producer found the queue full. [256 entries, list; 14 R380; empty] -/
  queue : List CopyWrite := []
  late : List CopyWrite := []
  /-- The commit in progress: the gathered copies. [page buffer of 256 bytes; 14 R372; none] -/
  flight : List CopyWrite := []
  /-- LDG_STS.RECALL. [1; 14 LDG_STS; 1] -/
  recalling : Bool := true
  /-- LDG_STS.TIE, TORN, COUNTER_LOST, CLOSED. [4 x 1; 14 LDG_STS; 0] -/
  tie : Bool := false
  torn : Bool := false
  ctrLost : Bool := false
  closed : Bool := false
  /-- When the ledger closes to ordinary producers, once PWRFAIL_N has fallen. [time; 12 R339; none] -/
  closeAt : Option Nat := none
  /-- VAON has fallen below its warning level. [1; 12 R339; 0] -/
  warned : Bool := false
  /-- LDG_START, LDG_SERVED. [2 x 64; 14 R377; 0] -/
  start : BitVec 64 := 0
  served : BitVec 64 := 0
  /-- Every DRAIN record counts as missing in this start-up, for a lost counter; tiles whose record counts as missing, for a drain
  given up. [1, 8; 14 R379, 12 R327; 0] -/
  lostNow : Bool := false
  unread : List TileId := []
  /-- LDG_COMMITS. [32; 14 LDG_COMMITS; 0] -/
  commits : Word := 0
  /-- LDG_IKEY. [256; 14 R370; 0] -/
  ikey : BitVec 256 := 0
  /-- An integrator key hash is provisioned (CFG_STS.IKEY_SET). [1; 14 R370; 0] -/
  keySet : Bool := false
  /-- The device wrapping key, identity key and tree secret. [3 x 256; 14 Table 14.6; none] -/
  ident : Option (BitVec 256 × BitVec 256 × BitVec 256) := none
  deriving DecidableEq, Repr

/-- An event source's routing (EVT_ROUTE). -/
structure Route where
  irq : Bool := false
  smb : Bool := false
  frame : BitVec 2 := 0
  deriving DecidableEq, Repr

/-- The EVT block (R299 to R307). -/
structure Evt where
  /-- EVT_PEND, by source. [288 x 1; 11 EVT_PEND; 0] -/
  pend : List Nat := []
  /-- EVT_ROUTE, by source. [288 x 4; 11 EVT_ROUTE; image, DESIGN CHOICE 0 (log 4)] -/
  route : Tab Route := []
  /-- EVT_TRB: the trouble record. [288 x 73; 11 R301; clear] -/
  trb : Tab Trouble := []
  /-- Clears that wait for their commits, oldest first: number, entries, the occurrences of these since. [list; 11 R303; none] -/
  clearing : List (Nat × List Nat × List (Nat × BitVec 40 × BitVec 16)) := []
  /-- Entries with COUNT increases not yet gathered (EVT_STS.COMMIT_PENDING). [list; 11 R302; none] -/
  dirty : List Nat := []
  /-- Happenings of rate-limited sources since the last superframe boundary: count and detail. [list; 11 R300; none] -/
  limitd : Tab (Nat × BitVec 64) := []
  /-- EVT_MECC.CORR. [32; 11 EVT_MECC; 0] -/
  mecc : Word := 0
  /-- The EVT block has been loaded, with the events that occurred before. [1, list; 01 R32; 0] -/
  loaded : Bool := false
  early : List (Nat × BitVec 64 × Bool) := []
  deriving DecidableEq, Repr

end Sys2Proof.Machine
end

