-- ==== Sys2Proof/Machine/TileTypes.lean ====
section
/-! DEFINITION. The records of the state that belong to a tile: intake, staging, translation, medium, schedule engine,
counters, performance counters (chapters 4 to 11, 13), its medium, and the per-tile thermal registers (chapter 15). -/

namespace Sys2Proof.Machine

/-- STATE of an intake cell (Table 4.1). -/
inductive CellSt where | claimed | armed | granted
  deriving DecidableEq, Repr

/-- Where a line of an armed part stands: not yet served (it waits under R101 or R135), waiting for a map page, for the
codeword read `id` (its place in the codeword is `sub`), for a merge that a WRITE has superseded (`behind`, R135), for the counter
block of slot `grp` with its codeword at `cwa` (`token`: the GEN of the token it was read under), for its checks before a merge (`ok`: they have passed), or served. -/
inductive Phase where
  | todo
  | map (page : Nat)
  | read (id sub : Nat)
  | counter (grp : Nat) (cwa : BitVec 34) (sub : Nat) (token : Option Word)
  | checking (data : Line) (ok : Bool)
  | behind (cell ix : Nat)
  | served
  deriving DecidableEq, Repr

/-- An intake cell (Table 4.1) with what its part has delivered so far. -/
structure Cell where
  sess : SessId
  seq : Word
  op : BitVec 8
  home : TileId
  tla : BitVec 42
  /-- Index in the request of the part's first line. -/
  first : Nat := 0
  n : Nat := 0
  st : CellSt := .claimed
  /-- STAMP: arming time in core cycles, modulo 2^40. -/
  stamp : BitVec 40 := 0
  /-- LINES not served: the phase of each line, by index in the part. -/
  phase : Tab Phase := []
  /-- Claimed frames: data, and byte enables of a WRITE_PARTIAL, by index in the part. -/
  data : List Line := []
  mask : List (BitVec 64) := []
  /-- OPERANDS of an atomic; after execution `opA` holds the old value. -/
  opA : BitVec 64 := 0
  opB : BitVec 64 := 0
  /-- Presented location tokens, by group index in the part. -/
  tokens : List (BitVec 64) := []
  /-- An atomic or a WRITE_PARTIAL line has been executed. -/
  executed : Bool := false
  /-- The frame each line of a write part took: `true` a claim-buffer frame, `false` a staging frame. -/
  took : List Bool := []
  /-- Lines whose claim-buffer frame has an uncorrectable word (Table 11.2, 0x1). -/
  bad : List Nat := []
  /-- Claim-buffer frames held for presented tokens, and staging frames held for a rolling write. -/
  cbuf : Nat := 0
  extra : Nat := 0
  wtok : Nat := 0
  /-- The claim is a group's rolling write (R280): the slot number of the group. -/
  rolling : Option Nat := none
  /-- Counted in ADM_CNT.HAZARD; counted in SCH_CNT.GALE_WAIVED. -/
  hazard : Bool := false
  galed : Bool := false
  /-- Since the part's admission its tile was in gale mode at a decision instant (R241); since its linking its session was becalmed
  (R148). -/
  galeWait : Bool := false
  calmWait : Bool := false
  /-- Lines whose lookup missed the map cache, and tokens counted in XLT_CNT, by index in the part (log 95). -/
  missed : List Nat := []
  counted : List Nat := []
  /-- Lines of a READ that a later write of the session has been armed on (R69, R101): the frame's contents and poison before it, or
  nothing where the line was not resident and the medium holds the version before it. -/
  pinned : Tab (Option (Line × Bool)) := []
  /-- What each line that is read from the medium was packed under: key slot, major, minor, by index in the part (R133, R272). -/
  keys : Tab (Option (Bool × BitVec 56 × Nat)) := []
  /-- Lines delivered: index in the part, data, by delivery. -/
  given : Tab Line := []
  /-- Lines never written, by index. -/
  never : List Nat := []
  /-- Tokens issued, by group index. -/
  issued : Tab (BitVec 64) := []
  /-- Lines whose checks are pending, by index in the part. -/
  pending : List Nat := []
  /-- Lines whose delivered tag does not match, by index in the part. -/
  tagBad : List Nat := []
  res : PartRes := {}
  /-- The completion has been reported; the cell waits for its checks only. -/
  reported : Bool := false
  deriving DecidableEq, Repr

/-- A line in a staging frame (R126 to R132). -/
structure Staged where
  data : Line
  /-- Arming order; pulled lines are unmodified (R280). -/
  ord : Nat
  pulled : Bool := false
  /-- 0 none, 1 uncorrectable staging word (Table 5.5). -/
  poison : Bool := false
  packing : Bool := false
  /-- Older frames of the line that are still being packed (R132). -/
  older : Nat := 0
  /-- What the version of the line on the medium was packed under, where a pack has advanced the line's counter since: key slot, major,
  minor (R273). -/
  prev : Option (Bool × BitVec 56 × Nat) := none
  deriving DecidableEq, Repr

/-- What a codeword read is for; `patrol` is a calibration read of patrol or survey (R188, R211), `carry` a read of a slab that is being
retired (R197), by 8 x channel + die, `recovery` one of a recovery (R217), `repair` the rebuild of an object that has failed its check
(R287). -/
inductive Owner where
  | part (cell : Nat)
  | mapPage (page : Nat)
  | counter (slot : Nat)
  | fold (tract : Nat)
  | collect (stratum : Nat)
  | pull (slot : Nat)
  | check (cwa : BitVec 34) (line : Nat)
  | node (key : Nat)
  | repair (key : Nat)
  | child (parent : Nat)
  | patrol
  | dma
  | carry (die : Nat)
  | recovery
  deriving DecidableEq, Repr

/-- How far a codeword read has come (R146): queued or issued; a first read, a retry, or a rebuild whose seven reads run. -/
inductive Stage where
  | first
  | retry
  | rebuild (left : Nat) (acc : BitVec 2304) (bad : Bool)
  deriving DecidableEq, Repr

/-- A codeword read. -/
structure Fetch where
  cwa : BitVec 34
  owner : Owner
  stage : Stage := .first
  flying : Bool := false
  /-- When its need arose (R145). -/
  since : Nat := 0
  /-- Foreground retries and rebuild reads go ahead of the arbiter. -/
  ahead : Bool := false
  /-- The first read used the set of this bucket. -/
  bucket : Nat := 0
  /-- The token the read was made under, with the page's GEN at lookup (R167). -/
  token : Option Word := none
  /-- A read operation of the codeword has been granted: the read has taken its place in the order (R133). -/
  seen : Bool := false
  deriving DecidableEq, Repr

/-- A tract entry (Table 6.2). HEAT is made of the folds of the tract in epoch `ep` and in the epoch before it (R158). -/
structure Te where
  loc : BitVec 30 := 0
  image : Bool := false
  folds : BitVec 2 := 0
  before : BitVec 2 := 0
  ep : Nat := 0
  deriving DecidableEq, Repr

/-- A fold in progress (R178): the old image and the entries it set out to read, and the codewords still to be read. -/
structure Fold where
  tract : Nat
  oldLoc : BitVec 30
  oldImage : Bool
  /-- Overlay entries: line, line address. -/
  ents : List (Nat × Nat)
  left : List (BitVec 34)
  /-- Its page has been formed. -/
  paged : Bool := false
  deriving DecidableEq, Repr

/-- A map directory entry (Table 6.3). -/
structure Dir where
  loc : BitVec 30 := 0
  isEmpty : Bool := true
  gen : Word := 1
  deriving DecidableEq, Repr

/-- A map page in the map cache (R163). -/
structure CPage where
  dirty : Bool := false
  ref : Bool := true
  deriving DecidableEq, Repr

/-- A stream (R170) or a reserved use (R179) of a stratum. -/
inductive Stream where | hot | cold | map | cairn | anchor | counters
  deriving DecidableEq, Repr

/-- State of a stratum (R179). -/
inductive StrSt where | free | opened | closed | pendErase | reserved | withdrawn
  deriving DecidableEq, Repr

/-- A stratum table entry (R179, R207), with the next page position of each channel while OPEN. -/
structure Stratum where
  stream : Stream := .hot
  st : StrSt := .free
  valid : Nat := 0
  bucket : BitVec 4 := 0
  /-- Progress through the bucket, in drift-clock units. -/
  progress : Nat := 0
  /-- Drift clock when it was opened; superframe when it was sealed, `none` before the last cold reset, and the order of sealing. -/
  openedDc : Nat := 0
  sealedSf : Option (BitVec 40) := none
  sealNo : Nat := 0
  uncertain : Bool := false
  /-- A finding has made it a refresh victim (Table 7.7). -/
  refresh : Bool := false
  narrow : Option ChanId := none
  /-- A counter page has been programmed into it (R293). -/
  ctrs : Bool := false
  /-- At its erase the stratum is withdrawn (Tables 7.3 and 7.4). -/
  doomed : Bool := false
  /-- Next page position of each channel. -/
  next : Tab Nat := []
  /-- Page positions whose data has programmed, by channel. -/
  done : Tab Nat := []
  /-- Page positions whose program was cut short: channel, position (R190, R192). -/
  holes : List (Nat × Nat) := []
  /-- Weak slabs, by channel (R196). -/
  weak : List Nat := []
  /-- Channels whose slab has had its last erase step; those of them whose slab failed its erase and has been replaced (R196). -/
  erased : List Nat := []
  spared : List Nat := []
  deriving DecidableEq, Repr

/-- A lost range (R290). -/
structure LostR where
  first : BitVec 30
  level : BitVec 4
  cause : BitVec 4
  regions : BitVec 16
  live : Bool := false
  /-- Until a joined range has been committed: the ranges in effect, by first tract slot and width. -/
  was : List (Nat × Nat) := []
  /-- Regions whose part of the range is being unmapped (R291). -/
  doing : BitVec 16 := 0
  deriving DecidableEq, Repr

/-- A counter block (Tables 10.3 and 10.4). -/
structure Ctr where
  major : BitVec 56 := 0
  minor : Tab Nat := []
  epoch : Bool := false
  deriving DecidableEq, Repr

/-- What a POISON record rests on: the codeword that must still be the line's current location (R212), or the staging frame
whose word is uncorrectable (Table 11.2, 0x0), or a record alone, of a frame that a loss of the tile's work has set back (R184). -/
inductive PoisonFrom where
  | medium (cwa : BitVec 34)
  | staging (ord : Nat)
  | record
  deriving DecidableEq, Repr

/-- A journal record (Table 6.7), with what the tile does as it applies it. `lines` of LOG: line number, line address, arming order.
IMAGE: `entries` are the overlay entries a fold read; `direct` images have `ords` instead, lines and arming orders; `roll` is the slot of
a rolled group, and whether this is its last tract. MAPPAGE: `objs` are the counter objects as they were written. -/
inductive JRec where
  | log (page : BitVec 30) (lines : List (Nat × Nat × Nat))
  | image (tract : Nat) (loc oldLoc : BitVec 30) (oldImage : Bool) (entries : List (Nat × Nat)) (direct : Bool)
      (ords : List (Nat × Nat)) (roll : Option (Nat × Bool))
  | logMove (line : Nat) (old new : Nat)
  | imageMove (tract : Nat) (old new : BitVec 30)
  | poison (line : Nat) (set : Bool) (from_ : PoisonFrom)
  | unmap (first count : Nat)
  | mapPage (page : Nat) (loc : BitVec 30) (gen : Word) (objs : List (Nat × BitVec 512))
  | pendErase (stratum : Nat)
  | freed (stratum : Nat)
  | ckpt (page : BitVec 30)
  deriving DecidableEq, Repr

/-- What a page to be programmed holds. `mapItem`: a map page, a counter page or a page of the counter directory, with its GEN and the
counter objects as they were written; `table`: a page of a checkpoint; `copyMap`: a journal or checkpoint page of a victim; `carry`: a
page carried over to a replacement slab (R197). -/
inductive Content where
  | log (lines : List (Nat × Nat))
  | image (tract : Nat) (ords : List (Nat × Nat)) (roll : Option (Nat × Bool))
  | foldImage (tract : Nat) (oldLoc : BitVec 30) (oldImage : Bool) (entries : List (Nat × Nat))
  | copyImage (tract : Nat) (old : BitVec 30)
  | copyLog (items : List (Nat × Nat))
  | mapItem (page : Nat) (gen : Word) (objs : List (Nat × BitVec 512))
  | journal (first : BitVec 52) (recs : List JRec)
  | table (k : Nat)
  | copyMap (old : BitVec 30)
  | carry
  | filler
  | parity
  deriving DecidableEq, Repr

/-- A page to be programmed: its stream, its sixteen codeword payloads, and whether it is background work. -/
structure PageJob where
  stream : Stream
  content : Content
  cws : List (BitVec 2304) := []
  lull : Bool := false
  /-- Bound by re-key work (REKEYED counter). -/
  rekey : Bool := false
  /-- A copy of an item of a victim (R183). -/
  gc : Bool := false
  deriving DecidableEq, Repr

/-- A page position being filled or programmed on a die (R228, R229). -/
structure Prog where
  stratum : Nat
  pos : Nat
  pages : List PageJob
  steps : Nat := 0
  /-- When the last transfer or the previous step was. -/
  at_ : Nat := 0
  overdue : Bool := false
  deriving DecidableEq, Repr

/-- A run in progress on a channel (R228). -/
structure Run where
  die : DieId
  cls : BitVec 3
  left : Nat
  page : Option Prog := none
  lent : Bool := false
  deriving DecidableEq, Repr

/-- The records of a die that its remap area holds (R194). DESIGN CHOICE: as shipped the map is the identity, with every slab of the
reserve range in the pool, none bad and none erased (log 162); of the area's journal and checkpoints the state holds what they amount to
(log 165). -/
structure DieRec where
  /-- The die is marked lost; the mark is kept in the remap areas of the channel's other dies (R200). -/
  lost : Bool := false
  /-- Remap table, where it differs from the identity. -/
  remap : Tab Nat := []
  /-- Erase counts of physical slabs. -/
  wear : Tab Nat := []
  /-- Physical slabs of the reserve range that have left the pool, and others that have joined it. -/
  poolOut : List Nat := []
  poolIn : List Nat := []
  bad : List Nat := []
  /-- Program and erase failures of physical slabs that a repeated step recovered (Table 7.2). -/
  fails : Tab Nat := []
  /-- The spare-low event of the die has been raised (R198). -/
  spareLow : Bool := false
  deriving DecidableEq, Repr

/-- A change of a die's records on its way to the remap area (R195): the records as they will be, and what the table in SRAM does once
the record has been programmed: a retirement on a program failure gives the failed page back to the tile (R197). -/
structure Change where
  recs : DieRec
  /-- Program steps of the record issued so far; when the previous one was, or the record came to be programmed; overdue (R229). -/
  steps : Nat := 0
  at_ : Nat := 0
  overdue : Bool := false
  failed : Option Prog := none
  deriving DecidableEq, Repr

/-- A slab whose program failed at a position: the positions before it are read and programmed into the replacement (R197). -/
structure Carry where
  /-- The page position that failed, with its pages. -/
  failed : Prog
  /-- The replacement: a physical slab. -/
  dest : Nat
  /-- The next position to be carried over. -/
  next : Nat := 0
  /-- Codewords of the positions before `failed` that have still to be read. -/
  left : List (BitVec 34) := []
  deriving DecidableEq, Repr

/-- A die under the schedule: its program, its erase, and its channel-level records (R194, R200). -/
structure Die where
  prog : Option Prog := none
  /-- The erase in progress: stratum, steps done, time of the previous step, overdue. -/
  erase : Option (Nat × Nat × Nat × Bool) := none
  /-- Consecutive command timeouts; a command was issued that has not timed out. -/
  timeouts : Nat := 0
  asked : Bool := false
  /-- The records as channel SRAM holds them, and the changes that wait to be programmed, oldest first. -/
  recs : DieRec := {}
  changes : List Change := []
  carry : Option Carry := none
  /-- Slabs retired in the current epoch, and that epoch. -/
  retEpoch : Nat := 0
  retCount : Nat := 0
  levelReq : Option (Nat × BitVec 40) := none
  deriving DecidableEq, Repr

/-- What the tile's medium keeps without power: codewords, the anchor's pointers, the cairn, the remap areas and the witness (R157,
R173, R176, R194, R214). -/
structure Medium where
  /-- Programmed codeword payloads, by CWA; the LDPC parity behind each is a function of it, and is not held (log 164). [4 TiB of line
  data; 06 R156, 07 R192; unprogrammed] -/
  cws : Tab (BitVec 2304) := []
  /-- The anchor's pointers: first page of the newest checkpoint, head of the map journal. [2 x 30; 06 R157; none] -/
  ckptAt : Option (BitVec 30) := none
  head : Option (BitVec 30) := none
  /-- Written-span bitmap of the newest checkpoint. [5 MiB; 06 R176; clear] -/
  ckptSpans : Tab Bool := []
  /-- Drift clock recorded by the newest witness page. [64; 07 R214; 0] -/
  witness : BitVec 64 := 0
  /-- The cairn: drained staging lines, encrypted, each with its poison; the nonce they are encrypted under; the drained span bitmap,
  dirty map pages, dirty counter objects, root and ripe table. [256 MiB; 12 R337; erased] -/
  cairn : Tab (Line × Bool) := []
  cairnNonce : Word := 0
  cairnSpans : Tab Bool := []
  cairnPages : List Nat := []
  cairnObjs : Tab (BitVec 512) := []
  cairnRoot : List (BitVec 56) := []
  cairnRipe : List Nat := []
  /-- Remap areas, by 8 x channel + die. [64 records; 07 R194; as shipped: identity map, pool 65,536 to 69,631] -/
  remaps : Tab DieRec := []
  /-- Slabs of the cairn with a failed program, to be retired at start-up: 8 x channel + die, slab. [list; 12 R337; none] -/
  cairnBad : List (Nat × Nat) := []
  deriving DecidableEq, Repr

/-- Intake and staging of a tile (chapter 4, chapter 5). -/
structure Adm where
  /-- Cells in use, by cell number 64 to 32,767. [32,704 x 64 bytes; 04 R95; free] -/
  cells : Tab Cell := []
  /-- Queue of each session, oldest cell first. [64 lists; 04 R96; empty] -/
  queues : Tab (List Nat) := []
  /-- Ready lists, by (session x 8 + channel) x 8 + die: codeword reads. [4,096 lists; 04 R96; empty] -/
  ready : Tab (List Nat) := []
  /-- ADM_POOL.MIN_FREE. [16; 04 ADM_POOL; 32,704] -/
  minFree : Nat := 32704
  /-- ADM_WTOK.LEVEL. [20; 04 R105; DEPTH] -/
  level : Nat := 0
  /-- ADM_WCFG.RATE and HALVED. [13, 1; 04 R105; image, 0] -/
  rate : Nat := 0
  halved : Bool := false
  /-- ADM_WBURST.DEPTH. [20; 04 R105; image] -/
  depth : Nat := 0
  /-- ADM_STAGE.FREE. [21; 04 R106; 1,572,864] -/
  stFree : Nat := 1572864
  /-- Free claim-buffer frames. [15; 05 R130; 16,384] -/
  cbFree : Nat := 16384
  /-- ADM_CNT: DROPPED to HAZARD at 0 to 6. [7 x 32; 04 ADM_CNT; 0] -/
  cnt : Tab Word := []
  /-- ADM_SCFG. [64 x 32; 04 R112; image, DESIGN CHOICE 0 (log 4)] -/
  scfg : Tab Word := []
  /-- ADM_QSTS.USED. [64 x 10; 04 R113; 0] -/
  used : Tab Nat := []
  /-- ADM_QSTS.BECALMED. [64 x 1; 04 R113; none] -/
  becalmed : List Nat := []
  /-- Rewind marks: the last cell of the queue at the mark, 0 for none (ADM_QSTS.MARK_SET). [64 x 15; 04 R103; none] -/
  marks : Tab (Option Nat) := []
  /-- Round-robin pointers, by 2 x channel + class. [16 x 6; 04 R115; DESIGN CHOICE 0 (log 4)] -/
  rr : Tab Nat := []
  /-- Staging, by tile-local line. [96 MiB; 05 R126; empty] -/
  staged : Tab Staged := []
  /-- Next arming order. [counter, the model's own; 06 R171; 0] -/
  ord : Nat := 0
  /-- Lines being merged: the cell and index of the merge, by line. [list; 05 R135; none] -/
  merging : Tab (Option (Nat × Nat)) := []
  /-- Lines of cells that a WRITE has superseded: they take their place before it, read the line from before it, and their
  result line is discarded. [list; 05 R135; none] -/
  superseded : List (Nat × Nat) := []
  deriving DecidableEq, Repr

/-- A checkpoint being taken (R176, R278). -/
structure CkptRun where
  /-- Dirty map pages and counter pages at its start that have yet to be written back. -/
  todo : List Nat
  /-- Those of them on their way to the medium at its start, as they were before it. -/
  skip : List Nat := []
  /-- The first journal page programmed after its start, where a replay begins. -/
  head : Option (BitVec 30) := none
  /-- The next page of the tables to be bound, and those programmed: index and page address. -/
  next : Nat := 0
  pages : Tab (BitVec 30) := []
  spans : Tab Bool := []
  /-- The CKPT record has been formed. -/
  recorded : Bool := false
  deriving DecidableEq, Repr

/-- Translation of a tile (chapter 6). -/
structure Xlt where
  /-- Written-span bitmap, by TLA >> 16. [41,943,040 x 1; 05 R128; clear] -/
  spans : Tab Bool := []
  /-- Base map. [671,088,640 x 8 bytes; 06 R158; UNMAPPED] -/
  te : Tab Te := []
  /-- Map directory. [1,310,720 x 8 bytes; 06 R159; EMPTY, GEN 1] -/
  dir : Tab Dir := []
  /-- Overlay, by line: line address, or poison (`none`). [1,048,576 entries; 06 R160; empty] -/
  ovl : Tab (Option (Option Nat)) := []
  /-- Map cache: cached pages in clock order, hand at the head. [3,584 pages; 06 R163; empty] -/
  cache : List (Nat × CPage) := []
  /-- Pages being fetched. [list; 06 R163; none] -/
  fetching : List Nat := []
  /-- Token key. [128; 06 R168; drawn at every cold and warm reset; DESIGN CHOICE 0 in State.reset (log 4)] -/
  tokenKey : BitVec 128 := 0
  /-- XLT_GCCFG. [32; 06 XLT_GCCFG; image, DESIGN CHOICE 0 (log 4)] -/
  gccfg : Word := 0
  /-- Stratum table. [524,288 entries; 06 R179; FREE] -/
  strata : Tab Stratum := []
  /-- XLT_PEND.ORPHANS, and the strata in which pages have been left without their records since. [16, list; 06 R184; 0, none] -/
  orphans : Nat := 0
  orphaned : List Nat := []
  /-- Journal records waiting to be programmed, and the journal sequence number. [list, 52; 06 R173; empty, 0] -/
  jbuf : List JRec := []
  jseq : BitVec 52 := 0
  /-- Background pages ready to be bound. [list; 08 R226; empty] -/
  bgPages : List PageJob := []
  /-- MAP-stream pages ready to be bound. [list; 08 R226; empty] -/
  mapPages : List PageJob := []
  /-- Folds in progress. [list; 06 R177; none] -/
  folds : List Fold := []
  /-- Entries whose overlay bucket is full: a packed line's line address, with its arming order where its frame waits for the entry, or
  what has given a line poison. [list; 06 R177; none] -/
  displaced : List (Nat × (Nat × Option Nat ⊕ PoisonFrom)) := []
  /-- Ranges of tracts to be unmapped whose records have not all been formed: first, count. [list; 06 R161, R163; none] -/
  unmaps : List (Nat × Nat) := []
  /-- Journal pages that are needed, oldest first, with the checkpoints completed before them; pages of the newest checkpoint. [lists; 06
  R173, R176; none] -/
  jpages : List (BitVec 30 × Nat) := []
  ckptPages : List (BitVec 30) := []
  /-- Checkpoints completed; superframe at which the last one began; the one being taken: pages to be written back first, the next page
  of the tables, pages of the tables written so far, spans as they go into it. [counter, 40, record; 06 R176; 0, 0, none] -/
  ckpts : Nat := 0
  ckptSf : Option (BitVec 40) := none
  ckptRun : Option CkptRun := none
  /-- The next order of sealing. [counter, the model's own; 06 R180; 0] -/
  sealNo : Nat := 0
  /-- Rotating fold pointer. [18; 06 R177; 0] -/
  foldPtr : Nat := 0
  /-- Current victim, its phase and its items left to copy (XLT_GCSTS). [19, 3, list; 06 R181; idle] -/
  victim : Option Nat := none
  gcPhase : BitVec 3 := 0
  gcLeft : List (BitVec 34) := []
  /-- XLT_HOSTLN, XLT_MEDLN. [2 x 64; 06 R186; 0] -/
  hostLn : BitVec 64 := 0
  medLn : BitVec 64 := 0
  /-- XLT_CNT: MAPC_HIT to SUPERSEDED at 0 to 9. [10 x 32; 06 XLT_CNT; 0] -/
  cnt : Tab Word := []
  deriving DecidableEq, Repr

/-- Medium management of a tile (chapter 7). -/
structure Med where
  /-- Dies, by 8 x channel + die. [64 records; 07 R194; as shipped: identity map, pool 65,536 to 69,631] -/
  dies : Tab Die := []
  /-- MED_CCNT, counter i of channel c at 8c + i. [8 x 8 x 32; 07 MED_CCNT; 0] -/
  ccnt : Tab Word := []
  /-- MED_TCNT: PATROL_CW to WEAR_VICTIM at 0 to 7. [8 x 32; 07 MED_TCNT; 0] -/
  tcnt : Tab Word := []
  /-- MED_TSTS.READ_ONLY and RO_CAUSE: bit 0 spares, bit 1 lost-die capacity. [1, 2; 07 R199; 0] -/
  roCause : BitVec 2 := 0
  /-- MED_TSTS.EVAC: die indices being evacuated; indices evacuated. [8, 8; 07 R201; none] -/
  evacDies : List Nat := []
  /-- A die's remap area has been read since the last cold or warm reset. [1, the model's own; 07 R194; 0] -/
  remapRead : Bool := false
  /-- MED_TSTS.MAP_LOST: the page of the item that cannot be read. [1, 30; 07 R213; none] -/
  mapLost : Option (BitVec 30) := none
  /-- MED_TSTS.AGE_MODE, and an invalid reading during a hold. [2; 07 R215; 0] -/
  ageUnknown : Bool := false
  /-- MED_DCLK. [64; 07 R206; 0] -/
  dc : BitVec 64 := 0
  /-- Advances that fell due during a reset. [64; 07 R206; 0] -/
  dcDue : Nat := 0
  /-- The witness has been read since the cold reset. [1; 07 R214; 0] -/
  dcRead : Bool := false
  /-- Drift weight table. [64 x 16; 07 R206; image, DESIGN CHOICE 0 (log 4)] -/
  weights : Tab (BitVec 16) := []
  /-- MED_PATROL.EPOCHS, PASSES. [2 x 16; 07 MED_PATROL; image, 0] -/
  epochs : BitVec 16 := 0
  passes : Nat := 0
  /-- MED_PPOS; strata reached in the pass; superframe at which the pass began. [19; 07 MED_PPOS; 0] -/
  ppos : Nat := 0
  reached : Nat := 0
  passSf : BitVec 40 := 0
  /-- The pass has reached every SEALED stratum; the codeword that patrol or survey reads next; bits corrected so far in the stratum
  surveyed, by bucket. [1, 34, 16 sums; 07 R211, R215; 0, none, 0] -/
  passDone : Bool := false
  pnext : Option (BitVec 34) := none
  psums : List Nat := []
  /-- What a retry or a rebuild has given of the codeword that patrol or survey is at. [none or one of 3; 07 R211; none] -/
  pfound : Option Recourse := none
  /-- Payloads rebuilt for codewords whose line or object failed its check, until their stratum is erased. [list; 10 R287; none] -/
  fixed : Tab (BitVec 2304) := []
  /-- SURVEY_SF and REKEY_PACE of the certificate. [16, 32; 09 R259; image] -/
  surveySf : Nat := 0
  rekeyPace : Nat := 0
  deriving DecidableEq, Repr

/-- Schedule engine of a tile (chapter 8). -/
structure Sch where
  /-- Schedule store: words of template T of variant v, at (256v + T) x 512 + index. [4 x 256 x 512 x 32; 08 R231; empty] -/
  words : Tab Word := []
  /-- Sequences, at 1,024v + f. [4 x 1,024 x 8; 08 R231; empty] -/
  seqs : Tab Byte := []
  /-- Variants present. [4; 08 R232; none] -/
  present : BitVec 4 := 0
  /-- Words of the store that read uncorrectable. [list; 08 R244; none] -/
  badWords : List Nat := []
  /-- The engine runs. [1; 08 R246; 0] -/
  run : Bool := false
  /-- The engine halts, or starts, at the next superframe boundary. [1, 1; 13 R357; 0] -/
  haltDue : Bool := false
  startDue : Bool := false
  /-- SCH_CTL.LEAN_REQ. [1; 08 SCH_CTL; 0] -/
  leanReq : Bool := false
  /-- SCH_STS.VAR, NEXT, WORD_ERR, FRAME; the slot within the frame. [2, 2, 1, 10, 6; 08 SCH_STS; 0] -/
  var : BitVec 2 := 0
  next : BitVec 2 := 0
  wordErr : Bool := false
  f : Nat := 0
  k : Nat := 0
  /-- The superframe has begun and its frame 0 has not. [1, the model's own; 08 R234; 1] -/
  fresh : Bool := true
  /-- SCH_STS.GALE; frames in gale mode; GALE_LONG raised. [1; 08 R239; 0] -/
  gale : Bool := false
  galeFrames : Nat := 0
  galeLongDone : Bool := false
  /-- SCH_GSF. [40; 08 SCH_GSF; 0] -/
  gsf : BitVec 40 := 0
  /-- SCH_GCNT.ENTRIES, CAUSE. [16, 8; 08 SCH_GCNT; 0] -/
  entries : Nat := 0
  cause : Byte := 0
  /-- SCH_CNT: LENT_RD to WORD_UNCORR at 0 to 9; FORCED at 10 and BG_RD at 11, which have no register. [12 x 32; 08 SCH_CNT, R229, R236; 0] -/
  cnt : Tab Word := []
  /-- SCH_DLIM. [8 x 32; 08 SCH_DLIM; image] -/
  dlim : Tab Word := []
  /-- Runs in progress, by channel. [8 records; 08 R228; none] -/
  runs : Tab (Option Run) := []
  /-- Erases queued: strata in PENDING_ERASE that have begun. [list; 08 R229; none] -/
  erases : List Nat := []
  /-- Codeword reads, by number, and the next number. [list; 05 R142; none] -/
  fetches : Tab (Option Fetch) := []
  fid : Nat := 0
  /-- The last grant of each channel: session, for PMC sampling. [8 records; 11 R311; none] -/
  grants : Tab (Option Nat) := []
  deriving DecidableEq, Repr

/-- Stored-data protection of a tile (chapter 10). -/
structure Sec where
  /-- Counter blocks, by slot number. [671,088,640 blocks; 10 R274; all zero] -/
  ctrs : Tab Ctr := []
  /-- Verified counter objects in the cache: (level, index) keys level x 2^30 + index; true when dirty. [262,144; 10 R277; empty] -/
  cached : Tab (Option Bool) := []
  /-- Node counters: versions of objects by key. [56 each; 10 R275; 0] -/
  versions : Tab Nat := []
  /-- Root counters, in three copies. [3 x 5 x 56; 10 R277; 0] -/
  root : List (BitVec 56) := [0, 0, 0, 0, 0]
  rootB : List (BitVec 56) := [0, 0, 0, 0, 0]
  rootC : List (BitVec 56) := [0, 0, 0, 0, 0]
  /-- Counter fetches in progress; blocks fetched whose checks have not ended. [lists; 10 R277, R285; none] -/
  fetching : List Nat := []
  arrived : List Nat := []
  /-- Ripe groups, oldest first, by slot number. [65,536; 10 R279; empty] -/
  ripe : List Nat := []
  /-- Groups being rolled: slot number, lines still to be pulled. [list; 10 R280; none] -/
  rolling : List (Nat × List Nat) := []
  /-- Rolling groups whose images have been packed, with the counters they are packed under; those of their images that have programmed,
  by tract: page address, frames. [lists; 10 R280; none] -/
  imaged : Tab (Option Ctr) := []
  rollPages : Tab (Option (BitVec 30 × List (Nat × Nat))) := []
  /-- LOG and IMAGE records of each line since the last write-back of its counter block, as a replay of the journal counts them.
  [list; 10 R292; none] -/
  packs : Tab Nat := []
  /-- Stalled groups (SEC_STALL). [list; 10 R284; none] -/
  stalled : List Nat := []
  /-- Pass that raised SEC_REKEY_STALL already, by region. [16 x 1; 10 R284; none] -/
  stallRaised : List Nat := []
  /-- SEC_LOST. [64 entries; 10 R290; none] -/
  lost : Tab (Option LostR) := []
  /-- SEC_CNT: TAG_FAIL to RESYNC at 0 to 7. [8 x 32; 10 SEC_CNT; 0] -/
  cnt : Tab Word := []
  deriving DecidableEq, Repr

/-- A sample record (PMC_SREC). -/
structure Sample where
  sf : BitVec 40
  w : BitVec 19
  counter : Fin 64
  cls : BitVec 3
  gale : Bool
  grant : Option Nat
  deriving DecidableEq, Repr

/-- The PMC block of a tile. -/
structure Pmc where
  /-- PMC_CTL.RUN. [1; 11 PMC_CTL; 0] -/
  run : Bool := false
  /-- PMC_OVF0 and PMC_OVF1. [64; 11 PMC_OVF0; 0] -/
  ovf : BitVec 64 := 0
  /-- PMC_SPERIOD. [24; 11 PMC_SPERIOD; 0] -/
  period : BitVec 24 := 0
  /-- The sample buffer, oldest first. [64 records; 11 R311; empty] -/
  recs : List Sample := []
  /-- PMC_SSTS.DROPPED. [16; 11 PMC_SSTS; 0] -/
  dropped : Nat := 0
  /-- PMC_CFG. [64 x 15; 11 PMC_CFG; 0] -/
  cfg : Tab Word := []
  /-- PMC_CNT. [64 x 48; 11 R308; 0] -/
  cnt : Tab (BitVec 48) := []
  /-- The core cycle of the last occurrence; counters that have advanced at LEVEL in it, and samples taken in it. [time, lists, the model's
  own; 11 R308, R311; none] -/
  cyc : Nat := 0
  lev : List (Fin 64) := []
  fresh : Nat := 0
  /-- Overflows whose PMC_OVF is to be raised with the next cycle. [64; 11 R309; 0] -/
  due : BitVec 64 := 0
  deriving DecidableEq, Repr

/-- State of a tile (TCTL_STS.STATE). -/
inductive TileSt where | starting | inService | stopping | stopped | faultReset | replay | out
  deriving DecidableEq, Repr

/-- The TCTL block of a tile and the modes of its stops. -/
structure Tctl where
  /-- TCTL_CTL.ENABLE. [1; 13 TCTL_CTL; 1] -/
  enable : Bool := true
  /-- TCTL_CTL.PENDING_ENABLE. [1; 13 TCTL_CTL; 0] -/
  pendEn : Bool := false
  /-- TCTL_STS.STATE. [3; 13 TCTL_STS; STARTING] -/
  st : TileSt := .starting
  /-- TCTL_STS.SRAM_RETAINED; the tile still recovers from what was retained; the contents have been lost since the last
  reset. [3 x 1; 13 R354, 12 R327; 0] -/
  retained : Bool := false
  keep : Bool := false
  sramBad : Bool := false
  /-- TCTL_STS.RECOVERY. [3; 13 R359; 0] -/
  recovery : BitVec 3 := 0
  /-- TCTL_STS.STOP_CAUSE. [4; 13 TCTL_STS; 0] -/
  stopCause : BitVec 4 := 0
  /-- TCTL_FAULT.CAUSE, COUNT. [8, 16; 13 TCTL_FAULT; 0] -/
  cause : Byte := 0
  count : Nat := 0
  /-- TCTL_FSF. [40; 13 TCTL_FSF; 0] -/
  fsf : BitVec 40 := 0
  /-- A drain (R337) or a clean packing (R329) is in progress, and whether its record has been requested. [1, 1, 1; 12 R337; 0] -/
  draining : Bool := false
  packing : Bool := false
  recReq : Bool := false
  /-- Page positions that the drain has still to program into the cairn, and the next cairn page position of each die, by 8 x channel + die.
  [count, 64 positions; 12 R337; 0] -/
  cairnLeft : Nat := 0
  cairnPos : Tab Nat := []
  /-- The reads of recovery have been linked; those of their codewords that can be neither read nor rebuilt. [1, list; 07 R217; 0, none] -/
  recRead : Bool := false
  recBad : List (BitVec 34) := []
  /-- Medium initialised; tile phase loaded; READBACK failed once. [3 x 1; 13 R358; 0] -/
  medInit : Bool := false
  loaded : Bool := false
  readback : Bool := false
  /-- Cells wait to be replayed after a fault reset (R151). [1; 05 R151; 0] -/
  replayDue : Bool := false
  /-- Start-up has reached step 10 on the tile: its ports may run. [1; 13 Table 13.7; 0] -/
  portsGo : Bool := false
  /-- The record that marks the drain consumed has been requested, and committed (R341). [1, 1; 12 R341; 0] -/
  consReq : Bool := false
  consumed : Bool := false
  /-- The checkpoint that ends a packing, a reload or a recovery without a drain: 0 not begun, 1 begun, 2 complete. [2; 12 R329, R341; 0] -/
  lastCkpt : Nat := 0
  /-- Admission opens as SERVED has been committed (R378). [1; 14 R378; 0] -/
  admDue : Bool := false
  /-- The tile is stopped, or restarts from a stop, by the record it committed then, current or not (R357, R390); and its bit stood
  in a SUP_UNCLEAN_STOP of this start-up. [1, 1; 15 R390, 13 R359; 0] -/
  ownRec : Bool := false
  told : Bool := false
  deriving DecidableEq, Repr

/-- A tile (Table 1.2). -/
structure Tile where
  ctl : Tctl := {}
  adm : Adm := {}
  xlt : Xlt := {}
  med : Med := {}
  sch : Sch := {}
  sec : Sec := {}
  pmc : Pmc := {}
  /-- SEC_ECC_LAST and SEC_ECC_CNT: CORR of structure s at 2s, UNCORR at 2s + 1. [29, 32 x 32; 11 SEC_ECC; 0] -/
  eccLast : Word := 0
  eccCnt : Tab Word := []
  deriving DecidableEq, Repr

/-- Thermal state of a tile (THM_T.STATE). -/
inductive ThmSt where | normal | warm | hot | tooHot
  deriving DecidableEq, Repr

/-- The THM registers of a tile (chapter 15). Temperatures are in units of 0.25 °C. -/
structure Thm where
  /-- THM_T.TEMP, VALID. [11, 1; 15 THM_T; 0] -/
  temp : Int := 0
  valid : Bool := false
  /-- THM_T.STATE. [2; 15 R384; NORMAL] -/
  st : ThmSt := .normal
  /-- THM_T.HOLD, HOLD_CAUSE, FAULT_KIND. [1, 2, 2; 15 R388; 0] -/
  hold : Bool := false
  holdCause : BitVec 2 := 0
  kind : BitVec 2 := 0
  /-- THM_T.RESUME_REFUSED. [8; 15 R390; 0] -/
  refused : Nat := 0
  /-- THM_TMAX. [11; 15 THM_TMAX; 0] -/
  tmax : Int := 0
  /-- A valid reading came since THM_TMAX was cleared. [1; 15 THM_TMAX; 0] -/
  tmaxSet : Bool := false
  /-- THM_TINV. [16; 15 THM_TINV; 0] -/
  tinv : Nat := 0
  /-- THM_RAIL. [12 x 12; 15 THM_RAIL; 0] -/
  rails : Tab (BitVec 12) := []
  /-- The last readings, newest first, at most 255; `none` for an invalid one. [list; 15 R390; empty] -/
  last : List (Option Int) := []
  /-- The last valid readings, newest first, at most 255. [list; 15 R384; empty] -/
  valids : List Int := []
  /-- Consecutive valid readings at or above TOO_HOT. [8; 15 R384; 0] -/
  hotRun : Nat := 0
  /-- Consecutive invalid readings. [8; 15 R388; 0] -/
  badRun : Nat := 0
  /-- A reading was invalid during the hold. [1; 15 R390; 0] -/
  badHold : Bool := false
  deriving DecidableEq, Repr

end Sys2Proof.Machine
end

