-- ==== Sys2Proof/Machine/DevTypes.lean ====
section
/-! DEFINITION. The records of the state that belong to the device: mesh messages, supervisor, clocks, configuration,
management access, debug (chapters 1, 12, 13, 14, 16, 17). -/

namespace Sys2Proof.Machine

/-- The part (R1, R3). -/
inductive PartNo where | gx880 | gx840 | gx820
  deriving DecidableEq, Repr

/-- What a mesh message says (R20, R99 to R103, R286). -/
inductive MsgBody where
  | claim (x : SessId) (rq : Rq) (part : Nat) (first n : Nat) (tla : BitVec 42) (mark armNow : Bool)
  | claimResult (x : SessId) (seq : Word) (part : Nat) (fail : Option Short)
  | arm (x : SessId) (seq : Word) (part : Nat)
  | drop (x : SessId) (seq : Word)
  | rewind (x : SessId)
  | completion (x : SessId) (epoch : BitVec 16) (seq : Word) (part : Nat) (r : PartRes)
  deriving DecidableEq, Repr

/-- A mesh message in transit, with the tiles it passes from source to destination (R19). -/
structure Msg where
  src : TileId
  dst : TileId
  path : List TileId
  body : MsgBody
  deriving DecidableEq, Repr

/-- State of the supervisor (SUP_STS.STATE). -/
inductive SupSt where
  | standby | poweringUp | on | degraded | recovering | stopping | draining | poweringDown | offWait | off
  deriving DecidableEq, Repr

/-- State of a rail (SUP_RSTS.RSTATE). -/
inductive RailSt where | off | checking | on | failed
  deriving DecidableEq, Repr

/-- State of a power domain (R316). -/
inductive DomSt where | off | starting | on | stopping
  deriving DecidableEq, Repr

/-- A rail as the supervisor sees it. -/
structure Rail where
  /-- SUP_RSTS.RSTATE. [2; 12 SUP_RSTS; off, VAON on] -/
  st : RailSt := .off
  /-- SUP_RSTS.EN, the EN pin. [1; 12 R314; 0, VAON 1] -/
  en : Bool := false
  /-- SUP_RSTS.PG, the PG pin. [1; 12 SUP_RSTS; 0, VAON 1] -/
  pg : Bool := false
  /-- SUP_RSTS.FORCED. [1; 12 R325; 0] -/
  forced : Bool := false
  /-- SUP_RSTS.TRIES, TRANS. [3, 8; 12 SUP_RSTS; 0] -/
  tries : Nat := 0
  trans : Byte := 0
  /-- SUP_RCFG: DEPEND, ACTION, TRIES, TIMEOUT. [32; 12 SUP_RCFG; image, defaults of Table 12.1 (log 4)] -/
  cfg : Word := 0
  /-- SUP_RCNT: GLITCH, FAULTS. [2 x 16; 12 SUP_RCNT; 0] -/
  glitch : Nat := 0
  faults : Nat := 0
  /-- The time of the last successful retry. [time; 12 R325; none] -/
  retryAt : Option Nat := none
  /-- Down under RETRY until RETRY_OFF passes. [1; 12 Table 12.6; 0] -/
  retrying : Bool := false
  deriving DecidableEq, Repr

/-- A power domain. -/
structure Dom where
  /-- SUP_DSTS.DSTATE. [2; 12 SUP_DSTS; OFF, AON ON] -/
  st : DomSt := .off
  /-- SUP_DSTS.PENDING_ENABLE. [1; 12 R334; 0] -/
  pendEn : Bool := false
  /-- SUP_DSTS.FAILED. [1; 12 R316; 0] -/
  failed : Bool := false
  deriving DecidableEq, Repr

/-- A fault action (Table 12.6) and what it still waits for. -/
inductive Action where
  | retry (x : RailId)
  | group (xs : List RailId)
  | system (x : RailId)
  deriving DecidableEq, Repr

/-- The supervisor (chapter 12). -/
structure Sup where
  /-- SUP_STS.STATE. [4; 12 SUP_STS; STANDBY] -/
  st : SupSt := .standby
  /-- SUP_STS.PENDING_ON, PWRFAIL. [2 x 1; 12 SUP_STS; 0] -/
  pendOn : Bool := false
  pwrfail : Bool := false
  /-- SUP_STS.PROG; a programme is running; PC; MARK. [1, 1, 6, 16; 12 SUP_STS; 0] -/
  progOff : Bool := false
  running : Bool := false
  pc : Nat := 0
  mark : BitVec 16 := 0
  /-- The instruction at PC waits: a WAIT, a CHECK, or an ENABLE or DISABLE not complete; and since when. [1, time; 12 R319; 0] -/
  busy : Bool := false
  since : Nat := 0
  /-- The subset of an off programme run for a fault: rails and domains. [8 + 34; 12 R319; whole] -/
  subset : Option (List RailId × List DomainId) := none
  /-- Where the on programme goes on after such a run. [6; 12 R323; none] -/
  resume : Option Nat := none
  /-- Rails that have passed their CHECK in the current on programme. [8; 12 R323; none] -/
  passed : List RailId := []
  /-- Rails that failed to come up and whose event waits for the run of the off programme, with their transitions.
  [list; 12 R323; none] -/
  failed : List (RailId × Byte) := []
  /-- An off request held until the current instruction completes (R331). [1; 12 R331; 0] -/
  heldOff : Bool := false
  /-- Requests held in RECOVERING, oldest first; `true` is an on request (Table 12.9). [list; 12 R328; none] -/
  held : List Bool := []
  /-- The fault action being handled, and those waiting. [record, list; 12 R326; none] -/
  action : Option Action := none
  waiting : List Action := []
  /-- Domains that a RETRY took down with its rail, to be started again. [34; 12 R324; none] -/
  retryDoms : List DomainId := []
  /-- A SYSTEM action: 0 not begun, 1 draining, 2 off programme, 3 minimum off time; and whether it ends in OFF. [2, 1; 12 R327,
  R328; 0] -/
  sysPhase : Nat := 0
  sysOff : Bool := false
  /-- The state to return to after RECOVERING. [4; 12 R326; ON] -/
  back : SupSt := .on
  /-- Tiles in the drain, those done, and when it began. [8, 8, time; 12 R337; none] -/
  drainTiles : List TileId := []
  drainSeen : List TileId := []
  drainAt : Nat := 0
  /-- The final record: its cause, 0 where none is due; the state recorded; whether it has been requested, and committed.
  [8, 4, 1, 1; 12 R339; 0] -/
  finalCause : Byte := 0
  fellIn : SupSt := .standby
  finalReq : Bool := false
  finalDone : Bool := false
  /-- The stop in progress was started by PWRFAIL_N (R340). [1; 12 R340; 0] -/
  byPwrfail : Bool := false
  /-- When PWRFAIL_N rose. [time; 12 R336; none] -/
  pwrHighAt : Option Nat := none
  /-- When OFF_WAIT began. [time; 12 R331; 0] -/
  offAt : Nat := 0
  /-- SUP_CFG. [32; 12 SUP_CFG; image, defaults 64, 8, 0, 10] -/
  cfg : Word := 0x000A2040
  /-- SUP_DRAIN: UNCLEAN, CLEAN, LAST_US; DONE is read from the ledger. [8, 1, 12; 12 SUP_DRAIN; 0 (no record)] -/
  unclean : Byte := 0
  clean : Bool := false
  lastUs : Nat := 0
  /-- SUP_PON, SUP_POFF. [2 x 64 x 32; 12 SUP_PON; image, defaults of Table 12.4 (log 4)] -/
  pon : List Word := []
  poff : List Word := []
  /-- Rails and domains. [8, 34 records; 12 SUP_RSTS, SUP_DSTS] -/
  rails : Tab Rail := []
  doms : Tab Dom := []
  /-- The prelude checks PG_VGPIO; its last check failed, and it is repeated; when the last prelude began. [1, 1, time; 12 R317; 0] -/
  prelude : Bool := false
  preludeFail : Bool := false
  preludeAt : Nat := 0
  /-- The on programme of start-up waits for PWRFAIL_N (R336). [1; 12 R336; 0] -/
  onDue : Bool := false
  deriving DecidableEq, Repr

/-- The states in which start-up takes its steps: a warm reset keeps ON and DEGRADED until the on programme begins (R358,
Table 13.5). -/
def Sup.startsUp (u : Sup) : Bool := decide (u.st = .standby ∨ u.st = .on ∨ u.st = .degraded)

/-- The device is on its way down: no tile opens admission (R329, R336). -/
def Sup.goesDown (u : Sup) : Bool :=
  decide (u.st = .stopping ∨ u.st = .draining ∨ u.st = .poweringDown ∨ u.st = .offWait ∨ u.st = .off) ||
  (match u.action with | some (.system _) => true | _ => false)

/-- A management access held pending at a bridge (R351): its domain, the address it stopped at, what is left of it, the
values read, and the request or path that made it. -/
structure Pend where
  dom : Nat
  addr : Word
  write : Bool
  /-- Values still to be written, or nothing for a read. -/
  vals : List Word
  /-- Registers left, the pending one included. -/
  left : Nat
  /-- Values read so far and which of them are unsettled. -/
  got : List Word := []
  uns : List Bool := []
  /-- In band: session, its epoch and the request. -/
  req : Option (SessId × BitVec 16 × Word) := none
  /-- The SMBus transaction has ended by its time-out. -/
  timedOut : Bool := false
  /-- DAP access. -/
  dap : Bool := false
  since : Nat := 0
  /-- The domain has been reset since (R351). -/
  due : Bool := false
  deriving DecidableEq, Repr

/-- The CLK block (chapter 13). -/
structure Clk where
  /-- CLK_STS: REF_OK, REF_LOST, LAST_RESET, WARM_CAUSE. [1, 1, 1, 4; 13 CLK_STS; 1 (R347), 0, cold, 0] -/
  refOk : Bool := true
  refLost : Bool := false
  lastWarm : Bool := false
  warmCause : BitVec 4 := 0
  /-- CLK_XSTS.UNSETTLED; CLK_XADDR. [1, 32; 13 CLK_XSTS; 0] -/
  unsettled : Bool := false
  xaddr : Word := 0
  /-- Pending accesses of the SMBus and the in-band bridge (CLK_XSTS, CLK_PADDR). [2 records; 13 R351; none] -/
  smb : Option Pend := none
  ib : Option Pend := none
  /-- CLK_XSTS.SMB_DOM, IB_DOM; CLK_PADDR, as last set. [2 x 8, 2 x 32; 13 CLK_XSTS; 0] -/
  smbDom : Nat := 0
  ibDom : Nat := 0
  paddr0 : Word := 0
  paddr1 : Word := 0
  /-- CLK_GSTS.LOSSES, by generator. [64 x 8; 13 CLK_GSTS; 0] -/
  losses : Tab Nat := []
  /-- CLK_TL, and when the last reset was released. [8 x 32, time; 13 CLK_TL; 0xFFFF_FFFF] -/
  tl : Tab Word := []
  t0 : Nat := 0
  /-- The device is held in warm reset for loss of REFCLK. [1; 13 R348; 0] -/
  refHold : Bool := false
  /-- A warm reset has been requested and not yet taken hold: its cause, and the tiles whose TILE_SRAM was ON then.
  [4, 8; 11 R307, 13 R353, R354; none] -/
  warmReq : Option (BitVec 4) := none
  warmSram : List TileId := []
  /-- When a generator that lost lock has locked again, by generator. [64 times; 13 R349; 0] -/
  lockAt : Tab Nat := []
  deriving DecidableEq, Repr

/-- State of the configuration loader (CFG_STS.STATE). -/
inductive CfgSt where | idle | discovery | slotPhase | tilePhase | loaded | fail
  deriving DecidableEq, Repr

/-- The CFG block and the loaded image (chapter 14). -/
structure Cfg where
  /-- CFG_STS.STATE, SLOT. [3, 1; 14 CFG_STS; IDLE, 0] -/
  st : CfgSt := .idle
  slotB : Bool := false
  /-- CFG_STS.EXCL_A, EXCL_B, TIE. [3 x 1; 14 CFG_STS; 0] -/
  exclA : Bool := false
  exclB : Bool := false
  tie : Bool := false
  /-- CFG_SLOT: CODE, READ, CANDIDATE of slots A and B. [2 x 10; 14 CFG_SLOT; 0] -/
  codeA : Byte := 0
  codeB : Byte := 0
  readA : Bool := false
  readB : Bool := false
  candA : Bool := false
  candB : Bool := false
  /-- CFG_SLOTSEQ. [2 x 32; 14 CFG_SLOTSEQ; 0] -/
  seqA : Word := 0
  seqB : Word := 0
  /-- CFG_LOAD. [32; 14 CFG_LOAD; 0] -/
  load : Word := 0
  /-- CFG_SFDP. [32; 14 CFG_SFDP; 0] -/
  sfdp : Word := 0
  /-- CFG_CERT. [64; 14 CFG_CERT; 0] -/
  cert : BitVec 64 := 0
  /-- BASE_MAC and ETHERTYPE of the image. [48, 16; 14 Table 14.1; image, DESIGN CHOICE 0 and 0x88B5 (log 4)] -/
  baseMac : BitVec 48 := 0
  etherType : BitVec 16 := 0x88B5
  /-- Flash address of the schedule image in use, its digest and that of the session table, for the tile phase.
  [24, 2 x 256; 09 R253, 14 Table 14.1; 0] -/
  schedAt : Nat := 0
  quota : BitVec 256 := 0
  digest : BitVec 256 := 0
  /-- NEXT_KEY_HASH of the image. [256; 14 R371; image, DESIGN CHOICE 0 (log 4)] -/
  nextKey : BitVec 256 := 0
  /-- Credentials of the image, by session. [64 records; 14 R365; image, DESIGN CHOICE none (log 4)] -/
  creds : Tab (Option Cred) := []
  /-- THM_PARAM, THM_PARAM2. [2 x 32; 15 R385; image, defaults of Table 15.2 (log 4)] -/
  thm : Word := 0x5F62575A
  thm2 : Word := 0x00031069
  deriving DecidableEq, Repr

/-- The part of the start-up of Table 13.7 the device has reached. -/
structure Boot where
  /-- Steps 1 to 6 done: recall, prelude, configuration read, on programme, tables, tile phase. [6 x 1; 13 R358; 0] -/
  recalled : Bool := false
  vgpio : Bool := false
  config : Bool := false
  onProg : Bool := false
  tables : Bool := false
  /-- The trouble record has yet to be reloaded from the ledger since the cold reset. [1; 13 Table 13.5; 1] -/
  cold : Bool := true
  /-- SERVED has been set in this start-up (R378). [1; 14 R378; 0] -/
  served : Bool := false
  /-- START_COUNT was recalled as 0 and not lost, with no DRAIN record, and no start-up since has committed SERVED (R359; log 26). [1; 13 R359; 0] -/
  firstStart : Bool := false
  deriving DecidableEq, Repr

/-- JTAG, debug and DMA (chapter 16). -/
structure Dbg where
  /-- The DBG_EN pin. [1; 16 DBG_STS; pull-down (R412)] -/
  en : Bool := false
  /-- DBG_STS.LOCKED, DMA_BUSY, DMA_ZERO. [3 x 1; 16 DBG_STS; 0] -/
  locked : Bool := false
  dmaBusy : Bool := false
  dmaZero : Bool := false
  /-- DBG_STS.DAP_CODE. [8; 16 DBG_STS; 0] -/
  dapCode : Byte := 0
  /-- DBG_CTL.DMA_TILE, DBG_DMA_PAGE, DBG_MADDR. [3, 30, 24; 16 DBG_CTL; 0] -/
  dmaTile : TileId := 0
  dmaPage : BitVec 30 := 0
  maddr : BitVec 24 := 0
  /-- The tile and page of the DMA read that runs. [3, 30; 16 R408; 0] -/
  dmaFrom : TileId × BitVec 30 := (0, 0)
  /-- DBG_BUF. [1,024 x 32; 16 DBG_BUF; 0] -/
  buf : Tab Word := []
  /-- The TAP instruction register; pins taken from their functions; Test-Logic-Reset. [8, 2; 16 R406; IDCODE code, functional: DESIGN CHOICE (log 4)] -/
  ir : Byte := 0x01
  pins : BitVec 2 := 0
  /-- The data register captured: DATA and DONE of DAP_REG, DATA of DAP_MEM, IDCODE, boundary scan, or the 1-bit bypass register.
  [72; 16 R406; DESIGN CHOICE 0 (log 4)] -/
  dr : BitVec 72 := 0
  /-- The boundary-scan register: pins captured, and its update latches. [2 x 12; 16 R406; DESIGN CHOICE 0 (logs 4, 156)] -/
  bsr : BitVec 12 := 0
  latch : BitVec 12 := 0
  /-- SRAM words that the memory master has written, by tile, structure and word. [words of 64; 16 R407; none (log 34)] -/
  words : List ((TileId × BitVec 4 × BitVec 24) × BitVec 64) := []
  deriving DecidableEq, Repr

/-- The SMBus target (R397 to R403). -/
structure Smb where
  /-- The SMB_ADDR pins, and the address as sampled. [2, 2; 16 R397, 17 R412; DESIGN CHOICE 0, the pull-downs of R412 (log 4)] -/
  pins : BitVec 2 := 0
  addr : BitVec 2 := 0
  /-- READ_SET. [32, 4; 16 R398; none] -/
  set : Option (Word × Nat) := none
  /-- The status XSTATUS reports. [8; 16 R399; DESIGN CHOICE 0 (log 4)] -/
  status : Byte := 0
  /-- The bytes of the last answer, empty for a NAK. [list, the model's output; 16 R398; empty] -/
  reply : List Byte := []
  /-- Whether the last transaction was acknowledged, and whether SMB_SCL is stretched since a time. [1, time; 16 R401, R402; 0] -/
  acked : Bool := false
  stretch : Option Nat := none
  deriving DecidableEq, Repr

end Sys2Proof.Machine
end

