-- ==== Sys2Proof/Machine/Tab.lean ====
section
/-! DEFINITION. Sparse tables: a list of keyed entries, keys strictly rising, no entry equal to the table's default. The
form is canonical, so equal tables are equal data. Every numbered resource and every store of the state is such a table. -/

namespace Sys2Proof

/-- Entry `k` of table `t`, `d` where none is listed. -/
def Tab.get {α : Type} (d : α) : Tab α → Nat → α
  | [], _ => d
  | (k', v) :: t, k => if k = k' then v else Tab.get d t k

/-- Insertion of key `k` at its place, with no regard to the default. -/
def Tab.ins {α : Type} (k : Nat) (v : α) : Tab α → Tab α
  | [] => [(k, v)]
  | (k', v') :: t =>
    if k < k' then (k, v) :: (k', v') :: t
    else if k = k' then (k, v) :: t
    else (k', v') :: Tab.ins k v t

/-- Removal of key `k`. -/
def Tab.del {α : Type} (k : Nat) (t : Tab α) : Tab α := t.filter fun e => decide (e.1 ≠ k)

/-- Entry `k` set to `v`; the default is not listed. -/
def Tab.put {α : Type} [DecidableEq α] (d : α) (t : Tab α) (k : Nat) (v : α) : Tab α :=
  if v = d then Tab.del k t else Tab.ins k v t

/-- Entry `k` changed by `f`. -/
def Tab.upd {α : Type} [DecidableEq α] (d : α) (t : Tab α) (k : Nat) (f : α → α) : Tab α :=
  Tab.put d t k (f (Tab.get d t k))

/-- Entry `k`, `none` where none is listed: for tables whose default is the absence of an entry. -/
def Tab.find {α : Type} : Tab α → Nat → Option α
  | [], _ => none
  | (k', v) :: t, k => if k = k' then some v else Tab.find t k

/-- The table without the keys that fail `p`. -/
def Tab.keep {α : Type} (p : Nat → Bool) (t : Tab α) : Tab α := t.filter fun e => p e.1

/-- The keys of a table are strictly rising and above `lo`. -/
def Tab.rising {α : Type} : Option Nat → Tab α → Bool
  | _, [] => true
  | lo, (k, _) :: t => (match lo with | none => true | some b => decide (b < k)) && Tab.rising (some k) t

/-- The canonical form: keys strictly rising, no entry equal to the default. -/
def Tab.wf {α : Type} [DecidableEq α] (d : α) (t : Tab α) : Bool :=
  Tab.rising none t && t.all fun e => decide (e.2 ≠ d)

/-- A 32-bit counter of a set, saturating at its last value (R312). -/
def Tab.bump (t : Tab Word) (k : Nat) (n : Nat := 1) : Tab Word :=
  Tab.upd 0#32 t k fun v => BitVec.ofNat 32 (min (v.toNat + n) 0xFFFFFFFF)

/-- `a` put before the first element of a list that it is not after. -/
def insertBy {α : Type} (le : α → α → Bool) (a : α) : List α → List α
  | [] => [a]
  | b :: l => if le a b then a :: b :: l else b :: insertBy le a l

/-- A list in the order of `le`, equals in the order they had. -/
def sortBy {α : Type} (le : α → α → Bool) : List α → List α
  | [] => []
  | a :: l => insertBy le a (sortBy le l)

end Sys2Proof
end

