-- ==== Sys2Proof/Machine/State.lean ====
section
/-! DEFINITION. The state of the block, as plain data, its reasons to stop, and the state right after a cold reset. Each
field's bracket gives width, chapter and rule, and reset value; `(log n)` names the row of the assumption log. -/

namespace Sys2Proof.Machine

/-- Why a command faults. -/
inductive Fault where
  /-- A command names a stratum, page, group or codeword that the spec says does not exist (R156, R159, R275). Raised by
  the commands with such an operand. Safe: no event of the hardware names one. -/
  | noSuchPlace (n : Nat)
  deriving DecidableEq, Repr

/-- Why a command is refused. -/
inductive Refusal where
  /-- The command has no meaning in this model. Raised only by the arms of `exec` that say so. Safe. -/
  | notModelled (mnemonic : String)
  deriving DecidableEq, Repr

/-- The state of the block. -/
structure State where
  /-- Commands waiting, first in, first out. [list, the model's own; prompt; empty] -/
  pending : List Instr := []
  /-- The part. [3 values; 00 R1; GX880, DESIGN CHOICE (log 5)] -/
  part : PartNo := .gx880
  /-- DEV_ID.STEPPING. [4; 16 DEV_ID; DESIGN CHOICE 1 (log 4)] -/
  stepping : BitVec 4 := 1
  /-- Time, in core cycles of 0.5 ns. [the model's own; 00 R7, 05 R127; 0] -/
  now : Nat := 0
  /-- Number of the next free value. [the model's own; log 1; DESIGN CHOICE 0] -/
  free : Nat := 0
  /-- SF of the device timebase. [40; 08 R219; 0] -/
  sf : BitVec 40 := 0
  /-- VAON is in regulation and RESET_N is high: the pool is there (R32). [1; 12 R317, 17 R413; 1] -/
  powered : Bool := true
  /-- VAON is in regulation and RESET_N, low for 125 ns, holds the device in reset. [1; 01 R32, 17 R413; 0] -/
  held : Bool := false
  /-- DEV_SCRATCH. [32; 16 DEV_SCRATCH; 0] -/
  scratch : Word := 0
  /-- SES_CTL. [21; 03 SES_CTL; image, DESIGN CHOICE 0 (log 4)] -/
  sesCtl : Word := 0
  /-- Sessions. [64 records; 03 R75] -/
  sess : Tab Sess := []
  /-- Credentials. [64 records; 03 R77] -/
  creds : Tab Cred := []
  /-- The enrollment queue. [256 entries; 03 R428; empty] -/
  enrQ : List Queued := []
  /-- SES_STRG, by link 4p + j. [64 records; 03 SES_STRG] -/
  strg : Tab Strg := []
  /-- Ports. [16 records; 02 R36] -/
  ports : Tab Port := []
  /-- Regions. [16 records; 10 R264] -/
  rgns : Tab Region := []
  /-- RGN_STS.DBG_DENIED. [1; 10 RGN_STS; 0] -/
  dbgDenied : Bool := false
  /-- The ledger. [record; 14 R372] -/
  ldg : Ledger := {}
  /-- The EVT block. [record; 11 R301] -/
  evt : Evt := {}
  /-- Tiles. [8 records; 01 R18] -/
  tiles : Tab Tile := []
  /-- Their media. [8 records; 06 R156] -/
  media : Tab Medium := []
  /-- Mesh messages in transit, oldest first. [list; 01 R20; none] -/
  mesh : List Msg := []
  /-- The supervisor. [record; 12] -/
  sup : Sup := {}
  /-- THM registers, by tile. [8 records; 15] -/
  thm : Tab Thm := []
  /-- The CLK block. [record; 13] -/
  clk : Clk := {}
  /-- The CFG block. [record; 14] -/
  cfg : Cfg := {}
  /-- Start-up. [record; 13 R358] -/
  boot : Boot := {}
  /-- JTAG, debug and DMA. [record; 16] -/
  dbg : Dbg := {}
  /-- The SMBus target. [record; 16 R397] -/
  smb : Smb := {}
  /-- R15 captures, by bridge and _LO address: the upper half read next. [2 records; 00 R15; none] -/
  cap : Tab (Option Word) := []
  /-- Frames sent, newest first. [list, the model's output; 02 R45; empty] -/
  out : List Sent := []
  deriving DecidableEq, Repr

/-- The default rail configuration: DEPEND and action of Table 12.1, 3 tries, 5,000 µs (R313, R325). -/
def Rail.cfgOf : Nat → Word
  | 0 => 0#32
  | 1 => 0x13880D01
  | 2 => 0x13880F01
  | 3 => 0x13880F05
  | 4 => 0x13880E05
  | 5 => 0x13880D15
  | 6 => 0x13880F0D
  | _ => 0x13880D4D

/-- The rails at reset: VAON on and in regulation, the others off (R314, SUP_RSTS). -/
def Sup.railsReset : Tab Rail :=
  (0, { st := .on, en := true, pg := true }) ::
    [1, 2, 3, 4, 5, 6, 7].map fun x => (x, { cfg := Rail.cfgOf x })

/-- The default on programme (Table 12.4). -/
def Sup.ponDefault : List Word :=
  [0x60000001, 0x10000004, 0x44E20002, 0x10000008, 0x44E20003, 0x140001FF, 0x140000FF, 0x18000000, 0x60000002,
   0x10000010, 0x44E20004, 0x10000020, 0x44E20005, 0x140002FF, 0x60000003, 0x10000040, 0x44E20006, 0x30007D00,
   0x10000080, 0x44E20007, 0x140003FF, 0x60000004, 0x00000000]

/-- The default off programme (Table 12.4). -/
def Sup.poffDefault : List Word :=
  [0x60000081, 0x240003FF, 0x20000080, 0x44E2000F, 0x20000040, 0x240002FF, 0x20000020, 0x20000010, 0x28000000,
   0x240000FF, 0x240001FF, 0x20000008, 0x30007D00, 0x20000004, 0x60000082, 0x00000000]

/-- The supervisor at a cold reset, with the default programmes until an image is read (R317). -/
def Sup.reset : Sup :=
  { rails := Sup.railsReset, doms := [(0, { st := .on })], pon := Sup.ponDefault, poff := Sup.poffDefault }

/-- The state right after a cold reset: the always-on island reset, every other domain off, the ledger as shipped, the
medium never programmed (R21, R355, R359; log 4, log 5). -/
def State.reset : State := { sup := Sup.reset }

end Sys2Proof.Machine
end

