-- ==== Sys2Proof/Machine/Ops.lean ====
section
/-! DEFINITION. The named operations over the state that every meaning uses: access to the numbered resources, time, free
values, the address rules of chapter 1, ledger commits (R375, R380) and event occurrences (R299 to R307). -/

namespace Sys2Proof.Machine

/-! ### Numbered resources -/

/-- Session `x`. -/
def State.ses (s : State) (x : SessId) : Sess := Tab.get {} s.sess x.val
/-- Session `x` changed by `f`. -/
def State.modSes (s : State) (x : SessId) (f : Sess → Sess) : State := { s with sess := Tab.upd {} s.sess x.val f }
/-- Credential of session `x`. -/
def State.cred (s : State) (x : SessId) : Cred := Tab.get {} s.creds x.val
def State.modCred (s : State) (x : SessId) (f : Cred → Cred) : State := { s with creds := Tab.upd {} s.creds x.val f }
/-- Port `p`. -/
def State.port (s : State) (p : PortId) : Port := Tab.get {} s.ports p.val
def State.modPort (s : State) (p : PortId) (f : Port → Port) : State := { s with ports := Tab.upd {} s.ports p.val f }
/-- Region `r`. -/
def State.rgn (s : State) (r : RegionId) : Region := Tab.get {} s.rgns r.val
def State.modRgn (s : State) (r : RegionId) (f : Region → Region) : State := { s with rgns := Tab.upd {} s.rgns r.val f }
/-- Tile `t`. -/
def State.tile (s : State) (t : TileId) : Tile := Tab.get {} s.tiles t.val
def State.modTile (s : State) (t : TileId) (f : Tile → Tile) : State := { s with tiles := Tab.upd {} s.tiles t.val f }
/-- Medium of tile `t`. -/
def State.medium (s : State) (t : TileId) : Medium := Tab.get {} s.media t.val
def State.modMedium (s : State) (t : TileId) (f : Medium → Medium) : State :=
  { s with media := Tab.upd {} s.media t.val f }
/-- THM registers of tile `t`. -/
def State.thmT (s : State) (t : TileId) : Thm := Tab.get {} s.thm t.val
def State.modThm (s : State) (t : TileId) (f : Thm → Thm) : State := { s with thm := Tab.upd {} s.thm t.val f }
/-- Stranger counters of link `4p + j`. -/
def State.strgL (s : State) (p : PortId) (j : LinkId) : Strg := Tab.get {} s.strg (4 * p.val + j.val)
def State.modStrg (s : State) (p : PortId) (j : LinkId) (f : Strg → Strg) : State :=
  { s with strg := Tab.upd {} s.strg (4 * p.val + j.val) f }
/-- The supervisor, the CLK block, the ledger and the EVT block changed by `f`. -/
def State.modSup (s : State) (f : Sup → Sup) : State := { s with sup := f s.sup }
def State.modClk (s : State) (f : Clk → Clk) : State := { s with clk := f s.clk }
def State.modLdg (s : State) (f : Ledger → Ledger) : State := { s with ldg := f s.ldg }
def State.modEvt (s : State) (f : Evt → Evt) : State := { s with evt := f s.evt }

/-- Blocks of a tile changed by `f`. -/
def State.modCtl (s : State) (t : TileId) (f : Tctl → Tctl) : State := s.modTile t fun T => { T with ctl := f T.ctl }
def State.modAdm (s : State) (t : TileId) (f : Adm → Adm) : State := s.modTile t fun T => { T with adm := f T.adm }
def State.modXlt (s : State) (t : TileId) (f : Xlt → Xlt) : State := s.modTile t fun T => { T with xlt := f T.xlt }
def State.modMed (s : State) (t : TileId) (f : Med → Med) : State := s.modTile t fun T => { T with med := f T.med }
def State.modSch (s : State) (t : TileId) (f : Sch → Sch) : State := s.modTile t fun T => { T with sch := f T.sch }
def State.modSec (s : State) (t : TileId) (f : Sec → Sec) : State := s.modTile t fun T => { T with sec := f T.sec }
def State.modPmc (s : State) (t : TileId) (f : Pmc → Pmc) : State := s.modTile t fun T => { T with pmc := f T.pmc }

/-- Counters of a tile's sets. -/
def State.admCnt (s : State) (t : TileId) (i : Nat) : State := s.modAdm t fun a => { a with cnt := Tab.bump a.cnt i }
def State.xltCnt (s : State) (t : TileId) (i : Nat) : State := s.modXlt t fun a => { a with cnt := Tab.bump a.cnt i }
def State.schCnt (s : State) (t : TileId) (i : Nat) : State := s.modSch t fun a => { a with cnt := Tab.bump a.cnt i }
def State.secCnt (s : State) (t : TileId) (i : Nat) : State := s.modSec t fun a => { a with cnt := Tab.bump a.cnt i }
def State.medTcnt (s : State) (t : TileId) (i : Nat) (n : Nat := 1) : State :=
  s.modMed t fun a => { a with tcnt := Tab.bump a.tcnt i n }
def State.medCcnt (s : State) (t : TileId) (c i : Nat) (n : Nat := 1) : State :=
  s.modMed t fun a => { a with ccnt := Tab.bump a.ccnt (8 * c + i) n }
/-- Counter `i` of PORT_LCNT of link `j`. -/
def State.lcnt (s : State) (p : PortId) (j : LinkId) (i : Nat) (n : Nat := 1) : State :=
  s.modPort p fun a => { a with cnt := Tab.bump a.cnt (8 * j.val + i) n }

/-! ### Parts, time, free values -/

/-- Tiles fitted (R1). -/
def PartNo.tiles : PartNo → Nat
  | .gx880 => 8 | .gx840 => 4 | .gx820 => 2

/-- `k` of R24. -/
def PartNo.k : PartNo → Nat
  | .gx880 => 3 | .gx840 => 2 | .gx820 => 1

/-- The fitted tiles. -/
def State.fitted (s : State) : List TileId := (List.finRange 8).filter fun t => t.val < s.part.tiles
/-- Whether tile `t` is fitted. -/
def State.hasTile (s : State) (t : TileId) : Bool := decide (t.val < s.part.tiles)
/-- Whether port `p` is fitted. -/
def State.hasPort (s : State) (p : PortId) : Bool := decide (p.val < 2 * s.part.tiles)

/-- The tile that owns port `p` (R18). -/
def portTile (p : PortId) : TileId := ⟨p.val / 2, by omega⟩
/-- The home tile of session `x` (R29). -/
def State.home (s : State) (x : SessId) : TileId := portTile (s.ses x).port

/-- Microseconds and milliseconds in core cycles (0.5 ns each, R127). -/
def us (n : Nat) : Nat := 2000 * n
def ms (n : Nat) : Nat := 2000000 * n
/-- AON clocks of 31.25 ns in core cycles, rounded up (R318). -/
def aon (n : Nat) : Nat := (125 * n + 1) / 2

/-- The next free value, `w` bits wide, and the state with the number drawn (log 1). -/
def State.draw (s : State) (w : Nat) : BitVec w × State := (Config.freeValue w s.free, { s with free := s.free + 1 })
/-- The next free choice (log 1). -/
def State.drawBool (s : State) : Bool × State := (Config.freeChoice s.free, { s with free := s.free + 1 })

/-! ### The mesh (R19) -/

/-- Row and column of a tile. -/
def tileRow (t : TileId) : Nat := t.val / 4
def tileCol (t : TileId) : Nat := t.val % 4

/-- Columns a tile's row ring has on a part: two tiles with a single link, or a ring of four. -/
def ringNext (a b : Nat) : Bool := decide ((a + 1) % 4 = b ∨ (b + 1) % 4 = a)

/-- Two tiles of a part share a link: neighbours in a row ring, or the same column of the two rows. -/
def PartNo.linked (p : PartNo) (a b : TileId) : Bool :=
  decide (a.val < p.tiles ∧ b.val < p.tiles) &&
    ((decide (tileRow a = tileRow b) && ringNext (tileCol a) (tileCol b)) || decide (tileCol a = tileCol b ∧ tileRow a ≠ tileRow b))

/-- The tile after `t` on the way to `dst`: along the row ring by the shorter way, in increasing column order where both are equally
short; then across rows. -/
def nextHop (t dst : TileId) : TileId :=
  let a := tileCol t
  let b := tileCol dst
  if a = b then dst
  else
    let c := if (b + 4 - a) % 4 ≤ 2 then (a + 1) % 4 else (a + 3) % 4
    ⟨(4 * tileRow t + c) % 8, Nat.mod_lt _ (by decide)⟩

/-- The tiles a message passes, in at most `n` hops. -/
def routeN : Nat → TileId → TileId → List TileId
  | 0, t, _ => [t]
  | n + 1, t, dst => if t = dst then [t] else t :: routeN n (nextHop t dst) dst
/-- The path of a message: no path is longer than three hops. -/
def route (src dst : TileId) : List TileId := routeN 3 src dst

/-! ### Addresses (R22 to R26) -/

/-- First unpopulated address (Table 1.4). -/
def PartNo.limit (p : PartNo) : Nat := p.tiles * 0x28000000000

/-- Owning tile of a device address (R24). -/
def PartNo.tileOf (p : PartNo) (da : Nat) : TileId := ⟨(da / 4096) % p.tiles % 8, Nat.mod_lt _ (by decide)⟩
/-- Tile-local address of a device address (R24). -/
def PartNo.tlaOf (p : PartNo) (da : Nat) : BitVec 42 := BitVec.ofNat 42 (((da >>> (12 + p.k)) <<< 12) + da % 4096)
/-- Device address of a tile-local one. -/
def PartNo.daOf (p : PartNo) (t : TileId) (tla : Nat) : Nat := (tla / 4096 * p.tiles + t.val) * 4096 + tla % 4096

/-- One GiB (R25). -/
def gib : Nat := 0x40000000

/-- A region serves addresses: it is not DISABLED (R25, Table 10.1). -/
def Region.enabled (g : Region) : Bool := decide (g.st ≠ .disabled)

/-- Whether a device address lies in a region's geometry. -/
def Region.covers (g : Region) (da : Nat) : Bool :=
  decide (g.base.toNat * gib ≤ da ∧ da < (g.base.toNat + g.size.toNat) * gib)

/-- The enabled region of a device address, by the lowest number (R25: no two enabled regions overlap). -/
def State.regionOf (s : State) (da : Nat) : Option RegionId :=
  (List.finRange 16).find? fun r => (s.rgn r).enabled && (s.rgn r).covers da

/-- Region `r` has a valid geometry: nonempty, inside the populated range, clear of every other enabled region (R25). -/
def State.geometryOk (s : State) (r : RegionId) : Bool :=
  let g := s.rgn r
  decide (0 < g.size.toNat ∧ (g.base.toNat + g.size.toNat) * gib ≤ s.part.limit) &&
  (List.finRange 16).all fun q => decide (q = r) || !(s.rgn q).enabled ||
    decide (g.base.toNat + g.size.toNat ≤ (s.rgn q).base.toNat ∨
            (s.rgn q).base.toNat + (s.rgn q).size.toNat ≤ g.base.toNat)

/-- Tile-local tracts of a region: the first, and how many (R24, R25). -/
def Region.tracts (g : Region) (p : PartNo) : Nat × Nat :=
  (g.base.toNat * gib / p.tiles / 4096, g.size.toNat * gib / p.tiles / 4096)

/-- A tile is in service (TCTL_STS.STATE = IN_SERVICE) with its domains ON (R316). -/
def State.domOn (s : State) (d : Nat) : Bool := decide ((Tab.get {} s.sup.doms d).st = .on)
def State.meshOn (s : State) : Bool := s.domOn 1
def State.coreOn (s : State) (t : TileId) : Bool := s.domOn (2 + 4 * t.val)
def State.sramOn (s : State) (t : TileId) : Bool := s.domOn (3 + 4 * t.val)
def State.portOn (s : State) (t : TileId) : Bool := s.domOn (4 + 4 * t.val)
def State.mioOn (s : State) (t : TileId) : Bool := s.domOn (5 + 4 * t.val)
def State.inService (s : State) (t : TileId) : Bool :=
  decide ((s.tile t).ctl.st = .inService) && s.coreOn t && s.sramOn t && s.mioOn t

/-- Generator `g` has lost lock, and its outputs are gated (R349). -/
def State.gated (s : State) (g : Nat) : Bool := decide (s.now < Tab.get 0 s.clk.lockAt g)

/-! ### Bytes -/

/-- Big-endian bytes of a value, `n` of them. -/
def beBytes (n v : Nat) : List Byte := (List.range n).map fun i => BitVec.ofNat 8 (v >>> (8 * (n - 1 - i)))
/-- Little-endian bytes of a value, `n` of them. -/
def leBytes (n v : Nat) : List Byte := (List.range n).map fun i => BitVec.ofNat 8 (v >>> (8 * i))
/-- An ASCII label without a terminator (R81, R270). -/
def ascii (l : String) : List Byte := l.toList.map fun c => BitVec.ofNat 8 c.toNat
/-- The value of big-endian and of little-endian bytes. -/
def ofBe (l : List Byte) : Nat := l.foldl (fun a b => 256 * a + b.toNat) 0
def ofLe (l : List Byte) : Nat := l.foldr (fun b a => 256 * a + b.toNat) 0
/-- `n` bytes at offset `o`. -/
def slice (l : List Byte) (o n : Nat) : List Byte := (l.drop o).take n

/-! ### Ledger commits (R373 to R375, R380) -/

/-- The copy size of the instance at a base offset (Table 14.4). -/
def recSize (base : Nat) : Nat :=
  if base < 0x100 then 16
  else if base < 0x200 then 64
  else if base < 0x800 then 160
  else if base < 0x1000 then 32
  else if base < 0x6000 then 64
  else if base < 0x8000 then 128
  else if base < 0x18000 then (if base % 0x1000 = 0 then 32 else 64)
  else if base < 0x28000 then 32
  else if base < 0x70000 then 128
  else 4

/-- An instance with copies A and B only: the counters and JSTEP (R376, R377). -/
def recPair (base : Nat) : Bool :=
  decide (base < 0x100) || (decide (0x8000 ≤ base ∧ base < 0x18000) && decide (base % 0x1000 ≠ 0))

/-- The user area, which holds plain bytes without copies (R381). -/
def recUser (base : Nat) : Bool := decide (0x70000 ≤ base)

/-- Base offsets of the instances (Table 14.4). -/
def baseStart : Nat := 0
def baseServed : Nat := 0x20
def baseIkey : Nat := 0x100
def baseIdentity : Nat := 0x200
def baseDrain (t : Nat) : Nat := 0x800 + 0x80 * t
def baseFinal : Nat := 0xC00
def baseRoot (t : Nat) : Nat := 0x1000 + 0x100 * t
def baseCred (x : Nat) : Nat := 0x2000 + 0x100 * x
def baseRegion (r : Nat) : Nat := 0x6000 + 0x200 * r
def baseJhead (r : Nat) : Nat := 0x8000 + 0x1000 * r
def baseJstep (r k : Nat) : Nat := 0x8000 + 0x1000 * r + 0x80 + 0x80 * k
def baseLost (t i : Nat) : Nat := 0x18000 + 0x2000 * t + 0x80 * i
def baseTrouble (j : Nat) : Nat := 0x28000 + 0x200 * j

/-- DRAIN and FINAL copies go ahead of every other copy (R380). -/
def urgent (w : CopyWrite) : Bool := decide (0x800 ≤ w.base ∧ w.base < 0x1000)

/-- A copy write put in its place in the queue (R380). -/
def enqueue (q : List CopyWrite) (w : CopyWrite) : List CopyWrite :=
  if urgent w then q.takeWhile urgent ++ w :: q.dropWhile urgent else q ++ [w]

/-- The copies one commit gathers: in queue order while they fit in 256 bytes, and no two of one instance (R380). -/
def gather : Nat → List Nat → List CopyWrite → List CopyWrite
  | _, _, [] => []
  | room, used, w :: q =>
    if w.size ≤ room ∧ used.contains w.base = false then w :: gather (room - w.size) (w.base :: used) q else []

/-- A commit begins when none is in progress (R372, R380). -/
def Ledger.kick (l : Ledger) : Ledger :=
  if l.flight = [] then
    let g := gather 256 [] l.queue
    { l with flight := g, queue := l.queue.drop g.length }
  else l

/-- Copy A of FINAL goes ahead of every other copy that has not begun (R380). -/
def Ledger.finalFirst (l : Ledger) : Ledger :=
  let mine := fun (w : CopyWrite) => decide (w.base = baseFinal) && w.first
  { l with queue := l.queue.filter mine ++ l.queue.filter fun w => !mine w }

/-- A copy write joins the queue, or waits while the queue is full (R380). -/
def Ledger.push (l : Ledger) (w : CopyWrite) : Ledger :=
  if 256 ≤ l.queue.length then { l with late := l.late ++ [w] }
  else
    let l := { l with queue := enqueue l.queue w }
    if l.warned then l.finalFirst else l

/-- The copy write of copy A of an instance's next record (R375). A JSTEP takes the SEQ of its journal (R376); a write of the user area
is written where it lies (R381). -/
def Ledger.startRec (l : Ledger) (base : Nat) (b : Body) (post : List Deferred) : Ledger :=
  let i := Tab.get {} l.insts base
  let gen := if recPair base || recUser base then false else !i.gen
  let sz := match b with | .user vs => 4 * vs.length | _ => recSize base
  let seq := match b with | .jstep _ id => id | _ => i.seq + 1
  let w : CopyWrite :=
    { base, off := base + (if gen then 2 * sz else 0), size := sz, copy := .ok seq b, first := true, post }
  ({ l with insts := Tab.put {} l.insts base { i with seq, gen, flying := some b, busy := true, next := none } } : Ledger).push w

/-- A producer cannot begin a record now: a commit of its instance is in flight (R375), the queue is full (R380), or the ledger is closed
to it (R339). -/
def Ledger.holdsBack (l : Ledger) (base : Nat) (b : Body) : Bool :=
  (Tab.get {} l.insts base).busy || decide (256 ≤ l.queue.length) || (l.closed && !b.privileged)

/-- A change merged into one that waits: the words of a longer write of the user area that it does not replace stay. -/
def Body.merge (b : Body) : Option Body → Body
  | some (.user old) => match b with | .user vs => .user (vs ++ old.drop vs.length) | _ => b
  | _ => b

/-- A commit of an instance: a change made while one is in flight is merged into the one that follows (R375); one that cannot begin
waits (R339, R380). -/
def Ledger.commit (l : Ledger) (base : Nat) (b : Body) (post : List Deferred) : Ledger :=
  let i := Tab.get {} l.insts base
  if l.holdsBack base b then
    let old := match i.next with | some (_, p) => p | none => []
    { l with insts := Tab.put {} l.insts base { i with next := some (b.merge (i.next.map Prod.fst), old ++ post) } }
  else (l.startRec base b post).kick

/-- The ledger closes to ordinary producers 10 µs after PWRFAIL_N (R339). -/
def Ledger.shut (l : Ledger) (now : Nat) : Ledger := match l.closeAt with
  | some t => if t ≤ now then { l with closed := true } else l
  | none => l

/-- `Ledger.commit` on the state. -/
def State.commit (s : State) (base : Nat) (b : Body) (post : List Deferred) : State :=
  s.modLdg fun l => (l.shut s.now).commit base b post

/-- Whether some commit that has not ended carries `p`. -/
def Ledger.waits (l : Ledger) (p : Deferred → Bool) : Bool :=
  l.queue.any (fun w => w.post.any p) || l.flight.any (fun w => w.post.any p) ||
  l.insts.any fun e => match e.2.next with | some (_, q) => q.any p | none => false

/-- The value an instance has, or will have when every change made to it so far has been committed. -/
def Ledger.latest (l : Ledger) (base : Nat) : Option Body :=
  let i := Tab.get {} l.insts base
  match i.next, i.flying with | some (b, _), _ => some b | none, some b => some b | none, none => i.val

/-- A change of a region's entry (R266). -/
def Region.upd (g : Region) : RgnUpd → Region
  | .base v => { g with base := v }
  | .size v => { g with size := v }
  | .mode c => { g with compact := c }
  | .st x => { g with st := x }
  | .disabling b => { g with disabling := b }
  | .pendEn b => { g with pendEn := b }
  | .cur k => { g with cur := k }
  | .secret k v => if k then { g with slot1 := v } else { g with slot0 := v }
  | .stalled b => { g with stalled := b }

/-- STATE in a REGION record; a DISABLE in progress is told from a ZEROIZE by the unused code 0b110 (log 17). -/
def Region.stCode (g : Region) : BitVec 3 := match g.st with
  | .disabled => 0
  | .online => 1
  | .readOnly => 2
  | .stopping => 3
  | .offline => 4
  | .zeroizing => if g.disabling then 6 else 5

/-- The REGION record of an entry, and an entry with the fields of a record (Table 14.6). -/
def Region.body (g : Region) : Body :=
  .region g.base g.size g.compact g.stCode g.cur g.stalled g.pendEn g.slot0 g.slot1
def Region.recalled (g : Region) : Body → Region
  | .region base size compact st cur stalled pendEn slot0 slot1 =>
    { g with
      base, size, compact, cur, stalled, pendEn, slot0, slot1, disabling := decide (st = 6)
      st := match st.toNat with
        | 1 => .online | 2 => .readOnly | 3 => .stopping | 4 => .offline | 5 => .zeroizing | 6 => .zeroizing | _ => .disabled }
  | _ => g

/-- Changes of a region's entry are committed, on top of those that wait already, and take effect with the commit (R266). -/
def State.rgnCommit (s : State) (r : RegionId) (us : List RgnUpd) (post : List Deferred := []) : State :=
  let g := match s.ldg.latest (baseRegion r.val) with
    | some b => (s.rgn r).recalled b
    | none => s.rgn r
  s.commit (baseRegion r.val) (us.foldl Region.upd g).body (.rgnSet r us :: post)

/-! ### Frames waiting for a session (R63, R306) -/

/-- A frame put in a session's queue of waiting frames; a SQUALL goes ahead of every other (R286). -/
def State.wait (s : State) (x : SessId) (w : Waiting) : State :=
  s.modSes x fun S => { S with waitQ := if w.squall then w :: S.waitQ else S.waitQ ++ [w] }

/-! ### Events (R299 to R307) -/

/-- FAULT sources (Tables 11.3 and 11.4). -/
def isFault (n : Nat) : Bool :=
  if n < 32 then [0, 1, 3, 4, 5, 6, 7, 8, 9, 10, 11, 20].contains n
  else [0, 1, 3, 4, 5, 7, 8, 9, 10, 11, 12, 13, 14, 15, 16, 17, 19, 20, 21].contains (n % 32)

/-- Rate-limited sources (R300). -/
def isLimited (n : Nat) : Bool := if n < 32 then decide (n = 15) else n % 32 == 2 || n % 32 == 24

/-- Source `o` of tile `t` (R299). -/
def tsrc (t : TileId) (o : Nat) : Nat := 32 + 32 * t.val + o

/-- An entry afresh, from the occurrences since a clear was asked for (R301, R303). -/
def Trouble.ofOccs : List (BitVec 40 × BitVec 16) → Trouble
  | [] => {}
  | (sf, boot) :: l => { count := min (l.length + 1) 65535, set := true, firstSf := sf, boot }

/-- An entry with every clear that waits for its commit: the ledger's mirror of it (R302, R303). -/
def Evt.mirror (e : Evt) (n : Nat) : Trouble :=
  match e.clearing.reverse.find? fun c => c.2.1.contains n with
  | some c => Trouble.ofOccs ((c.2.2.filter fun o => decide (o.1 = n)).map fun o => o.2)
  | none => Tab.get {} e.trb n

/-- The ledger body of trouble instance `j` (Table 14.6). -/
def Evt.instBody (e : Evt) (j : Nat) : Body := .trouble ((List.range 8).map fun i => e.mirror (8 * j + i))

/-- The event record of Table 11.6. -/
def eventRecord (n : Nat) (sf : BitVec 40) (count : Nat) (detail : BitVec 64) : List Byte :=
  beBytes 5 sf.toNat ++ beBytes 1 (if n < 32 then 0xFF else (n - 32) / 32) ++ beBytes 2 (min count 65535) ++
    beBytes 8 detail.toNat

/-- The header of an EVENT frame; its `aux` is the source. -/
def eventHdr (n : Nat) : Hdr := { opcode := 0x85, aux := BitVec.ofNat 32 n }

/-- A waiting EVENT frame of source `n` counts `k` occurrences more (R306). -/
def Waiting.again (n k : Nat) (w : Waiting) : Waiting :=
  if w.src = some n then
    { w with payload := w.payload.take 6 ++ beBytes 2 (min (ofBe (slice w.payload 6 2) + k) 65535) ++ w.payload.drop 8 }
  else w

/-- EVENT frames of source `n` that wait for a commit count one occurrence more (R306). -/
def Deferred.again (n : Nat) : Deferred → Deferred
  | .eventFrames m sf detail k => .eventFrames m sf detail (if m = n then min (k + 1) 65535 else k)
  | d => d

/-- What waits for the ledger's commits, changed. -/
def Ledger.mapPosts (l : Ledger) (f : Deferred → Deferred) : Ledger :=
  let g := fun (w : CopyWrite) => { w with post := w.post.map f }
  { l with
    queue := l.queue.map g, flight := l.flight.map g
    insts := l.insts.map fun e => (e.1, { e.2 with next := e.2.next.map fun n => (n.1, n.2.map f) }) }

/-- The trouble record takes an occurrence of source `n` (R301, R303). -/
def Evt.setTrouble (e : Evt) (n : Nat) (sf : BitVec 40) (boot : BitVec 16) : Evt :=
  let t := Tab.get {} e.trb n
  let t' : Trouble := if t.set then { t with count := min (t.count + 1) 65535 }
    else { count := min (t.count + 1) 65535, set := true, firstSf := sf, boot }
  { e with trb := Tab.put {} e.trb n t',
           dirty := if t.set && !e.dirty.contains n then n :: e.dirty else e.dirty,
           clearing := e.clearing.map fun c => if c.2.1.contains n then (c.1, c.2.1, c.2.2 ++ [(n, sf, boot)]) else c }

/-- VGPIO powers the pins of its bank (R410). -/
def State.bankUp (s : State) : Bool :=
  let r := Tab.get {} s.sup.rails 1
  s.powered && r.pg && decide (r.st = .on)

/-- A detail word with `v` at bit `o`. -/
def fld (o v : Nat) : BitVec 64 := BitVec.ofNat 64 (v <<< o)

/-- IRQ_N and SMB_ALERT_N are asserted (R304); both are released until the EVT block is loaded (R32, Table 17.3), and without VGPIO
(R412). -/
def State.irq (s : State) : Bool := s.bankUp && s.evt.loaded && s.evt.pend.any fun n => (Tab.get {} s.evt.route n).irq
def State.alert (s : State) : Bool := s.bankUp && s.evt.loaded && s.evt.pend.any fun n => (Tab.get {} s.evt.route n).smb

end Sys2Proof.Machine
end

