-- ==== Sys2Proof/Machine/Crypto.lean ====
section
/-! DEFINITION. The standard functions the spec names, written from their standards: SHA-256 and SHA-512 (FIPS 180-4), HMAC
(RFC 2104), HKDF (RFC 5869), AES-256 (FIPS 197), CMAC (NIST SP 800-38B), GCM (NIST SP 800-38D), key wrap (RFC 3394), X25519
(RFC 7748), Ed25519 (RFC 8032) and the frame check sequence of IEEE 802.3 (R39, R81, R85, R251, R254, R270 to R272, R276, R366). -/

namespace Sys2Proof.Machine

/-! ### SHA-256, SHA-512, HMAC, HKDF -/

/-- Round constants of SHA-256 (FIPS 180-4). -/
def sha256K : List (BitVec 32) :=
  [0x428a2f98, 0x71374491, 0xb5c0fbcf, 0xe9b5dba5, 0x3956c25b, 0x59f111f1, 0x923f82a4, 0xab1c5ed5] ++
  [0xd807aa98, 0x12835b01, 0x243185be, 0x550c7dc3, 0x72be5d74, 0x80deb1fe, 0x9bdc06a7, 0xc19bf174] ++
  [0xe49b69c1, 0xefbe4786, 0x0fc19dc6, 0x240ca1cc, 0x2de92c6f, 0x4a7484aa, 0x5cb0a9dc, 0x76f988da] ++
  [0x983e5152, 0xa831c66d, 0xb00327c8, 0xbf597fc7, 0xc6e00bf3, 0xd5a79147, 0x06ca6351, 0x14292967] ++
  [0x27b70a85, 0x2e1b2138, 0x4d2c6dfc, 0x53380d13, 0x650a7354, 0x766a0abb, 0x81c2c92e, 0x92722c85] ++
  [0xa2bfe8a1, 0xa81a664b, 0xc24b8b70, 0xc76c51a3, 0xd192e819, 0xd6990624, 0xf40e3585, 0x106aa070] ++
  [0x19a4c116, 0x1e376c08, 0x2748774c, 0x34b0bcb5, 0x391c0cb3, 0x4ed8aa4a, 0x5b9cca4f, 0x682e6ff3] ++
  [0x748f82ee, 0x78a5636f, 0x84c87814, 0x8cc70208, 0x90befffa, 0xa4506ceb, 0xbef9a3f7, 0xc67178f2]

/-- Round constants of SHA-512 (FIPS 180-4). -/
def sha512K : List (BitVec 64) :=
  [0x428a2f98d728ae22, 0x7137449123ef65cd, 0xb5c0fbcfec4d3b2f, 0xe9b5dba58189dbbc] ++
  [0x3956c25bf348b538, 0x59f111f1b605d019, 0x923f82a4af194f9b, 0xab1c5ed5da6d8118] ++
  [0xd807aa98a3030242, 0x12835b0145706fbe, 0x243185be4ee4b28c, 0x550c7dc3d5ffb4e2] ++
  [0x72be5d74f27b896f, 0x80deb1fe3b1696b1, 0x9bdc06a725c71235, 0xc19bf174cf692694] ++
  [0xe49b69c19ef14ad2, 0xefbe4786384f25e3, 0x0fc19dc68b8cd5b5, 0x240ca1cc77ac9c65] ++
  [0x2de92c6f592b0275, 0x4a7484aa6ea6e483, 0x5cb0a9dcbd41fbd4, 0x76f988da831153b5] ++
  [0x983e5152ee66dfab, 0xa831c66d2db43210, 0xb00327c898fb213f, 0xbf597fc7beef0ee4] ++
  [0xc6e00bf33da88fc2, 0xd5a79147930aa725, 0x06ca6351e003826f, 0x142929670a0e6e70] ++
  [0x27b70a8546d22ffc, 0x2e1b21385c26c926, 0x4d2c6dfc5ac42aed, 0x53380d139d95b3df] ++
  [0x650a73548baf63de, 0x766a0abb3c77b2a8, 0x81c2c92e47edaee6, 0x92722c851482353b] ++
  [0xa2bfe8a14cf10364, 0xa81a664bbc423001, 0xc24b8b70d0f89791, 0xc76c51a30654be30] ++
  [0xd192e819d6ef5218, 0xd69906245565a910, 0xf40e35855771202a, 0x106aa07032bbd1b8] ++
  [0x19a4c116b8d2d0c8, 0x1e376c085141ab53, 0x2748774cdf8eeb99, 0x34b0bcb5e19b48a8] ++
  [0x391c0cb3c5c95a63, 0x4ed8aa4ae3418acb, 0x5b9cca4f7763e373, 0x682e6ff3d6b2b8a3] ++
  [0x748f82ee5defb2fc, 0x78a5636f43172f60, 0x84c87814a1f0ab72, 0x8cc702081a6439ec] ++
  [0x90befffa23631e28, 0xa4506cebde82bde9, 0xbef9a3f7b2c67915, 0xc67178f2e372532b] ++
  [0xca273eceea26619c, 0xd186b8c721c0c207, 0xeada7dd6cde0eb1e, 0xf57d4f7fee6ed178] ++
  [0x06f067aa72176fba, 0x0a637dc5a2c898a6, 0x113f9804bef90dae, 0x1b710b35131c471b] ++
  [0x28db77f523047d84, 0x32caab7b40c72493, 0x3c9ebe0a15c9bebc, 0x431d67c49c100d4c] ++
  [0x4cc5d4becb3e42b6, 0x597f299cfc657e2a, 0x5fcb6fab3ad6faec, 0x6c44198c4a475817]

/-- A message padded to whole blocks: a one bit, zeros, and its length in bits in `lenBytes` bytes. -/
def shaPad (block lenBytes : Nat) (m : List Byte) : List Byte :=
  m ++ [0x80] ++ List.replicate ((block - (m.length + 1 + lenBytes) % block) % block) 0 ++ beBytes lenBytes (8 * m.length)

/-- Words of `n` bytes, most significant byte first. -/
def shaWords (w n : Nat) (l : List Byte) : List (BitVec w) :=
  (List.range (l.length / n)).map fun i => BitVec.ofNat w (ofBe (slice l (n * i) n))

/-- One round: working variables a to h, and the next sixteen words of the message schedule. `p` holds the shift amounts of Σ0,
Σ1, σ0 and σ1. -/
def shaRound {w : Nat} (p : List Nat) (st : List (BitVec w) × List (BitVec w)) (k : BitVec w) : List (BitVec w) × List (BitVec w) :=
  let n := fun (i : Nat) => p.getD i 0
  match st.1 with
  | [a, b, c, d, e, f, g, h] =>
    let W := fun (i : Nat) => st.2.getD i 0
    let big := fun (o : Nat) (x : BitVec w) => x.rotateRight (n o) ^^^ x.rotateRight (n (o + 1)) ^^^ x.rotateRight (n (o + 2))
    let small := fun (o : Nat) (x : BitVec w) => x.rotateRight (n o) ^^^ x.rotateRight (n (o + 1)) ^^^ (x >>> n (o + 2))
    let t1 := h + big 3 e + ((e &&& f) ^^^ (~~~e &&& g)) + k + W 0
    let t2 := big 0 a + ((a &&& b) ^^^ (a &&& c) ^^^ (b &&& c))
    ([t1 + t2, a, b, c, d + t1, e, f, g], st.2.drop 1 ++ [small 9 (W 14) + W 9 + small 6 (W 1) + W 0])
  | _ => st

/-- The hash over the blocks of a padded message. -/
def shaBlocks {w : Nat} (p : List Nat) (ks : List (BitVec w)) (block n : Nat) (h0 : List (BitVec w)) (m : List Byte) : List (BitVec w) :=
  (List.range (m.length / block)).foldl (fun (h : List (BitVec w)) i =>
    List.zipWith (· + ·) h (ks.foldl (shaRound p) (h, shaWords w n (slice m (block * i) block))).1) h0

/-- SHA-256 (FIPS 180-4), byte 0 of the digest most significant. -/
def sha256 (m : List Byte) : BitVec 256 :=
  let h := shaBlocks [2, 13, 22, 6, 11, 25, 7, 18, 3, 17, 19, 10] sha256K 64 4
    ([0x6a09e667, 0xbb67ae85, 0x3c6ef372, 0xa54ff53a, 0x510e527f, 0x9b05688c, 0x1f83d9ab, 0x5be0cd19] : List (BitVec 32)) (shaPad 64 8 m)
  BitVec.ofNat 256 (ofBe (h.flatMap fun x => beBytes 4 x.toNat))

/-- SHA-512 (FIPS 180-4): the 64 bytes of the digest. -/
def sha512 (m : List Byte) : List Byte :=
  let h := shaBlocks [28, 34, 39, 14, 18, 41, 1, 8, 7, 19, 61, 6] sha512K 128 8
    ([0x6a09e667f3bcc908, 0xbb67ae8584caa73b, 0x3c6ef372fe94f82b, 0xa54ff53a5f1d36f1,
   0x510e527fade682d1, 0x9b05688c2b3e6c1f, 0x1f83d9abfb41bd6b, 0x5be0cd19137e2179] : List (BitVec 64)) (shaPad 128 16 m)
  h.flatMap fun x => beBytes 8 x.toNat

/-- HMAC with SHA-256 under a key of at most 64 bytes (RFC 2104). -/
def hmacBytes (key m : List Byte) : BitVec 256 :=
  let pad := fun (b : Byte) => (key ++ List.replicate (64 - key.length) 0).map fun x => x ^^^ b
  sha256 (pad 0x5C ++ beBytes 32 (sha256 (pad 0x36 ++ m)).toNat)

/-- HMAC with SHA-256 under a 256-bit key (R81). -/
def hmacSha256 (key : BitVec 256) (m : List Byte) : BitVec 256 := hmacBytes (beBytes 32 key.toNat) m

/-- HKDF-Extract with SHA-256 (RFC 5869), for a salt of at most 64 bytes (R81). -/
def hkdfExtract (salt ikm : List Byte) : BitVec 256 := hmacBytes salt ikm

/-- HKDF-Expand with SHA-256 (RFC 5869; R81, R270, R271): `len` bytes, byte 0 most significant. -/
def hkdfExpand (prk : BitVec 256) (info : List Byte) (len : Nat) : BitVec (8 * len) :=
  let r := (List.range ((len + 31) / 32)).foldl (fun (a : List Byte × List Byte) i =>
    let t := beBytes 32 (hmacSha256 prk (a.1 ++ info ++ [BitVec.ofNat 8 (i + 1)])).toNat
    (t, a.2 ++ t)) ([], [])
  BitVec.ofNat (8 * len) (ofBe (r.2.take len))

/-! ### AES-256, CMAC, GCM, key wrap -/

/-- The S-box of AES, eight rows of 32 entries; entry `i` of a row at its bits `[8i + 7 : 8i]` (FIPS 197). -/
def aesBox : List Nat :=
  [0xc072a49cafa2d4adf04759fa7dc982ca76abd7fe2b670130c56f6bf27b777c63] ++
  [0x75b227ebe28012079a059618c323c7041531d871f1e5a534ccf73f362693fdb7] ++
  [0xcf584c4a39becb6a5bb1fc20ed00d153842fe329b3d63b52a05a6e1b1a2c8309] ++
  [0xd2f3ff1021dab6bcf5389d928f40a351a89f3c507f02f94585334d43fbaaefd0] ++
  [0xdb0b5ede14b8ee4688902a22dc4f816073195d643d7ea7c41744975fec130ccd] ++
  [0x08ae7a65eaf4566ca94ed58d6d37c8e779e4959162acd3c25c2406490a3a32e0] ++
  [0x9e1dc186b95735610ef6034866b53e708a8bbd4b1f74dde8c6b4a61c2e2578ba] ++
  [0x16bb54b00f2d99416842e6bf0d89a18cdf2855cee9871e9b948ed9691198f8e1]

/-- SubBytes on one byte. -/
def aesSub (b : Byte) : Byte := BitVec.ofNat 8 (aesBox.getD (b.toNat / 32) 0 >>> (8 * (b.toNat % 32)))
/-- Multiplication by x in the field of AES. -/
def aesX (b : Byte) : Byte := (b <<< 1) ^^^ (if b.getLsbD 7 then 0x1B else 0)

/-- One round of the key schedule: the next eight words of four bytes from the last eight, with the round constant. -/
def aesKeyNext (rc : Byte) (k : List (List Byte)) : List (List Byte) :=
  let g := fun (i : Nat) => k.getD i []
  let x := fun (a b : List Byte) => List.zipWith (· ^^^ ·) a b
  let t0 := ((g 7).drop 1 ++ (g 7).take 1).map aesSub
  let w0 := x (x (g 0) t0) [rc, 0, 0, 0]
  let w1 := x (g 1) w0
  let w2 := x (g 2) w1
  let w3 := x (g 3) w2
  let w4 := x (g 4) (w3.map aesSub)
  let w5 := x (g 5) w4
  let w6 := x (g 6) w5
  [w0, w1, w2, w3, w4, w5, w6, x (g 7) w6]

/-- The fifteen round keys of 16 bytes. -/
def aesKeys (key : BitVec 256) : List (List Byte) :=
  let b := beBytes 32 key.toNat
  let k0 := (List.range 8).map fun i => slice b (4 * i) 4
  let all := (([0x01, 0x02, 0x04, 0x08, 0x10, 0x20, 0x40] : List Byte).foldl (fun (a : List (List Byte) × List (List Byte)) rc =>
    let k := aesKeyNext rc a.1
    (k, a.2 ++ k)) (k0, k0)).2
  (List.range 15).map fun i => ((all.drop (4 * i)).take 4).flatten

/-- ShiftRows on the sixteen bytes of the state, column by column. -/
def aesShift (l : List Byte) : List Byte := (List.range 16).map fun i => l.getD ((i + 4 * (i % 4)) % 16) 0
/-- MixColumns. -/
def aesMix (l : List Byte) : List Byte := (List.range 16).map fun i =>
  let a := fun (j : Nat) => l.getD (4 * (i / 4) + (i + j) % 4) 0
  aesX (a 0) ^^^ (aesX (a 1) ^^^ a 1) ^^^ a 2 ^^^ a 3

/-- The block cipher on sixteen bytes under expanded keys. -/
def aesBlock (ks : List (List Byte)) (b : List Byte) : List Byte :=
  let add := fun (l : List Byte) (k : List Byte) => List.zipWith (· ^^^ ·) l k
  let mid := ((ks.drop 1).take 13).foldl (fun l k => add (aesMix (aesShift (l.map aesSub))) k) (add b (ks.getD 0 []))
  add (aesShift (mid.map aesSub)) (ks.getD 14 [])

/-- AES-256 on one block (R272). -/
def aes256 (key : BitVec 256) (block : BitVec 128) : BitVec 128 :=
  BitVec.ofNat 128 (ofBe (aesBlock (aesKeys key) (beBytes 16 block.toNat)))

/-- A subkey of CMAC: doubling in the field of 128 bits. -/
def cmacDouble (b : BitVec 128) : BitVec 128 := (b <<< 1) ^^^ (if b.getLsbD 127 then 0x87 else 0)

/-- AES-256-CMAC (NIST SP 800-38B; R272, R276). -/
def cmacAes256 (key : BitVec 256) (m : List Byte) : BitVec 128 :=
  let ks := aesKeys key
  let enc := fun (b : BitVec 128) => BitVec.ofNat 128 (ofBe (aesBlock ks (beBytes 16 b.toNat)))
  let k1 := cmacDouble (enc 0)
  let n := max 1 ((m.length + 15) / 16)
  let body := (List.range (n - 1)).foldl (fun c i => enc (c ^^^ BitVec.ofNat 128 (ofBe (slice m (16 * i) 16)))) 0
  let rest := m.drop (16 * (n - 1))
  let last := if rest.length = 16 then BitVec.ofNat 128 (ofBe rest) ^^^ k1
    else BitVec.ofNat 128 (ofBe (rest ++ [0x80] ++ List.replicate (15 - rest.length) 0)) ^^^ cmacDouble k1
  enc (body ^^^ last)

/-- Multiplication in the field of GHASH (NIST SP 800-38D): bit 127 is the coefficient of 1. -/
def ghashMul (x y : BitVec 128) : BitVec 128 :=
  ((List.range 128).foldl (fun (a : BitVec 128 × BitVec 128) i =>
    (if x.getLsbD (127 - i) then a.1 ^^^ a.2 else a.1, (a.2 >>> 1) ^^^ (if a.2.getLsbD 0 then 0xE1#128 <<< 120 else 0))) (0, y)).1

/-- Bytes padded with zeros to whole blocks, as blocks. -/
def gcmBlocks (l : List Byte) : List (BitVec 128) :=
  (List.range ((l.length + 15) / 16)).map fun i =>
    let b := slice l (16 * i) 16
    BitVec.ofNat 128 (ofBe (b ++ List.replicate (16 - b.length) 0))

/-- AES-256 in counter mode from a 128-bit initial block whose low 32 bits count (NIST SP 800-38D). -/
def aesCtr (ks : List (List Byte)) (icb : BitVec 128) (m : List Byte) : List Byte :=
  (List.range ((m.length + 15) / 16)).flatMap fun i =>
    let c := ((icb >>> 32) <<< 32) ||| BitVec.ofNat 128 ((icb.toNat + i) % 2 ^ 32)
    List.zipWith (· ^^^ ·) (slice m (16 * i) 16) (aesBlock ks (beBytes 16 c.toNat))

/-- The tag of GCM over associated data and ciphertext, for a 96-bit IV. -/
def gcmTag (ks : List (List Byte)) (iv : BitVec 96) (aad c : List Byte) : BitVec 128 :=
  let enc := fun (b : BitVec 128) => BitVec.ofNat 128 (ofBe (aesBlock ks (beBytes 16 b.toNat)))
  let h := enc 0
  let s := (gcmBlocks aad ++ gcmBlocks c ++ [BitVec.ofNat 128 (8 * aad.length * 2 ^ 64 + 8 * c.length)]).foldl
    (fun a b => ghashMul (a ^^^ b) h) 0
  s ^^^ enc (BitVec.ofNat 128 (iv.toNat * 2 ^ 32 + 1))

/-- Encryption and decryption of GCM with a 96-bit IV. -/
def gcmCrypt (ks : List (List Byte)) (iv : BitVec 96) (m : List Byte) : List Byte := aesCtr ks (BitVec.ofNat 128 (iv.toNat * 2 ^ 32 + 2)) m

/-- AES-256 key wrap of a 256-bit key (RFC 3394; R271). -/
def keyWrap (kek key : BitVec 256) : BitVec 320 :=
  let ks := aesKeys kek
  let r0 : List (BitVec 64) := (List.range 4).map fun i => key.extractLsb' (64 * (3 - i)) 64
  let st := (List.range 24).foldl (fun (a : BitVec 64 × List (BitVec 64)) t =>
    let b := BitVec.ofNat 128 (ofBe (aesBlock ks (beBytes 16 (a.1.toNat * 2 ^ 64 + (a.2.getD (t % 4) 0).toNat))))
    (b.extractLsb' 64 64 ^^^ BitVec.ofNat 64 (t + 1), a.2.set (t % 4) (b.extractLsb' 0 64))) (0xA6A6A6A6A6A6A6A6#64, r0)
  BitVec.ofNat 320 (ofBe (beBytes 8 st.1.toNat ++ st.2.flatMap fun x => beBytes 8 x.toNat))

/-! ### X25519 and Ed25519 -/

/-- The field of both curves: integers modulo 2^255 - 19. -/
def fp : Nat := 2 ^ 255 - 19
/-- The bits of a number, most significant of `n` first. -/
def bitsOf (n v : Nat) : List Bool := (List.range n).map fun i => v.testBit (n - 1 - i)
/-- A power by the bits of the exponent. -/
def powMod (m b e n : Nat) : Nat := (bitsOf n e).foldl (fun a c => let q := a * a % m; if c then q * b % m else q) 1
/-- The inverse in the field. -/
def fpInv (a : Nat) : Nat := powMod fp a (fp - 2) 255
/-- Subtraction in the field. -/
def fpSub (a b : Nat) : Nat := (a + fp - b % fp) % fp

/-- One step of the ladder of RFC 7748, for one bit of the scalar: (x2, z2) and (x3, z3). -/
def ladderStep (x1 : Nat) (s : (Nat × Nat) × (Nat × Nat)) (b : Bool) : (Nat × Nat) × (Nat × Nat) :=
  let (p, q) := if b then (s.2, s.1) else s
  let A := (p.1 + p.2) % fp
  let B := fpSub p.1 p.2
  let AA := A * A % fp
  let BB := B * B % fp
  let E := fpSub AA BB
  let DA := fpSub q.1 q.2 * A % fp
  let CB := (q.1 + q.2) * B % fp
  let u := (DA + CB) % fp
  let v := fpSub DA CB
  let p' := (AA * BB % fp, E * ((AA + 121665 * E) % fp) % fp)
  let q' := (u * u % fp, x1 * (v * v % fp) % fp)
  if b then (q', p') else (p', q')

/-- X25519 (RFC 7748): private key, then the peer's public key; keys hold byte `i` at bits `[8i + 7 : 8i]` (R81). -/
def x25519 (priv pub : BitVec 256) : BitVec 256 :=
  let k := priv.toNat % 2 ^ 254 / 8 * 8 + 2 ^ 254
  let u := pub.toNat % 2 ^ 255 % fp
  let r := (bitsOf 255 k).foldl (ladderStep u) ((1, 0), (u, 1))
  BitVec.ofNat 256 (r.1.1 * fpInv r.1.2 % fp)

/-- A point of the curve of Ed25519 in extended coordinates. -/
abbrev EdPoint := Nat × Nat × Nat × Nat

/-- The constant d of the curve, and a square root of -1. -/
def edD : Nat := 0x52036cee2b6ffe738cc740797779e89800700a4d4141d8ab75eb4dca135978a3
def edI : Nat := 0x2b8324804fc1df0b2b4d00993dfbd7a72f431806ad2fe478c4ee1b274a0ea0b0
/-- The order of the base point, and the base point. -/
def edL : Nat := 0x1000000000000000000000000000000014def9dea2f79cd65812631a5cf5d3ed
def edBase : EdPoint :=
  let x := 0x216936d3cd6e53fec0a4e231fdd6dc5c692cc7609525a7b2c9562d608f25d51a
  let y := 0x6666666666666666666666666666666666666666666666666666666666666658
  (x, y, 1, x * y % fp)

/-- Addition of points. -/
def edAdd (p q : EdPoint) : EdPoint :=
  let (x1, y1, z1, t1) := p
  let (x2, y2, z2, t2) := q
  let A := fpSub y1 x1 * fpSub y2 x2 % fp
  let B := (y1 + x1) * (y2 + x2) % fp
  let C := 2 * t1 * t2 % fp * edD % fp
  let D := 2 * z1 * z2 % fp
  let E := fpSub B A
  let F := fpSub D C
  let G := (D + C) % fp
  let H := (B + A) % fp
  (E * F % fp, G * H % fp, F * G % fp, E * H % fp)

/-- A multiple of a point, by the bits of a scalar below 2^256. -/
def edMul (k : Nat) (p : EdPoint) : EdPoint :=
  (bitsOf 256 k).foldl (fun a b => let d := edAdd a a; if b then edAdd d p else d) (0, 1, 1, 0)

/-- Equality of points. -/
def edEq (p q : EdPoint) : Bool := decide (p.1 * q.2.2.1 % fp = q.1 * p.2.2.1 % fp ∧ p.2.1 * q.2.2.1 % fp = q.2.1 * p.2.2.1 % fp)

/-- The encoding of a point in 32 bytes, as a little-endian number. -/
def edEncode (p : EdPoint) : Nat :=
  let z := fpInv p.2.2.1
  p.2.1 * z % fp + (p.1 * z % fp % 2) * 2 ^ 255

/-- The point of an encoding. -/
def edDecode (v : Nat) : Option EdPoint :=
  let y := v % 2 ^ 255
  let sign := v / 2 ^ 255 % 2
  if fp ≤ y then none
  else
    let u := fpSub (y * y % fp) 1
    let w := (edD * (y * y % fp) + 1) % fp
    let x2 := u * fpInv w % fp
    let c := powMod fp x2 ((fp + 3) / 8) 255
    let r : Option Nat := if c * c % fp = x2 then some c else
      let c' := c * edI % fp
      if c' * c' % fp = x2 then some c' else none
    match r with
    | none => none
    | some x =>
      if x = 0 ∧ sign = 1 then none
      else
        let x := if x % 2 = sign then x else fp - x
        some (x, y, 1, x * y % fp)

/-- The secret scalar and the prefix of a private key (RFC 8032). -/
def edSecret (priv : BitVec 256) : Nat × List Byte :=
  let h := sha512 (leBytes 32 priv.toNat)
  (ofLe (h.take 32) % 2 ^ 254 / 8 * 8 + 2 ^ 254, h.drop 32)

/-- The public half of a private key. -/
def ed25519Public (priv : BitVec 256) : BitVec 256 := BitVec.ofNat 256 (edEncode (edMul (edSecret priv).1 edBase))

/-- Ed25519 signing (R81): the 64 bytes of the signature, byte `i` at bits `[8i + 7 : 8i]`. -/
def ed25519Sign (priv : BitVec 256) (m : List Byte) : BitVec 512 :=
  let (a, pre) := edSecret priv
  let r := ofLe (sha512 (pre ++ m)) % edL
  let R := edEncode (edMul r edBase)
  let k := ofLe (sha512 (leBytes 32 R ++ leBytes 32 (ed25519Public priv).toNat ++ m)) % edL
  BitVec.ofNat 512 (R + (r + k * a) % edL * 2 ^ 256)

/-- Ed25519 verification (R81, R251, R366): public key, message, signature. -/
def ed25519Verify (pub : BitVec 256) (m : List Byte) (sig : BitVec 512) : Bool :=
  let R := sig.toNat % 2 ^ 256
  let S := sig.toNat / 2 ^ 256
  match edDecode pub.toNat, edDecode R with
  | some A, some P =>
    let k := ofLe (sha512 (leBytes 32 R ++ leBytes 32 pub.toNat ++ m)) % edL
    decide (S < edL) && edEq (edMul S edBase) (edAdd P (edMul k A))
  | _, _ => false

/-! ### The frame check sequence -/

/-- CRC-32 of IEEE 802.3 over some bytes; the first byte of a stored or sent CRC is the least significant (R39; PRESUMED, log 24). -/
def crc32 (m : List Byte) : Word :=
  ~~~ m.foldl (fun (c : Word) b =>
    (List.range 8).foldl (fun (c : Word) _ => if c.getLsbD 0 then (c >>> 1) ^^^ 0xEDB88320 else c >>> 1) (c ^^^ b.setWidth 32)) 0xFFFFFFFF

end Sys2Proof.Machine
end

