-- ==== Sys2Proof/Machine/Flags.lean ====
section
/-! DEFINITION. Statuses (Table 2.11), flags (Table 2.5) and the state and status fields of registers: how each is computed
and encoded. -/

namespace Sys2Proof.Machine

/-- Status codes (Table 2.11, R425). -/
def stOk : Byte := 0x00
def stGap : Byte := 0x01
def stBusy : Byte := 0x02
def stRange : Byte := 0x03
def stOffline : Byte := 0x04
def stDenied : Byte := 0x05
def stLocked : Byte := 0x06
def stOrder : Byte := 0x07
def stReadOnly : Byte := 0x08
def stIntegrity : Byte := 0x09
def stRekeyStall : Byte := 0x0A
def stInternal : Byte := 0x0B
def stAborted : Byte := 0x0C

/-- A bit in its place. -/
def bit (n : Nat) (b : Bool) : Nat := if b then 2 ^ n else 0

/-- The response flags of Table 2.5. -/
def flagsOf (poison never replayed waived retry stale : Bool) : Byte :=
  BitVec.ofNat 8 (bit 0 poison + bit 1 never + bit 2 replayed + bit 3 waived + bit 4 retry + bit 5 stale)

/-- The status of a request: that of the part with the lower address whose status is not OK (R30). -/
def statusOf (rs : List PartRes) : Byte := match rs.find? fun r => decide (r.status ≠ stOk) with
  | some r => r.status
  | none => stOk

/-- The flags of a response (R30, R52, R149): NEVER_WRITTEN only when every line was never written. -/
def flagsOfParts (rs : List PartRes) (read : Bool) : Byte :=
  flagsOf (rs.any fun r => r.anyPoison || decide (r.poison ≠ 0)) (read && rs ≠ [] && rs.all fun r => r.neverWritten) false
    (rs.any fun r => r.waived) (rs.any fun r => r.retry) (rs.any fun r => r.stale)

/-- STATE encodings of SES_SSTS, RGN_CTL, SUP_STS, PORT_STS, TCTL_STS, SUP_RSTS, SUP_DSTS and THM_T. -/
def SesSt.code : SesSt → Nat | .idle => 0 | .enrolling => 1 | .live => 2 | .closing => 3
def RgnSt.code : RgnSt → Nat
  | .disabled => 0 | .online => 1 | .readOnly => 2 | .stopping => 3 | .offline => 4 | .zeroizing => 5
def RgnSt.ofCode : Nat → RgnSt
  | 1 => .online | 2 => .readOnly | 3 => .stopping | 4 => .offline | 5 => .zeroizing | _ => .disabled
def SupSt.code : SupSt → Nat
  | .standby => 0 | .poweringUp => 1 | .on => 2 | .degraded => 3 | .recovering => 4 | .stopping => 5 | .draining => 6
  | .poweringDown => 7 | .offWait => 8 | .off => 9
def LinkSt.code : LinkSt → Nat | .down => 0 | .training => 1 | .up => 2 | .stopping => 3
def TileSt.code : TileSt → Nat
  | .starting => 0 | .inService => 1 | .stopping => 2 | .stopped => 3 | .faultReset => 4 | .replay => 5 | .out => 6
def RailSt.code : RailSt → Nat | .off => 0 | .checking => 1 | .on => 2 | .failed => 3
def DomSt.code : DomSt → Nat | .off => 0 | .starting => 1 | .on => 2 | .stopping => 3
def ThmSt.code : ThmSt → Nat | .normal => 0 | .warm => 1 | .hot => 2 | .tooHot => 3
def CfgSt.code : CfgSt → Nat
  | .idle => 0 | .discovery => 1 | .slotPhase => 2 | .tilePhase => 3 | .loaded => 4 | .fail => 5

end Sys2Proof.Machine
end

