-- ==== Sys2Proof/Machine/Operands.lean ====
section
/-! DEFINITION. The operand forms of requests and schedule words: what a header, a payload or a word says (Tables 2.4, 2.6,
8.2, 12.3; R49, R50, R53). -/

namespace Sys2Proof.Machine

/-- Opcodes (Table 2.6). -/
def opRead : BitVec 8 := 0x01
def opWrite : BitVec 8 := 0x02
def opPartial : BitVec 8 := 0x03
def opCas : BitVec 8 := 0x04
def opFadd : BitVec 8 := 0x05
def opBarrier : BitVec 8 := 0x06
def opLock : BitVec 8 := 0x07
def opUnlock : BitVec 8 := 0x08
def opMgmtRead : BitVec 8 := 0x09
def opMgmtWrite : BitVec 8 := 0x0A
def opEnroll : BitVec 8 := 0x10
def opFinish : BitVec 8 := 0x11
def opKeepalive : BitVec 8 := 0x12
def opData : BitVec 8 := 0x81
def opAck : BitVec 8 := 0x82
def opNak : BitVec 8 := 0x83
def opSquall : BitVec 8 := 0x84
def opEvent : BitVec 8 := 0x85
def opResult : BitVec 8 := 0x86

/-- A request that moves lines (R99). -/
def isMemory (op : BitVec 8) : Bool := decide (1 ≤ op.toNat ∧ op.toNat ≤ 5)
/-- A WRITE, WRITE_PARTIAL, CAS64 or FADD64. -/
def isWrite (op : BitVec 8) : Bool := decide (2 ≤ op.toNat ∧ op.toNat ≤ 5)
def isAtomic (op : BitVec 8) : Bool := decide (op = opCas ∨ op = opFadd)
/-- A WRITE_PARTIAL, CAS64 or FADD64: a read-modify-write (R101). -/
def isRmw (op : BitVec 8) : Bool := decide (3 ≤ op.toNat ∧ op.toNat ≤ 5)

end Sys2Proof.Machine

namespace Sys2Proof
open Machine

/-- Lines of a memory request: COUNT + 1, or the one line of an atomic. -/
def Rq.nLines (r : Rq) : Nat := if isAtomic r.hdr.opcode then 1 else r.hdr.count.toNat + 1
/-- The device address of the first line. -/
def Rq.addr (r : Rq) : Nat := r.hdr.addr.toNat
/-- k of R49: codewords a READ touches. -/
def nCodewords (a count : Nat) : Nat := (a + 64 * count) / 256 - a / 256 + 1
/-- TOKEN_PRESENT. -/
def Rq.tokenPresent (r : Rq) : Bool := r.hdr.flags.getLsbD 0

/-- Whether opcode, COUNT and payload length agree (Table 2.6, R53); COUNT above 63 does not (log 6). -/
def Rq.formOk (r : Rq) : Bool :=
  let c := r.hdr.count.toNat
  let n := r.payload.length
  match r.hdr.opcode.toNat with
  | 1 => decide (c ≤ 63) && decide (n = if r.tokenPresent then 8 * nCodewords r.addr c else 0)
  | 2 => decide (c ≤ 63) && decide (n = 64 * (c + 1))
  | 3 => decide (c ≤ 63) && decide (n = 72 * (c + 1))
  | 4 => decide (n = 16)
  | 5 => decide (n = 8)
  | 6 => decide (n = 0)
  | 7 => decide (n = 0)
  | 8 => decide (n = 0)
  | 9 => decide (c ≤ 63) && decide (n = 0)
  | 10 => decide (c ≤ 63) && decide (n = 4 * (c + 1))
  | 16 => decide (n = 56)
  | 17 => decide (n = 64)
  | _ => false

/-- A line from 64 bytes in ascending address order (R50). -/
def lineOf (l : List Byte) : Line := BitVec.ofNat 512 (ofLe l)
/-- The bytes of a line in ascending address order. -/
def lineBytes (l : Line) : List Byte := leBytes 64 l.toNat

/-- Line data of a WRITE or WRITE_PARTIAL. -/
def Rq.lines (r : Rq) : List Line :=
  let o := if r.hdr.opcode = opPartial then 8 * r.nLines else 0
  (List.range r.nLines).map fun i => lineOf (slice r.payload (o + 64 * i) 64)
/-- Byte-enable masks of a WRITE_PARTIAL, most significant byte first (R50). -/
def Rq.masks (r : Rq) : List (BitVec 64) :=
  (List.range r.nLines).map fun i => BitVec.ofNat 64 (ofBe (slice r.payload (8 * i) 8))
/-- A big-endian 64-bit operand at byte `o` (R50). -/
def Rq.operand (r : Rq) (o : Nat) : BitVec 64 := BitVec.ofNat 64 (ofBe (slice r.payload o 8))
/-- Token slots of a READ, in ascending codeword order (R52). -/
def Rq.tokens (r : Rq) : List (BitVec 64) :=
  if r.hdr.opcode = opRead ∧ r.tokenPresent = true then (List.range (nCodewords r.addr r.hdr.count.toNat)).map fun i => r.operand (8 * i) else []

end Sys2Proof

namespace Sys2Proof.Machine

/-- The bytes a mask enables take the new line's value, the others keep the old one's (R134). -/
def mergeLine (mask : BitVec 64) (new old : Line) : Line :=
  BitVec.ofNat 512 (ofLe ((List.range 64).map fun i =>
    if mask.getLsbD i then new.extractLsb' (8 * i) 8 else old.extractLsb' (8 * i) 8))

/-- The 8 bytes of a line at byte offset `o`, little-endian (R50), and the line with them replaced. -/
def getQ (l : Line) (o : Nat) : BitVec 64 := l.extractLsb' (8 * o) 64
def setQ (l : Line) (o : Nat) (v : BitVec 64) : Line :=
  (l &&& ~~~((BitVec.allOnes 64).setWidth 512 <<< (8 * o))) ||| (v.setWidth 512 <<< (8 * o))

/-- The new value of an atomic (R50, R136): CAS64 swaps on equality, FADD64 adds modulo 2^64. -/
def atomicNew (op : BitVec 8) (a b old : BitVec 64) : BitVec 64 :=
  if op = opFadd then old + a else if old = a then b else old

/-- Fields of a schedule word (Table 8.2). -/
def wClass (w : Word) : Nat := w.toNat % 8
def wDie (w : Word) : DieId := ⟨(w.toNat / 8) % 8, Nat.mod_lt _ (by decide)⟩
def wWin (w : Word) : Nat := (w.toNat / 64) % 4
def wXf (w : Word) : Bool := w.getLsbD 8
def wXfDie (w : Word) : DieId := ⟨(w.toNat / 512) % 8, Nat.mod_lt _ (by decide)⟩
def wStart (w : Word) : Bool := w.getLsbD 12
def wTake (w : Word) : Bool := w.getLsbD 13
def wLend (w : Word) : Bool := w.getLsbD 14
def wXfClass (w : Word) : Nat := (w.toNat / 32768) % 8
def wXfTake (w : Word) : Bool := w.getLsbD 18

/-- Whether a word's fields combine as Table 8.3 allows, runs apart (R225). -/
def wordOk (w : Word) : Bool :=
  decide (w.toNat / 0x80000 = 0) &&
  (match wClass w with
   | 0 => decide (w.toNat / 8 % 32 = 0) && !wTake w
   | 1 => decide (wWin w ≠ 0)
   | 5 => decide (wWin w ≠ 0)
   | 4 => decide (wWin w ≠ 0) && !wTake w
   | 7 => decide (wWin w ≠ 0) && !wTake w
   | _ => false) &&
  (if wXf w then
     (wXfClass w == 2 || wXfClass w == 3 || wXfClass w == 4 || wXfClass w == 6) &&
     (!wLend w || wXfClass w == 3) && (!wXfTake w || wXfClass w == 2)
   else (w.toNat / 512 % 16 == 0) && !wLend w && wXfClass w == 0 && !wXfTake w)

/-- Fields of a codeword address (Table 6.1). -/
def cwaDie (a : BitVec 34) : DieId := ⟨(a.toNat >>> 31) % 8, Nat.mod_lt _ (by decide)⟩
def cwaSlab (a : BitVec 34) : Nat := (a.toNat >>> 15) % 65536
def cwaChan (a : BitVec 34) : ChanId := ⟨(a.toNat >>> 12) % 8, Nat.mod_lt _ (by decide)⟩
def cwaPage (a : BitVec 34) : Nat := (a.toNat >>> 6) % 64
def cwaPlane (a : BitVec 34) : Nat := (a.toNat >>> 4) % 4
def cwaCw (a : BitVec 34) : Nat := a.toNat % 16
/-- The stratum of a location (R156). -/
def cwaStratum (a : BitVec 34) : Nat := (cwaDie a).val * 65536 + cwaSlab a
/-- A page address (R156) from stratum, channel, page position and plane, and a codeword address from it. -/
def pageAddr (stratum chan pos plane : Nat) : BitVec 30 :=
  BitVec.ofNat 30 ((stratum <<< 11) + (chan <<< 8) + (pos <<< 2) + plane)
def cwAddr (page : BitVec 30) (cw : Nat) : BitVec 34 := BitVec.ofNat 34 (page.toNat * 16 + cw % 16)

/-- The parity channel of a stratum with no lost member (R191), and of a narrow one (R201). -/
def parityChan (stratum : Nat) : Nat := (stratum % 65536 + stratum / 65536) % 8
def parityChanNarrow (stratum x : Nat) : Nat :=
  ((List.range 8).filter (fun c => decide (c ≠ x))).getD ((stratum % 65536 + stratum / 65536) % 7) 0

end Sys2Proof.Machine
end

