-- ==== Sys2Proof/Machine/Keys.lean ====
section
/-! DEFINITION. The enrollment exchange's values and the secure associations of a session (R37, R80, R81, R85, R86, R88,
R89, R94). -/

namespace Sys2Proof.Machine

/-- MAC address of link `j` of port `p` (R37). -/
def State.linkMac (s : State) (p : PortId) (j : LinkId) : BitVec 48 := s.cfg.baseMac + BitVec.ofNat 48 (4 * p.val + j.val)

/-- The device's SCI for session `x` (R86). -/
def State.devSci (s : State) (x : SessId) (p : PortId) (j : LinkId) : BitVec 64 :=
  (s.linkMac p j).append (BitVec.ofNat 16 (0x0100 + x.val)) |>.setWidth 64

/-- Fields of the payload of ENROLL (Table 3.3): key, nonce, SCI. Keys are taken as little-endian byte strings. -/
def enrKey (r : Rq) : BitVec 256 := BitVec.ofNat 256 (ofLe (slice r.payload 0 32))
def enrNonce (r : Rq) : List Byte := slice r.payload 32 16
def enrSci (r : Rq) : BitVec 64 := BitVec.ofNat 64 (ofBe (slice r.payload 48 8))

/-- X25519 base point (RFC 7748). -/
def basePoint : BitVec 256 := 9

/-- z of R81. -/
def enrZ (r : Rq) (priv : BitVec 256) : BitVec 256 := x25519 priv (enrKey r)

/-- KA_LIMIT in ms, as it acts (SES_CTL): 0 as 1, above 1,000 as 1,000. -/
def State.kaLimit (s : State) : Nat := max 1 (min ((s.sesCtl.toNat / 2) % 1024) 1000)

/-- The exchange the device answers an ENROLL with: transcript, keys and the payload of its ACK (R80, R81). -/
def State.offer (s : State) (x : SessId) (rq : Rq) (priv : BitVec 256) (nonce : BitVec 128) (d : Word) (e : BitVec 16)
    (p : PortId) (j : LinkId) (mac : BitVec 48) (v1 : Bool) : Exch :=
  let pd := leBytes 32 (x25519 priv basePoint).toNat
  let nd := beBytes 16 nonce.toNat
  let sci := beBytes 8 (s.devSci x p j).toNat
  let t := sha256 ([BitVec.ofNat 8 x.val] ++ beBytes 2 e.toNat ++ beBytes 4 rq.hdr.seq.toNat ++ beBytes 4 d.toNat ++
    beBytes 6 (s.linkMac p j).toNat ++ slice rq.payload 0 56 ++ pd ++ nd ++ sci)
  let tb := beBytes 32 t.toNat
  let dev := match s.ldg.ident with | some (k, _, _) => k | none => 0
  let sig := ed25519Sign dev (ascii "JILUM-ENROLL-D" ++ tb)
  let prk := hkdfExtract (enrNonce rq ++ nd) (leBytes 32 (enrZ rq priv).toNat)
  let okm := hkdfExpand prk (ascii "JILUM-SA" ++ tb) 120
  { rq, mac, port := p, link := j, v1, e, d, t, okm, ack := pd ++ nd ++ sci ++ leBytes 64 sig.toNat
    ka := s.kaLimit, at_ := s.now }

/-- Parts of the key material of R81; byte 0 is the most significant. -/
def Exch.sakUp (o : Exch) : BitVec 256 := o.okm.extractLsb' 704 256
def Exch.sakDown (o : Exch) : BitVec 256 := o.okm.extractLsb' 448 256
def Exch.saltUp (o : Exch) : BitVec 96 := o.okm.extractLsb' 352 96
def Exch.saltDown (o : Exch) : BitVec 96 := o.okm.extractLsb' 256 96
/-- The confirmation C (R81). -/
def Exch.confirm (o : Exch) : List Byte :=
  (beBytes 32 (hmacSha256 (o.okm.extractLsb' 0 256) (beBytes 32 o.t.toNat)).toNat).take 16

/-- S_H verifies under a credential's key (R81). -/
def Exch.verifies (o : Exch) (key : BitVec 256) (sig : List Byte) : Bool :=
  ed25519Verify key (ascii "JILUM-ENROLL-H" ++ beBytes 32 o.t.toNat) (BitVec.ofNat 512 (ofLe sig))

/-- The associations of an exchange on association number `an`, from packet number 1 on (R86). -/
def Exch.up (o : Exch) (an : BitVec 2) : Sa := { an, key := o.sakUp, salt := o.saltUp, pn := 1 }
def Exch.down (o : Exch) (an : BitVec 2) : Sa := { an, key := o.sakDown, salt := o.saltDown, pn := 1 }

/-- A rollover takes effect with the ACK of its ENROLL_FINISH (R88, R89): later frames go out under the new association, and
frames are accepted under both for up to 10 ms. DESIGN CHOICE (log 108): the session keeps its host SCI, whatever the rollover ENROLL
carried. DESIGN CHOICE (log 148): it keeps the keep-alive limit of its enrollment. -/
def Sess.rekey (S : Sess) (o : Exch) (now : Nat) : Sess :=
  let an : BitVec 2 := match S.tx with | some a => a.an + 1 | none => 1
  { S with tx := some (o.down an), rx := o.up an :: S.rx.take 1, oldAt := some (now + ms 10), roll := none }

/-- The lowest acceptable packet number, for a replay window (R85). -/
def Sa.lowest (a : Sa) (win : Nat) : Nat := a.pn.toNat - win
/-- The 64-bit packet number recovered from its low 32 bits (R86; log 13). -/
def Sa.recover (a : Sa) (win : Nat) (pn : Word) : Nat :=
  let low := a.lowest win
  let hi := low / 2 ^ 32
  (if (low % 2 ^ 32 ≥ 2 ^ 31 ∧ pn.toNat < 2 ^ 31) then hi + 1 else hi) * 2 ^ 32 + pn.toNat

end Sys2Proof.Machine
end

