-- ==== Sys2Proof/Machine/Wire.lean ====
section
/-! DEFINITION. Frames as bytes: the Jilum header (Table 2.4), the layouts of Table 2.3 and R44, and MACsec's GCM-AES-XPN-256
over them (R41 to R45, R85, R86). -/

namespace Sys2Proof
open Machine

/-- The 32 bytes of a Jilum header (Table 2.4), multi-byte fields big-endian. -/
def Hdr.bytes (h : Hdr) : List Byte :=
  [BitVec.ofNat 8 (16 * h.version.toNat), h.opcode, BitVec.ofNat 8 h.session.val, h.flags, h.status, h.count] ++
    beBytes 2 h.epoch.toNat ++ beBytes 4 h.seq.toNat ++ beBytes 4 h.ack.toNat ++ beBytes 4 h.ref.toNat ++
    beBytes 4 h.aux.toNat ++ beBytes 8 h.addr.toNat

/-- A field of `n` bytes at offset `o`, big-endian. -/
def beAt (l : List Byte) (o n : Nat) : Nat := Machine.ofBe (Machine.slice l o n)

/-- The header that 32 bytes give; the bits of Table 2.4 without a field are not looked at (log 103). -/
def Hdr.ofBytes (l : List Byte) : Hdr :=
  { version := BitVec.ofNat 4 (beAt l 0 1 / 16), opcode := BitVec.ofNat 8 (beAt l 1 1)
    session := ⟨beAt l 2 1 % 64, Nat.mod_lt _ (by decide)⟩
    flags := BitVec.ofNat 8 (beAt l 3 1), status := BitVec.ofNat 8 (beAt l 4 1), count := BitVec.ofNat 8 (beAt l 5 1)
    epoch := BitVec.ofNat 16 (beAt l 6 2), seq := BitVec.ofNat 32 (beAt l 8 4), ack := BitVec.ofNat 32 (beAt l 12 4)
    ref := BitVec.ofNat 32 (beAt l 16 4), aux := BitVec.ofNat 32 (beAt l 20 4), addr := BitVec.ofNat 64 (beAt l 24 8) }

/-- PCP of an enrollment frame (R42). -/
def EnrFrame.pcp (f : EnrFrame) : BitVec 3 := match f.ctag with | some c => c.pcp | none => 0

/-- Header and payload as bytes, and the frame that bytes give; none where they are too short for a header. -/
def Rq.bytes (r : Rq) : List Byte := r.hdr.bytes ++ r.payload
def Rq.ofBytes (l : List Byte) : Option Rq :=
  if l.length < 32 then none else some { hdr := Hdr.ofBytes l, payload := l.drop 32 }

end Sys2Proof

namespace Sys2Proof.Machine

/-! ### What a received frame says -/

/-- EtherTypes: the C-tag's TPID, the SecTAG's, MAC Control's (Table 2.3, R40). -/
def tpid : Nat := 0x8100
def secType : Nat := 0x88E5
def pauseType : Nat := 0x8808
/-- Destination of PAUSE and priority-based flow control (R40). -/
def pauseMac : BitVec 48 := 0x0180C2000001#48
/-- The TCI of Table 2.3: V 0, ES 0, SC 1, SCB 0, E 1, C 1. -/
def tciGood : BitVec 6 := 0b001011#6
/-- SSCI of the host's channel and of the device's (Table 3.5). -/
def ssciHost : Word := 1
def ssciDevice : Word := 2

/-- SL of secure data of `n` bytes (R43). -/
def slOf (n : Nat) : Nat := if n < 48 then n else 0

/-- The frame check sequence agrees with the bytes before it (R39). -/
def fcsGood (l : List Byte) : Bool :=
  decide (4 ≤ l.length) && decide (leBytes 4 (crc32 (l.take (l.length - 4))).toNat = l.drop (l.length - 4))
def frameDa (l : List Byte) : BitVec 48 := BitVec.ofNat 48 (beAt l 0 6)
def frameSa (l : List Byte) : BitVec 48 := BitVec.ofNat 48 (beAt l 6 6)
/-- The C-tag after the source address (Table 2.3). -/
def frameTag (l : List Byte) : Option CTag :=
  if beAt l 12 2 = tpid then some { pcp := BitVec.ofNat 3 (beAt l 14 1 / 32), vid := BitVec.ofNat 12 (beAt l 14 2) } else none
/-- Where the SecTAG or the Jilum EtherType stands: 4 bytes later with a C-tag. -/
def frameOff (l : List Byte) : Nat := if beAt l 12 2 = tpid then 16 else 12
def frameType (l : List Byte) : Nat := beAt l (frameOff l) 2
/-- The SecTAG of a protected frame. -/
def frameSec (l : List Byte) : Option SecTag :=
  let o := frameOff l
  if frameType l = secType then
    some { tci := BitVec.ofNat 6 (beAt l (o + 2) 1 / 4), an := BitVec.ofNat 2 (beAt l (o + 2) 1)
           sl := BitVec.ofNat 6 (beAt l (o + 3) 1), pn := BitVec.ofNat 32 (beAt l (o + 4) 4), sci := BitVec.ofNat 64 (beAt l (o + 8) 8) }
  else none
/-- The Jilum header and payload of an unprotected frame (R44). -/
def frameClear (l : List Byte) : Option Rq := Rq.ofBytes (slice l (frameOff l + 2) (l.length - 4 - (frameOff l + 2)))
/-- The bytes of secure data of a protected frame: what lies between SecTAG and ICV. -/
def frameSecure (l : List Byte) : List Byte := slice l (frameOff l + 16) (l.length - 20 - (frameOff l + 16))

/-! ### MACsec (R43, R85, R86) -/

/-- The IV of GCM-AES-XPN: SSCI and packet number, exclusive-ored with the salt (R85). -/
def xpnIv (ssci : Word) (a : Sa) (pn : BitVec 64) : BitVec 96 := (ssci ++ pn).setWidth 96 ^^^ a.salt

/-- What MACsec authenticates apart from the secure data: both addresses and the SecTAG, the C-tag not (log 104). -/
def secAad (da sa : BitVec 48) (tag : List Byte) : List Byte := beBytes 6 da.toNat ++ beBytes 6 sa.toNat ++ tag

/-- The 16 bytes of a SecTAG (Table 2.3). -/
def secTagBytes (c : SecTag) : List Byte :=
  beBytes 2 secType ++ [BitVec.ofNat 8 (4 * c.tci.toNat + c.an.toNat), BitVec.ofNat 8 c.sl.toNat] ++ beBytes 4 c.pn.toNat ++
    beBytes 8 c.sci.toNat

/-- The SecTAG's SL is that of the secure data it stands before (R43; log 105). -/
def slGood (l : List Byte) (c : SecTag) : Bool :=
  let o := frameOff l
  decide (c.sl.toNat = slOf (l.length - 20 - (o + 16)) ∧ beAt l (o + 3) 1 < 64 ∧ o + 36 ≤ l.length)

/-- The secure data of a received frame under an association, where its ICV verifies (R85). -/
def unprotect (a : Sa) (pn : BitVec 64) (l : List Byte) : Option (List Byte) :=
  let ks := aesKeys a.key
  let iv := xpnIv ssciHost a pn
  let c := frameSecure l
  if beBytes 16 (gcmTag ks iv (secAad (frameDa l) (frameSa l) (slice l (frameOff l) 16)) c).toNat = slice l (l.length - 20) 16 then
    some (gcmCrypt ks iv c)
  else none

/-- A frame closed by its FCS. -/
def withFcs (l : List Byte) : List Byte := l ++ leBytes 4 (crc32 l).toNat

/-! ### What a sent frame holds -/

/-- Fields of PORT_CTL. -/
def Port.clearTag (p : Port) : Bool := p.ctl.getLsbD 6
def Port.vlan (p : Port) : BitVec 12 := p.ctl.extractLsb' 8 12

/-- Addresses and, in clear-tag mode, the C-tag of a frame the device sends (R41, R42). -/
def State.frontBytes (s : State) (p : PortId) (j : LinkId) (mac : BitVec 48) (pcp : BitVec 3) : List Byte :=
  beBytes 6 mac.toNat ++ beBytes 6 (s.linkMac p j).toNat ++
    (if (s.port p).clearTag then beBytes 2 tpid ++ beBytes 2 (pcp.toNat * 2 ^ 13 + (s.port p).vlan.toNat) else [])

/-- The bytes of a protected frame to session `x` under association `a` (Table 2.3). -/
def State.protect (s : State) (x : SessId) (a : Sa) (f : Frame) : List Byte :=
  let S := s.ses x
  let secure := beBytes 2 s.cfg.etherType.toNat ++ f.hdr.bytes ++ f.payload
  let tag := secTagBytes { tci := tciGood, an := a.an, sl := BitVec.ofNat 6 (slOf secure.length), pn := a.pn.setWidth 32
                           sci := s.devSci x S.port S.link }
  let ks := aesKeys a.key
  let iv := xpnIv ssciDevice a a.pn
  let c := gcmCrypt ks iv secure
  withFcs (s.frontBytes S.port S.link S.mac S.pcp ++ tag ++ c ++
    beBytes 16 (gcmTag ks iv (secAad S.mac (s.linkMac S.port S.link) tag) c).toNat)

/-- The bytes of an unprotected frame (R44), and how many more a frame of 64 bytes needs (R38). -/
def State.unprotected (s : State) (p : PortId) (j : LinkId) (mac : BitVec 48) (pcp : BitVec 3) (f : Frame) : List Byte :=
  s.frontBytes p j mac pcp ++ beBytes 2 s.cfg.etherType.toNat ++ f.hdr.bytes ++ f.payload
def padOf (l : List Byte) : Nat := 60 - l.length

end Sys2Proof.Machine
end

