-- ==== Sys2Proof/Machine/Transport.lean ====
section
/-! DEFINITION. The shared operations of the transport (chapter 2): sending a frame, retention and its room, device sequence
numbers, occurrences of events, completions and the completion cache, gaps. -/

namespace Sys2Proof.Machine

/-- "a precedes b" (R55). -/
def precedes (a b : Word) : Bool := decide (1 ≤ (b - a).toNat ∧ (b - a).toNat < 2 ^ 31)

/-- The version nibble of a session (Table 2.4). -/
def Sess.version (S : Sess) : BitVec 4 := if S.v1 then 1 else 2

/-- A header completed with what every frame to a session carries (R45, R56). -/
def Sess.stamp (S : Sess) (x : SessId) (h : Hdr) (seq : Word) : Hdr :=
  { h with version := S.version, session := x, epoch := S.epoch, seq, ack := S.e - 1 }

/-- A frame leaves for session `x`, under its transmit association, which uses up one packet number (R86). -/
def State.emit (s : State) (x : SessId) (f : Frame) : State :=
  let S := s.ses x
  match S.tx with
  | none => s
  | some sa =>
    -- a packet number is never reused (R87)
    if sa.pn = 0 then s else
    let s := s.modSes x fun S => { S with tx := some { sa with pn := sa.pn + 1 }, txAt := s.now }
    { s with out := { port := S.port, link := S.link, mac := S.mac, sec := some (sa.an, sa.pn), pcp := S.pcp, frame := f
                      wire := s.protect x sa f } :: s.out }

/-- An unsequenced frame carries the next number its sender will consume (R54). -/
def State.emitUnseq (s : State) (x : SessId) (h : Hdr) : State :=
  let S := s.ses x
  if S.st = .live then s.emit x { hdr := S.stamp x h S.dseq } else s

/-- A GAP NAK (R58, R59). -/
def State.gapNak (s : State) (x : SessId) (ref aux : Word) : State :=
  let s := s.emitUnseq x { opcode := opNak, status := stGap, ref, aux }
  s.modSes x fun S => { S with gap := some (s.now, aux) }

/-- Bytes a frame takes in the retention store: header and payload (log 7). -/
def frameSize (payload : List Byte) : Nat := 32 + payload.length

/-- Whether retention store and outstanding count have room for `n` frames of `b` bytes in all (R63). -/
def Sess.room (S : Sess) (n b : Nat) : Bool :=
  decide (S.retain.length + n ≤ 4096) && decide ((S.retain.map fun f => frameSize f.payload).sum + b ≤ 0x100000)

/-- Whether a waiting frame may take a device sequence number now (R63, R70). -/
def Sess.maySend (S : Sess) (w : Waiting) : Bool :=
  if w.squall then true
  else S.unset = none &&
    (if w.pend = [] then S.room 1 (frameSize w.payload) else S.room 2 (frameSize w.payload + 40))

/-- A cell of tile `t` goes back to the shared pool (R110): its frames and tokens are the caller's. -/
def State.freeCell (s : State) (t : TileId) (x : SessId) (id : Nat) : State :=
  s.modAdm t fun a => { a with
    cells := Tab.del id a.cells
    queues := Tab.upd [] a.queues x.val fun q => q.filter (fun c => decide (c ≠ id)) }

/-- The completion cache keeps the 4,096 numbers before e (R66). -/
def cachePut (S : Sess) (seq : Word) (c : Cached) : Tab Cached :=
  Tab.ins seq.toNat c (Tab.keep (fun k => decide ((S.e - BitVec.ofNat 32 k).toNat ≤ 4096)) S.cache)

/-- The cell of a request with no lines is freed as its completion enters retention (R110), or waits for room (R63). -/
def State.uncell (s : State) (x : SessId) (seq : Option Word) : State :=
  match seq.bind fun q => (s.ses x).reqs.find? fun r => decide (r.rq.hdr.seq = q) with
  | none => s
  | some r => match r.cell with
    | none => s
    | some id => (s.freeCell (s.home x) x id).modSes x fun S => { S with
        reqs := S.reqs.map fun o => if o = r then { r with cell := none } else o }

/-- The requests a frame completes leave the home tile as it enters retention: cache entry, no-line cell (R66, R110). -/
def State.retired (s : State) (x : SessId) (w : Waiting) : State :=
  match w.rseq with
  | none => s
  | some q =>
    match (s.ses x).reqs.find? (fun r => decide (r.rq.hdr.seq = q)) with
    | none => s
    | some r =>
      let old := if w.hdr.opcode = opResult then BitVec.ofNat 64 (ofBe w.payload) else 0
      let s := s.uncell x (some q)
      s.modSes x fun S => { S with
        reqs := S.reqs.filter fun r => decide (r.rq.hdr.seq ≠ q)
        cache := if r.replay then S.cache else cachePut S q { opcode := r.rq.hdr.opcode, status := w.hdr.status, flags := w.hdr.flags, old } }

/-- Cache entries of the requests a BUSY NAK covers (Table 2.7). -/
def busyCached (S : Sess) (m : Marker) : Tab Cached :=
  (List.range ((m.last - m.first).toNat + 1)).foldl
    (fun c i => Tab.ins (m.first + BitVec.ofNat 32 i).toNat { opcode := 0, status := stBusy, flags := 0, old := 0 } c) S.cache

/-- The first waiting frame takes the next device sequence number, enters retention and leaves (R54, R63, R70). -/
def State.sendFirst (s : State) (x : SessId) (w : Waiting) (rest : List Waiting) : State :=
  let S := s.ses x
  let off := match w.key with
    | some (.offer rq priv nonce) => some (s.offer x rq priv nonce S.dseq S.epoch S.port S.link S.mac S.v1)
    | _ => none
  let f : Frame := { hdr := S.stamp x w.hdr S.dseq, payload := match off with | some o => o.ack | none => w.payload }
  let s := s.modSes x fun S => { S with
    waitQ := rest, dseq := S.dseq + 1, retain := S.retain ++ [f]
    rtoAt := if S.retain = [] then s.now else S.rtoAt
    tries := if S.retain = [] then 0 else S.tries
    unset := if w.squall then none
      else if w.pend = [] then S.unset
      else some { dseq := S.dseq, rseq := w.rseq.getD 0, addr := w.addr
                  pending := w.pend.foldl (fun b p => b ||| (1#64 <<< p.1)) 0, failed := 0, tiles := w.pend, count := w.hdr.count } }
  let s := (s.emit x f).modSes x fun S => match w.key with
    | some (.change o) => S.rekey o s.now
    | some (.offer _ _ _) => { S with roll := off }
    | none => S
  let s := match w.lease with
    | some (r, m) => s.modRgn r fun g => if g.held ∧ g.holder = x then { g with expiry := some (s.now + ms m) } else g
    | none => s
  let s := s.retired x w
  if w.marker then
    let s := s.modSes x fun S => { S with cache := busyCached S S.marker, marker := {} }
    s.admCnt (s.home x) 1
  else s

/-- Frames of session `x` that wait are sent while they may be (R63). -/
def State.flushN : Nat → SessId → State → State
  | 0, _, s => s
  | n + 1, x, s =>
    match (s.ses x).waitQ with
    | [] => s
    | w :: rest => if (s.ses x).st = .live ∧ (s.ses x).maySend w = true then State.flushN n x (s.sendFirst x w rest) else s

/-- The same; frames that then wait for room hold no cell (R63). -/
def State.flush (s : State) (x : SessId) : State :=
  let s := State.flushN (s.ses x).waitQ.length x s
  if (s.ses x).unset = none then (s.ses x).waitQ.foldl (fun s w => s.uncell x w.rseq) s else s

/-- Every session's waiting frames. -/
def State.flushAll (s : State) : State := (List.finRange 64).foldl (fun s x => s.flush x) s

/-! ### Occurrences of events (R299 to R306) -/

/-- A frame goes to a session: at once where none waits before it and there is room, after the waiting ones otherwise (R63). -/
def State.sendOrWait (s : State) (x : SessId) (w : Waiting) : State :=
  if (s.ses x).waitQ = [] ∧ (s.ses x).st = .live ∧ (s.ses x).maySend w = true then s.sendFirst x w [] else s.wait x w

/-- EVENT frames of `count` occurrences, to the sessions the route names: a frame that still waits counts them; otherwise a new
one goes at once where it can (R305, R306). -/
def State.eventFrames (s : State) (n : Nat) (sf : BitVec 40) (detail : BitVec 64) (count : Nat := 1) : State :=
  let fr := (Tab.get {} s.evt.route n).frame
  (List.finRange 64).foldl (fun s x =>
    let S := s.ses x
    if S.st = .live ∧ (fr = 2#2 ∨ (fr = 1#2 ∧ S.steward = true)) then
      if S.waitQ.any (fun w => decide (w.src = some n)) then
        s.modSes x fun S => { S with waitQ := S.waitQ.map (Waiting.again n count) }
      else s.sendOrWait x { hdr := eventHdr n, payload := eventRecord n sf count detail, src := some n }
    else s) s

/-- One occurrence of source `n` (R301 to R304, R306): its pending bit, its trouble bit where `bit`, and its EVENT frames, which wait for
the commit of SET; frames that wait so already count it too. While a clear of its entry waits, the fresh SET is committed. -/
def State.occur (s : State) (n : Nat) (detail : BitVec 64) (bit : Bool := true) : State :=
  let s := s.modEvt fun e => { e with pend := if e.pend.contains n then e.pend else n :: e.pend }
  if isFault n && bit then
    let was := (Tab.get {} s.evt.trb n).set
    let s := s.modEvt fun e => e.setTrouble n s.sf (BitVec.ofNat 16 s.ldg.start.toNat)
    let held := s.ldg.waits fun d => match d with | .eventFrames m _ _ _ => decide (m = n) | _ => false
    let clr := s.evt.clearing.any fun c => c.2.1.contains n
    if held then
      let s := s.modLdg fun l => l.mapPosts (Deferred.again n)
      if clr then s.commit (baseTrouble (n / 8)) (s.evt.instBody (n / 8)) [] else s
    else if was && !clr then s.eventFrames n s.sf detail
    else s.commit (baseTrouble (n / 8)) (s.evt.instBody (n / 8)) [.eventFrames n s.sf detail 1]
  else s.eventFrames n s.sf detail

/-- A source happens (R300, R32): before the EVT block is loaded it is kept; a rate-limited source is gathered until the
superframe boundary, its detail replaced by `f` of the one gathered so far. -/
def State.raise (s : State) (n : Nat) (detail : BitVec 64) (bit : Bool := true)
    (f : BitVec 64 → BitVec 64 := fun _ => detail) : State :=
  if isLimited n then
    s.modEvt fun e => { e with limitd := Tab.upd (0, 0) e.limitd n fun (c, d) => (c + 1, f d) }
  else if !s.evt.loaded then s.modEvt fun e => { e with early := e.early ++ [(n, detail, bit)] }
  else s.occur n detail bit

/-- COUNT increases are gathered and committed (R302). -/
def State.gatherCounts (s : State) : State :=
  let js := (s.evt.dirty.map fun n => n / 8).dedup
  let s := s.modEvt fun e => { e with dirty := [] }
  js.foldl (fun s j => s.commit (baseTrouble j) (s.evt.instBody j) []) s

/-! ### Completions -/

/-- A completion of request `seq` of session `x` is put to be sent. -/
def State.respond (s : State) (x : SessId) (seq : Word) (h : Hdr) (payload : List Byte := [])
    (pend : List (Nat × TileId) := []) (addr : BitVec 64 := 0) : State :=
  (s.wait x { hdr := { h with ref := seq }, payload, rseq := some seq, pend, addr }).flush x

/-- An ACK with a status (Table 2.6). -/
def State.ack (s : State) (x : SessId) (rq : Rq) (st : Byte) (flags : Byte := 0) : State :=
  s.respond x rq.hdr.seq { opcode := opAck, status := st, flags, count := rq.hdr.count }

/-- The completion of a request that ends with a status other than OK before any access: DATA for the reads, an
ATOMIC_RESULT for atomics, an ACK otherwise (R52, R53, Table 2.6; log 8). -/
def State.refuse (s : State) (x : SessId) (rq : Rq) (st : Byte) (form : Bool := false) (flags : Byte := 0) :
    State :=
  let op := rq.hdr.opcode
  if form then s.ack x rq st flags
  else if op = opRead ∨ op = opMgmtRead then s.respond x rq.hdr.seq { opcode := opData, status := st, flags, count := rq.hdr.count }
  else if isAtomic op then
    s.respond x rq.hdr.seq { opcode := opResult, status := st, flags, count := rq.hdr.count } (beBytes 8 0)
  else s.ack x rq st flags

/-- The ACK field of a frame from the host (R56): an advance to a number that has been sent releases the retained frames
up to it; any other value is ignored. -/
def State.readAck (s : State) (x : SessId) (a : Word) : State :=
  let S := s.ses x
  let adv := (a - S.acked).toNat
  if 1 ≤ adv ∧ adv ≤ (S.dseq - 1 - S.acked).toNat ∧ adv < 2 ^ 31 then
    (s.modSes x fun S => { S with
      acked := a, tries := 0, rtoAt := s.now
      retain := S.retain.filter fun f => decide (f.hdr.seq ≠ a ∧ precedes f.hdr.seq a = false) }).flush x
  else s

/-- A retained frame is sent again with its SEQ and payload, and the current ACK (R56); one whose word is uncorrectable
cannot be (Table 11.2). -/
def State.resend (s : State) (x : SessId) (f : Frame) : State :=
  let S := s.ses x
  if f.bad then s
  else (s.emit x { f with hdr := { f.hdr with ack := S.e - 1 } }).lcnt S.port S.link 7

end Sys2Proof.Machine
end

