-- ==== Sys2Proof/Machine/Pmc.lean ====
section
/-! DEFINITION. The performance counters and their samples (R308 to R311). -/

namespace Sys2Proof.Machine

/-- Schedule word of channel `c` in slot (f, k) of a tile's current variant (R218, R231). -/
def Sch.wordAt (a : Sch) (f k c : Nat) : Word :=
  Tab.get 0 a.words ((256 * a.var.toNat + (Tab.get 0 a.seqs (1024 * a.var.toNat + f)).toNat) * 512 + k * 8 + c)

/-- PMC_CFG of a counter selects signal `ev` on channel `c` (Table 11.7). -/
def pmcSelects (cfg : Word) (ev : Nat) (c : Option Nat) : Bool :=
  decide (cfg.toNat % 256 = ev) && (match c with
    | none => true
    | some c => let h := cfg.toNat / 256 % 16; decide (h = c ∨ 8 ≤ h))

/-- PMC_CFG.MODE: LEVEL, EN, SAMPLE. -/
def pmcLevel (cfg : Word) : Bool := cfg.getLsbD 12
def pmcEn (cfg : Word) : Bool := cfg.getLsbD 13
def pmcSample (cfg : Word) : Bool := cfg.getLsbD 14

/-- The marks of the current core cycle; those of an earlier one are dropped. -/
def Pmc.inCycle (p : Pmc) (now : Nat) : Pmc := if p.cyc = now then p else { p with cyc := now, lev := [], fresh := 0 }

/-- A record goes into the sample buffer: those of one cycle in counter order, and one that finds the buffer full is dropped (R311). -/
def Pmc.keep (p : Pmc) (r : Sample) : Pmc :=
  let k := p.recs.length - min p.fresh p.recs.length
  let l := p.recs.take k ++ insertBy (fun a b => decide (a.counter.val < b.counter.val)) r (p.recs.drop k)
  { p with recs := l.take 64, fresh := p.fresh + 1, dropped := if 64 < l.length then min (p.dropped + 1) 65535 else p.dropped }

/-- A sample of counter `i` (R311): the word recorded is that of the occurrence or one of the next four, a free choice (log 1). Whether a
word of the next slot will carry a grant is not known yet, and is a free value. -/
def State.sample (s : State) (t : TileId) (i : Fin 64) (c : Option Nat) : State :=
  let (d, s) := s.draw 8
  let (g, s) := s.draw 7
  let a := (s.tile t).sch
  let w0 := (64 * a.f + a.k) * 8 + c.getD 0
  let w := (w0 + d.toNat % 5) % 524288
  let sf := if w0 + d.toNat % 5 < 524288 then s.sf else s.sf + 1
  let next := if g.getLsbD 6 then some (g.toNat % 64) else none
  let r : Sample :=
    { sf, w := BitVec.ofNat 19 w, counter := i, cls := BitVec.ofNat 3 (wClass (a.wordAt (w / 512) (w / 8 % 64) (w % 8)))
      gale := a.gale, grant := if w / 8 = w0 / 8 then Tab.get none a.grants (w % 8) else next }
  s.modPmc t fun p => (p.inCycle s.now).keep r

/-- Counter `i` is `n` higher, with its overflow bit (R309). -/
def Pmc.add (p : Pmc) (i : Fin 64) (n : Nat) : Pmc :=
  let new := (Tab.get 0 p.cnt i.val).toNat + n
  { p with
    cnt := Tab.put 0 p.cnt i.val (BitVec.ofNat 48 new)
    ovf := if 2 ^ 48 ≤ new then p.ovf ||| (1#64 <<< i.val) else p.ovf }

/-- How often a counter that rises by `n` reaches a multiple of PERIOD, where it samples (R311). -/
def Pmc.samples (p : Pmc) (i : Fin 64) (n : Nat) : Nat :=
  let old := (Tab.get 0 p.cnt i.val).toNat
  if p.period ≠ 0 ∧ pmcSample (Tab.get 0 p.cfg i.val) = true then (old + n) / p.period.toNat - old / p.period.toNat else 0

/-- So many samples: what cannot find room in the buffer is only counted. -/
def State.sampleN (s : State) (t : TileId) (i : Fin 64) (c : Option Nat) (n : Nat) : State :=
  if n = 0 then s
  else ((List.range (min n 64)).foldl (fun s _ => s.sample t i c) s).modPmc t fun p => { p with dropped := min (p.dropped + (n - 64)) 65535 }

/-- Counter `i` advances by `n` (R309, R311). -/
def State.pmcAdvance (s : State) (t : TileId) (i : Fin 64) (n : Nat) (c : Option Nat) : State :=
  let p := (s.tile t).pmc
  let wraps := decide (2 ^ 48 ≤ (Tab.get 0 p.cnt i.val).toNat + n)
  let s := s.modPmc t fun p => p.add i n
  let s := if wraps then s.raise (tsrc t 25) (1#64 <<< i.val) else s
  s.sampleN t i c (p.samples i n)

/-- Counters that run (R308). -/
def State.pmcRuns (s : State) (t : TileId) (i : Fin 64) : Bool :=
  (s.tile t).pmc.run && pmcEn (Tab.get 0 (s.tile t).pmc.cfg i.val)

/-- `n` occurrences of signal `ev` on channel `c` in the current core cycle, in counter order; at LEVEL a counter adds 1 for the cycle
(R308, R311). -/
def State.pmc (s : State) (t : TileId) (ev : Nat) (c : Option Nat := none) (n : Nat := 1) : State :=
  if (s.tile t).pmc.run = false ∨ n = 0 then s
  else
    let s := s.modPmc t fun p => p.inCycle s.now
    (List.finRange 64).foldl (fun s i =>
      let cfg := Tab.get 0 (s.tile t).pmc.cfg i.val
      if s.pmcRuns t i && pmcSelects cfg ev c then
        if pmcLevel cfg then
          if (s.tile t).pmc.lev.contains i then s
          else (s.modPmc t fun p => { p with lev := i :: p.lev }).pmcAdvance t i 1 c
        else s.pmcAdvance t i n c
      else s) s

/-- The channel of an occurrence that a counter is known to have counted: the one that its CHAN names; a free value where that is any
(R308, R311; log 167). -/
def State.pmcChan (s : State) (t : TileId) (i : Fin 64) : Option Nat × State :=
  let cfg := Tab.get 0 (s.tile t).pmc.cfg i.val
  let h := cfg.toNat / 256 % 16
  if 3 ≤ cfg.toNat % 256 ∧ cfg.toNat % 256 ≤ 9 then
    if h < 8 then (some h, s)
    else
      let (d, s) := s.draw 3
      (some d.toNat, s)
  else (none, s)

/-- One occurrence of a counter's signal (R309, R311). -/
def State.pmcOnce (s : State) (t : TileId) (i : Fin 64) : State :=
  let (c, s) := s.pmcChan t i
  s.pmcAdvance t i 1 c

/-- The signals of Table 11.7 that are levels: core cycle, becalmed, gale, staging low. -/
def State.pmcLevels (s : State) (t : TileId) : List Nat :=
  let T := s.tile t
  [0x00] ++ (if T.adm.becalmed = [] then [] else [0x0D]) ++ (if T.sch.gale then [0x0E] else []) ++
    (if T.adm.stFree < 98304 then [0x11] else [])

/-- A tile's counters count: RUN is set, and the core's clock runs (R308, R345). -/
def State.pmcOn (s : State) (t : TileId) : Bool := (s.tile t).pmc.run && s.coreOn t && !s.clk.refHold

/-- One core cycle of a tile's counters, with the overflows that are to be reported. -/
def State.pmcCycle (s : State) (t : TileId) : State :=
  let due := (s.tile t).pmc.due
  let s := if due = 0 then s else
    (List.finRange 64).foldl (fun s i => if due.getLsbD i.val then s.raise (tsrc t 25) (1#64 <<< i.val) else s) (s.modPmc t fun p => { p with due := 0 })
  if s.pmcOn t then (s.pmcLevels t).foldl (fun s e => s.pmc t e) s else s

/-- `k` core cycles of a tile's counters in which the levels stand as they are; an overflow is reported with the next cycle (log 12). -/
def State.pmcSpan (s : State) (k : Nat) (t : TileId) : State :=
  let l := s.pmcLevels t
  if k = 0 ∨ s.pmcOn t = false then s
  else (List.finRange 64).foldl (fun s i =>
    let p := (s.tile t).pmc
    if s.pmcRuns t i && l.contains ((Tab.get 0 p.cfg i.val).toNat % 256) then
      let wraps := decide (2 ^ 48 ≤ (Tab.get 0 p.cnt i.val).toNat + k)
      let s := s.modPmc t fun p => { p.add i k with due := if wraps then p.due ||| (1#64 <<< i.val) else p.due }
      s.sampleN t i none (p.samples i k)
    else s) s

/-- A command that stands for the passing of a stated time moves the time to at least its due moment (log 12); the performance counters
see the core cycles that pass (R308). -/
def State.till (s : State) (n : Nat) : State :=
  let u := s.fitted.foldl (State.pmcSpan · (n - s.now)) s
  { s with now := max s.now n, tiles := u.tiles, free := u.free }

end Sys2Proof.Machine
end

