-- ==== Sys2Proof/Machine/Protect.lean ====
section
/-! DEFINITION. Encryption and tagging of stored lines, counter groups and keys (R265, R270 to R277), and codeword payloads
(Table 0.2, R192). -/

namespace Sys2Proof.Machine

/-- Tract slot of the counter block of a tile-local line (R265, R275), and the line's number in its group. -/
def slotOf (compact : Bool) (line : Nat) : Nat := if compact then line / 128 * 2 else line / 64
def lineIn (compact : Bool) (line : Nat) : Nat := if compact then line % 128 else line % 64

/-- The region of a tile-local line. -/
def State.rgnOfLine (s : State) (t : TileId) (line : Nat) : Option RegionId := s.regionOf (s.part.daOf t (line * 64))
/-- Whether a line lies in a COMPACT region. -/
def State.compactAt (s : State) (t : TileId) (line : Nat) : Bool :=
  match s.rgnOfLine t line with | some r => (s.rgn r).compact | none => false
def State.slotAt (s : State) (t : TileId) (line : Nat) : Nat := slotOf (s.compactAt t line) line

/-- The lines of the counter group at a slot. -/
def groupLines (compact : Bool) (slot : Nat) : List Nat :=
  (List.range (if compact then 128 else 64)).map fun i => slot * 64 + i

/-- The counter groups of a region on one tile (R24, R265). -/
def Region.groups (g : Region) (p : PartNo) : Nat := g.size.toNat * gib / p.tiles / 4096 / (if g.compact then 2 else 1)
/-- The tract slot of the first group of a region on one tile. -/
def Region.firstSlot (g : Region) (p : PartNo) : Nat := g.base.toNat * gib / p.tiles / 4096

/-- The last minor of a group, and the last major of a compact one (R279, R282). -/
def lastMinor (compact : Bool) : Nat := if compact then 7 else 127

/-- Data key and tag key of slot `k` of region `r` (R270). -/
def dataKey (secret : BitVec 256) (r : RegionId) (k : Bool) : BitVec 256 :=
  hkdfExpand secret (ascii "GX-DATA" ++ [BitVec.ofNat 8 r.val, if k then 1 else 0]) 32
def tagKey (secret : BitVec 256) (r : RegionId) (k : Bool) : BitVec 256 :=
  hkdfExpand secret (ascii "GX-TAG" ++ [BitVec.ofNat 8 r.val, if k then 1 else 0]) 32

/-- The secret of a slot of a region; 0 stands for an absent one, which no line is packed under. -/
def Region.secret (g : Region) (k : Bool) : BitVec 256 := ((if k then g.slot1 else g.slot0).getD 0)

/-- The keystream of a line (R272). -/
def keystream (key : BitVec 256) (da : Nat) (major : BitVec 56) (minor : Nat) : Line :=
  lineOf ((List.range 4).flatMap fun j =>
    beBytes 16 (aes256 key (BitVec.ofNat 128
      (((da / 64) <<< 80) + (major.toNat <<< 24) + ((minor % 256) <<< 16) + j))).toNat)

/-- The 64-bit tag of a ciphertext line (R272). -/
def lineTag (key : BitVec 256) (da : Nat) (major : BitVec 56) (minor : Nat) (c : Line) : BitVec 64 :=
  (cmacAes256 key (beBytes 6 (da / 64) ++ beBytes 7 major.toNat ++ beBytes 1 minor ++ lineBytes c)).extractLsb' 64 64

/-- The counter block of a line's group. -/
def State.ctrAt (s : State) (t : TileId) (line : Nat) : Ctr := Tab.get {} (s.tile t).sec.ctrs (s.slotAt t line)

/-- A line encrypted, and its tag, under given counters and key slot (R272). -/
def State.sealWith (s : State) (t : TileId) (line : Nat) (p : Line) (major : BitVec 56) (minor : Nat) (k : Bool) :
    Line × BitVec 64 :=
  let da := s.part.daOf t (line * 64)
  match s.rgnOfLine t line with
  | none => (p, 0)
  | some r =>
    let x := p ^^^ keystream (dataKey ((s.rgn r).secret k) r k) da major minor
    (x, lineTag (tagKey ((s.rgn r).secret k) r k) da major minor x)

/-- A line encrypted, and its tag, under its group's current counter and the slot the group's EPOCH names (R272, R283). -/
def State.sealLine (s : State) (t : TileId) (line : Nat) (p : Line) : Line × BitVec 64 :=
  let c := s.ctrAt t line
  s.sealWith t line p c.major (Tab.get 0 c.minor (lineIn (s.compactAt t line) line)) c.epoch

/-- What the version of a line on the medium was packed under: key slot, major, minor. It is its group's counter, but where a pack that has
yet to take effect has advanced that. -/
def State.keyOf (s : State) (t : TileId) (line : Nat) : Bool × BitVec 56 × Nat :=
  match Tab.find (s.tile t).adm.staged line with
  | some { prev := some k, .. } => k
  | _ =>
    let c := s.ctrAt t line
    (c.epoch, c.major, Tab.get 0 c.minor (lineIn (s.compactAt t line) line))

/-- A ciphertext line decrypted under given key slot and counters (R272), and under the requesting line's own (R169). -/
def State.openUnder (s : State) (t : TileId) (line : Nat) (x : Line) (k : Bool × BitVec 56 × Nat) : Line :=
  match s.rgnOfLine t line with
  | none => x
  | some r => x ^^^ keystream (dataKey ((s.rgn r).secret k.1) r k.1) (s.part.daOf t (line * 64)) k.2.1 k.2.2
def State.openLine (s : State) (t : TileId) (line : Nat) (x : Line) : Line := s.openUnder t line x (s.keyOf t line)

/-- A ciphertext line has the tag it must have under given counters and key slot; a line of no region has none to match (R272). -/
def State.tagUnder (s : State) (t : TileId) (line : Nat) (x : Line) (tag : BitVec 64) (k : Bool × BitVec 56 × Nat) : Bool :=
  match s.rgnOfLine t line with
  | none => true
  | some r => decide (lineTag (tagKey ((s.rgn r).secret k.1) r k.1) (s.part.daOf t (line * 64)) k.2.1 k.2.2 x = tag)

/-- The same under the line's own counter and slot (R285). -/
def State.tagHolds (s : State) (t : TileId) (line : Nat) (x : Line) (tag : BitVec 64) : Bool :=
  s.tagUnder t line x tag (s.keyOf t line)

/-- A codeword payload of 288 bytes: four lines, then their tags (Table 0.2, R192). -/
def payloadOf (l : List (Line × BitVec 64)) : BitVec 2304 :=
  (List.range 4).foldl (fun p i =>
    let e := l.getD i (0, 0)
    p ||| (e.1.setWidth 2304 <<< (512 * i)) ||| (e.2.setWidth 2304 <<< (2048 + 64 * i))) 0
def payloadLine (p : BitVec 2304) (i : Nat) : Line := p.extractLsb' (512 * i) 512
def payloadTag (p : BitVec 2304) (i : Nat) : BitVec 64 := p.extractLsb' (2048 + 64 * i) 64

/-! ### Counter objects (R274 to R277) -/

/-- Objects of a level of a tile's tree (Table 10.5). -/
def treeObjects : Nat → Nat
  | 0 => 671088640
  | 9 => 5
  | l => 671088640 / 8 ^ l

/-- Key of the object `i` of level `l`, and what it is made of. -/
def treeKey (l i : Nat) : Nat := l * 2 ^ 30 + i
def keyLevel (key : Nat) : Nat := key / 2 ^ 30
def keyIndex (key : Nat) : Nat := key % 2 ^ 30

/-- The first counter page of a level; pages hold 64 objects and are numbered from 2,097,152 upward, level by level (R278;
log 18). -/
def levelBase : Nat → Nat
  | 0 => 2097152
  | l + 1 => levelBase l + (treeObjects l + 63) / 64

/-- The level of a counter page. -/
def pageLevel (page : Nat) : Nat := (List.range 9).foldl (fun l i => if levelBase (i + 1) ≤ page then i + 1 else l) 0

/-- The counter page of an object, and its place in the page; the key of place `k` of a counter page. -/
def objectPage (key : Nat) : Nat := levelBase (keyLevel key) + keyIndex key / 64
def pageObject (page k : Nat) : Nat := treeKey (pageLevel page) ((page - levelBase (pageLevel page)) * 64 + k)

/-- The pages of the counter directory: 512 entries each, numbered from 2^29 upward. Their numbers are the model's (R278; logs 18 and
126). -/
def ctrDirBase : Nat := 2 ^ 29
def ctrDirOf (page : Nat) : Nat := ctrDirBase + (page - 2097152) / 512

/-- A counter block (Tables 10.3 and 10.4). -/
def Ctr.bits (c : Ctr) (compact : Bool) : BitVec 512 :=
  BitVec.ofNat 512 (if compact then
      c.major.toNat % 2 ^ 32 + ((c.minor.filter fun e => decide (e.1 < 128)).map fun e => (e.2 % 8) <<< (32 + 3 * e.1)).sum + bit 416 c.epoch
    else
      c.major.toNat + ((c.minor.filter fun e => decide (e.1 < 64)).map fun e => (e.2 % 128) <<< (56 + 7 * e.1)).sum + bit 504 c.epoch)

/-- The counters a block holds. -/
def Ctr.ofBits (b : BitVec 512) (compact : Bool) : Ctr :=
  if compact then
    { major := b.extractLsb' 0 32 |>.setWidth 56, epoch := b.getLsbD 416
      minor := (List.range 128).foldl (fun (m : Tab Nat) i => Tab.put 0 m i (b.extractLsb' (32 + 3 * i) 3).toNat) [] }
  else
    { major := b.extractLsb' 0 56, epoch := b.getLsbD 504
      minor := (List.range 64).foldl (fun (m : Tab Nat) i => Tab.put 0 m i (b.extractLsb' (56 + 7 * i) 7).toNat) [] }

/-- The secret of the device tree, and the keys a tile derives from it (R271). -/
def State.treeSecret (s : State) : BitVec 256 := match s.ldg.ident with | some (_, _, k) => k | none => 0
def State.nodeKey (s : State) (t : TileId) : BitVec 256 := hkdfExpand s.treeSecret (ascii "GX-TREE" ++ [BitVec.ofNat 8 t.val]) 32
def State.cairnKey (s : State) (t : TileId) : BitVec 256 := hkdfExpand s.treeSecret (ascii "GX-CAIRN" ++ [BitVec.ofNat 8 t.val]) 32

/-- The keystream of a staging line in the cairn: AES-256 in counter mode under K_C(t), the drain's sequence number as nonce (R271). The
counter block is nonce, line and block number (log 142). -/
def cairnStream (key : BitVec 256) (nonce : Word) (line : Nat) : Line :=
  lineOf ((List.range 4).flatMap fun j =>
    beBytes 16 (aes256 key (BitVec.ofNat 128 ((nonce.toNat <<< 96) + (line <<< 8) + j))).toNat)

/-- The root: the bitwise majority of its three copies (R277). -/
def Sec.rootAt (a : Sec) (i : Nat) : BitVec 56 :=
  let x := a.root.getD i 0
  let y := a.rootB.getD i 0
  let z := a.rootC.getD i 0
  (x &&& y) ||| (y &&& z) ||| (x &&& z)
def Sec.rootVal (a : Sec) : List (BitVec 56) := (List.range 5).map a.rootAt
def Sec.setRoot (a : Sec) (l : List (BitVec 56)) : Sec := { a with root := l, rootB := l, rootC := l }
/-- No two copies of the root agree (Table 10.8). -/
def Sec.rootSplit (a : Sec) : Bool := decide (a.root ≠ a.rootB ∧ a.rootB ≠ a.rootC ∧ a.root ≠ a.rootC)

/-- An object as the tile holds it: a counter block, or the 448 bits of a node's counters (R275, R276). -/
def State.objBits (s : State) (t : TileId) (key : Nat) : BitVec 512 :=
  let a := (s.tile t).sec
  let i := keyIndex key
  if keyLevel key = 0 then (Tab.get {} a.ctrs i).bits (s.compactAt t (i * 64))
  else BitVec.ofNat 512 ((List.range 8).map fun j => (Tab.get 0 a.versions (treeKey (keyLevel key - 1) (8 * i + j)) % 2 ^ 56) <<< (56 * j)).sum

/-- P: the parent's counter for an object. -/
def State.parentCtr (s : State) (t : TileId) (key : Nat) : Nat :=
  if keyLevel key = 9 then ((s.tile t).sec.rootAt (keyIndex key)).toNat else Tab.get 0 (s.tile t).sec.versions key

/-- The MAC of an object under P (R276). The strings are big-endian, as those of R272 are (log 124). -/
def State.objMac (s : State) (t : TileId) (key p : Nat) (b : BitVec 512) : BitVec 64 :=
  let l := keyLevel key
  (cmacAes256 (s.nodeKey t) ([BitVec.ofNat 8 l] ++ beBytes 5 (keyIndex key) ++ beBytes 7 p ++
    (if l = 0 then beBytes 64 b.toNat else beBytes 56 (b.toNat % 2 ^ 448)))).extractLsb' 64 64

/-- An object as it lies on the medium: its 64 bytes and, for a counter block, its MAC in the tag field (R276). -/
def State.objStored (s : State) (t : TileId) (key : Nat) : Line × BitVec 64 :=
  let b := s.objBits t key
  let m := s.objMac t key (s.parentCtr t key) b
  if keyLevel key = 0 then (b, m) else (b ||| (m.setWidth 512 <<< 448), 0)

/-- A clean object that is not pinned may leave the cache (R277). -/
def Sec.spare (a : Sec) : Option Nat :=
  (a.cached.find? fun e => decide (e.2 = some false ∧ keyLevel e.1 < 7)).map fun e => e.1

/-- An object enters the counter/tree cache, or becomes dirty in it; a full cache gives up a clean object of a level that
is not pinned, the first of them (R277; log 9); where there is none, the object does not enter. -/
def Sec.hold (a : Sec) (key : Nat) (dirty : Bool) : Sec :=
  if (Tab.get none a.cached key).isSome ∨ a.cached.length < 262144 then { a with cached := Tab.put none a.cached key (some dirty) }
  else match a.spare with
    | some q => { a with cached := Tab.put none (Tab.del q a.cached) key (some dirty) }
    | none => a

/-- A verified object enters the cache as it is. -/
def Sec.enter (a : Sec) (key : Nat) : Sec := if (Tab.get none a.cached key).isSome then a else a.hold key false

/-- The pinned levels, verified as a tile recovers (R277, R292). -/
def Sec.pin (a : Sec) : Sec :=
  [7, 8, 9].foldl (fun a l => (List.range (treeObjects l)).foldl (fun (a : Sec) i => a.enter (treeKey l i)) a) a

/-- Dirty objects leave room for the ancestors that their write-back makes dirty (log 125). -/
def Sec.room (a : Sec) : Bool := decide ((a.cached.filter fun e => decide (e.2 = some true)).length < 262144 - 1024)

/-- The next counter of a line at a pack into a log page or a direct image: its minor rises by 1; a group with no line on
the medium under the current slot takes that slot and MAJOR 0 (R273, R283). -/
def State.nextCtr (s : State) (t : TileId) (line : Nat) : Ctr × Nat :=
  let cur := match s.rgnOfLine t line with | some r => (s.rgn r).cur | none => false
  let c := s.ctrAt t line
  let c : Ctr := if c.epoch = cur then c else { major := 0, minor := [], epoch := cur }
  let comp := s.compactAt t line
  (c, min (Tab.get 0 c.minor (lineIn comp line) + 1) (lastMinor comp))

/-- A pack advances the counter of a line; at its last minor the group becomes ripe (R273, R279). -/
def State.bumpMinor (s : State) (t : TileId) (line : Nat) : State :=
  let comp := s.compactAt t line
  let slot := slotOf comp line
  let (c, m) := s.nextCtr t line
  s.modSec t fun a =>
    let a := a.hold slot true
    { a with
      ctrs := Tab.put {} a.ctrs slot { c with minor := Tab.put 0 c.minor (lineIn comp line) m }
      ripe := if m = lastMinor comp ∧ ¬ a.ripe.contains slot then a.ripe ++ [slot] else a.ripe }

/-- A group with a stale EPOCH and a line on the medium counts as ripe while a pass runs (R279). -/
def State.onMedium (s : State) (t : TileId) (line : Nat) : Bool :=
  match Tab.get none (s.tile t).xlt.ovl line with
  | some (some _) => true
  | some none => false
  | none => (Tab.get {} (s.tile t).xlt.te (line / 64)).image

/-- A line of a group is on the medium, or its frame is on its way there: packed under the slot that the group's EPOCH names (R283). -/
def State.groupWritten (s : State) (t : TileId) (compact : Bool) (slot : Nat) : Bool :=
  (groupLines compact slot).any fun l => s.onMedium t l ||
    match Tab.find (s.tile t).adm.staged l with | some f => f.packing || decide (0 < f.older) | none => false

def State.groupRipe (s : State) (t : TileId) (line : Nat) : Bool :=
  let slot := s.slotAt t line
  (s.tile t).sec.ripe.contains slot ||
  match s.rgnOfLine t line with
  | none => false
  | some r => (s.rgn r).pass && decide ((s.ctrAt t line).epoch ≠ (s.rgn r).cur) &&
      s.groupWritten t (s.compactAt t line) slot

/-- A line in a live lost range (R289). -/
def LostR.width (l : LostR) : Nat := if l.level = 10 then 671088640 else 8 ^ l.level.toNat
def LostR.covers (l : LostR) (slot : Nat) : Bool := decide (l.first.toNat ≤ slot ∧ slot < l.first.toNat + l.width)
/-- The ranges of an entry that are in effect (R290). -/
def LostR.inEffect (l : LostR) : List (Nat × Nat) := if l.live then [(l.first.toNat, l.width)] else l.was
def State.lostAt (s : State) (t : TileId) (line : Nat) : Bool :=
  (s.tile t).sec.lost.any fun e => match e.2 with
    | some l => l.inEffect.any fun w => decide (w.1 ≤ s.slotAt t line ∧ s.slotAt t line < w.1 + w.2)
    | none => false

end Sys2Proof.Machine
end

