-- ==== Sys2Proof/Machine/Serve.lean ====
section
/-! DEFINITION. How an armed part's lines are served on the owning tile (chapters 5 and 6): hazards and merges (R101, R135),
lookup (R162), codeword reads and their links (R96, R142), tokens (R165 to R167), delivery and the part's completion. -/

namespace Sys2Proof.Machine

/-- A cell of tile `t`. -/
def State.cell? (s : State) (t : TileId) (id : Nat) : Option Cell := Tab.find (s.tile t).adm.cells id
def State.modCell (s : State) (t : TileId) (id : Nat) (f : Cell → Cell) : State :=
  s.modAdm t fun a => match Tab.find a.cells id with
    | some c => { a with cells := Tab.ins id (f c) a.cells }
    | none => a

/-- The queue of session `x` on tile `t`, oldest cell first. -/
def State.queue (s : State) (t : TileId) (x : SessId) : List Nat := Tab.get [] (s.tile t).adm.queues x.val

/-- The tile-local line of index `i` of a cell's part. -/
def Cell.line (c : Cell) (i : Nat) : Nat := c.tla.toNat / 64 + i
/-- The index in a cell of a tile-local line, if its part has it. -/
def Cell.ix? (c : Cell) (line : Nat) : Option Nat :=
  let i := line - c.tla.toNat / 64
  if c.tla.toNat / 64 ≤ line ∧ i < c.n then some i else none

/-- Whether line `i` of a part is still to be served. -/
def Cell.phaseAt (c : Cell) (i : Nat) : Phase := Tab.get .served c.phase i

/-- R101: an older part of the session in the queue shares the line, and is CLAIMED or is a read-modify-write not executed. DESIGN CHOICE
(log 159): of an older WRITE_PARTIAL of several lines the part waits for the shared line alone. -/
def State.hazard (s : State) (t : TileId) (id : Nat) (c : Cell) (line : Nat) : Bool :=
  ((s.queue t c.sess).takeWhile fun q => decide (q ≠ id)).any fun q =>
    match s.cell? t q with
    | none => false
    | some o => match o.ix? line with
      | none => false
      | some i => decide (o.st = .claimed) || (isRmw o.op && decide (o.phaseAt i ≠ .served))

/-- A part waits as a whole while any of its lines does (R101). -/
def State.partWaits (s : State) (t : TileId) (id : Nat) (c : Cell) : Bool := (List.range c.n).any fun i => s.hazard t id c (c.line i)

/-- R135: the line is being merged by another part. -/
def State.mergingBy (s : State) (t : TileId) (line : Nat) : Option (Nat × Nat) :=
  Tab.get none (s.tile t).adm.merging line

/-! ### Map cache and tokens -/

/-- Whether the map page of a tract is cached; a cached page is marked referenced (R163). -/
def State.cachedPage (s : State) (t : TileId) (page : Nat) : Bool := (s.tile t).xlt.cache.any fun e => decide (e.1 = page)
def State.touchPage (s : State) (t : TileId) (page : Nat) : State :=
  s.modXlt t fun a => { a with cache := a.cache.map fun e => if e.1 = page then (page, { e.2 with ref := true }) else e }

def State.teAt (s : State) (t : TileId) (tract : Nat) : Te := Tab.get {} (s.tile t).xlt.te tract
def State.dirAt (s : State) (t : TileId) (page : Nat) : Dir := Tab.get {} (s.tile t).xlt.dir page

/-- A token over a codeword address under the page's current GEN (R165). -/
def State.mkToken (s : State) (t : TileId) (line : Nat) (cwa : BitVec 34) : BitVec 64 :=
  let gen := (s.dirAt t (line / 64 / 512)).gen
  BitVec.ofNat 64 ((cwa.toNat <<< 30) + ((gen.toNat % 16384) <<< 16) +
    (Config.tokenMac (s.tile t).xlt.tokenKey t.val (line / 4 * 256) cwa gen).toNat)

/-- A blank token (R166). -/
def State.blankToken (s : State) (t : TileId) (line : Nat) : BitVec 64 :=
  BitVec.ofNat 64 ((0x3FFFFFFFF <<< 30) +
    (Config.tokenMac (s.tile t).xlt.tokenKey t.val (line / 4 * 256) (BitVec.allOnes 34) 0).toNat)

/-- The codeword of a line's group in its tract image. -/
def Te.cwa (e : Te) (line : Nat) : BitVec 34 := cwAddr e.loc (line / 4)

/-- What a presented token shows (Table 6.6): none or blank, stale, absent, or an image codeword. -/
inductive TokenSays where | nothing | stale | absent | image (cwa : BitVec 34)
  deriving DecidableEq, Repr

def State.readToken (s : State) (t : TileId) (line : Nat) (tok : BitVec 64) : TokenSays :=
  let cwa : BitVec 34 := tok.extractLsb' 30 34
  let gen := s.dirAt t (line / 64 / 512) |>.gen
  if tok = 0 ∨ tok = s.blankToken t line then .nothing
  else if tok ≠ s.mkToken t line cwa ∨ gen.toNat % 16384 ≠ (tok.extractLsb' 16 14).toNat then .stale
  else if cwa = BitVec.allOnes 34 then .absent
  else .image cwa

/-- The token a DATA carries for a group read from the medium (R166): by the TE if it is known, else the presented token `tok`
where it has shown the TE (log 96), else blank. -/
def State.tokenFor (s : State) (t : TileId) (line : Nat) (tok : BitVec 64) : BitVec 64 :=
  if s.cachedPage t (line / 64 / 512) then
    let e := s.teAt t (line / 64)
    s.mkToken t line (if e.image then e.cwa line else BitVec.allOnes 34)
  else match s.readToken t line tok with
    | .image _ | .absent => tok
    | _ => s.blankToken t line

/-! ### Codeword reads -/

/-- A die of tile `t`. -/
def State.die (s : State) (t : TileId) (c d : Nat) : Die := Tab.get {} (s.tile t).med.dies (8 * c + d)
def State.modDie (s : State) (t : TileId) (c d : Nat) (f : Die → Die) : State :=
  s.modMed t fun a => { a with dies := Tab.upd {} a.dies (8 * c + d) f }

/-- Channels of a die index whose die is lost (R200). -/
def State.lostChans (s : State) (t : TileId) (d : Nat) : List Nat := (List.range 8).filter fun c => (s.die t c d).recs.lost

/-- The first cairn slab of every die: the cairn's 32 strata are four of each die index, so that a drain programs on all 64 dies (R187,
Table 12.7; log 14). -/
def cairnSlab : Nat := 65531
/-- Reserved strata of a die index: four of the cairn; at die index 7 the anchor too, and the 7,022 of the counter store, whose place the
spec does not give (R157, R179, R187; log 14). -/
def reservedStrata (d : Nat) : Nat := 4 + if d = 7 then 1 + 7022 else 0
/-- The table's entry of a stratum that has not been used. -/
def Stratum.first (n : Nat) : Stratum :=
  if n = 524287 then { stream := .anchor, st := .reserved }
  else if cairnSlab ≤ n % 65536 ∧ n % 65536 < cairnSlab + 4 then { stream := .cairn, st := .reserved }
  else if 524288 - reservedStrata 7 ≤ n then { stream := .counters, st := .reserved }
  else {}

/-- A stratum's entry (R179). A FREE one of a die index with two lost members is withdrawn (R202). -/
def State.stratum (s : State) (t : TileId) (n : Nat) : Stratum :=
  let g := (Tab.find (s.tile t).xlt.strata n).getD (Stratum.first n)
  if g.st = .free ∧ 2 ≤ (s.lostChans t (n / 65536)).length then { g with st := .withdrawn } else g
def State.modStratum (s : State) (t : TileId) (n : Nat) (f : Stratum → Stratum) : State :=
  s.modXlt t fun a => { a with strata := Tab.put {} a.strata n (f (s.stratum t n)) }

/-- Strata in FREE (XLT_STRATA.FREE). -/
def State.freeStrata (s : State) (t : TileId) : Nat :=
  ((List.range 8).map fun d =>
    if 2 ≤ (s.lostChans t d).length then 0
    else 65536 - ((s.tile t).xlt.strata.filter fun e => decide (e.1 / 65536 = d ∧ e.2.st ≠ .free)).length - reservedStrata d).sum

/-- The threshold set of a first read (R209, R215). -/
def State.bucketOf (s : State) (t : TileId) (cwa : BitVec 34) : Nat :=
  let g := s.stratum t (cwaStratum cwa)
  if g.uncertain then 15 else g.bucket.toNat

/-- A codeword read is set up under the next number. -/
def State.newFetch (s : State) (t : TileId) (f : Fetch) : State :=
  s.modSch t fun a => { a with fetches := Tab.put none a.fetches a.fid (some f), fid := a.fid + 1 }

def State.fetch? (s : State) (t : TileId) (id : Nat) : Option Fetch := Tab.get none (s.tile t).sch.fetches id
def State.setFetch (s : State) (t : TileId) (id : Nat) (f : Option Fetch) : State :=
  s.modSch t fun a => { a with fetches := Tab.put none a.fetches id f }

/-- The die of a codeword is lost (R146): it goes straight to rebuild. -/
def State.dieLost (s : State) (t : TileId) (cwa : BitVec 34) : Bool :=
  (s.die t (cwaChan cwa).val (cwaDie cwa).val).recs.lost

/-- The other seven codewords of a codeword's parity group (R193). -/
def siblings (cwa : BitVec 34) : List (BitVec 34) :=
  ((List.range 8).filter fun c => decide (c ≠ (cwaChan cwa).val)).map fun c =>
    BitVec.ofNat 34 (cwa.toNat - ((cwaChan cwa).val <<< 12) + (c <<< 12))

/-- Reads for a part, a map page or a counter block are foreground work (R145, Table 8.4). -/
def Owner.granted : Owner → Bool
  | .part _ => true
  | .mapPage _ => true
  | .counter _ => true
  | _ => false

/-- Seven rebuild reads are linked for read `id` (R146, R193). A lost member elsewhere makes the rebuild fail. -/
def State.startRebuild (s : State) (t : TileId) (id : Nat) (f : Fetch) : State :=
  let sib := siblings f.cwa
  let narrow := (s.stratum t (cwaStratum f.cwa)).narrow
  let live := sib.filter fun a => decide (narrow ≠ some (cwaChan a))
  let bad := live.any (s.dieLost t)
  let s := s.setFetch t id (some { f with flying := false, stage := .rebuild (if bad then 0 else live.length) 0 bad, ahead := false })
  if bad then s
  else live.foldl (fun s a =>
    s.newFetch t { cwa := a, owner := .child id, since := s.now, ahead := f.owner.granted, bucket := s.bucketOf t a }) s

/-- A fetch that no ready list holds waits for a die slot of its die (Table 8.4); on a lost die it is rebuilt (R146). -/
def State.bgFetch (s : State) (t : TileId) (cwa : BitVec 34) (o : Owner) : State :=
  let fid := (s.tile t).sch.fid
  let f : Fetch := { cwa, owner := o, since := s.now, bucket := s.bucketOf t cwa }
  let s := s.newFetch t f
  if s.dieLost t cwa then s.startRebuild t fid f else s

/-- A fetch of a map page, or of a page of the counter directory, whole, for every part that misses on it (R163, R278). -/
def State.fetchPage (s : State) (t : TileId) (page : Nat) : State :=
  if (s.tile t).xlt.fetching.contains page then s
  else
    let s := s.modXlt t fun a => { a with fetching := page :: a.fetching }
    let s := (s.xltCnt t 1).pmc t 0x0A
    (List.range 16).foldl (fun s j => s.bgFetch t (cwAddr (s.dirAt t page).loc j) (.mapPage page)) s

/-- The counter page of a slot's block (R278). -/
def ctrPage (slot : Nat) : Nat := objectPage (treeKey 0 slot)

/-- The counter directory tells whether a counter page has been written: its page there is cached, or has never been written. -/
def State.ctrDirKnown (s : State) (t : TileId) (page : Nat) : Bool :=
  s.cachedPage t (ctrDirOf page) || (s.dirAt t (ctrDirOf page)).isEmpty

/-- A counter block is at hand: cached, fetched and not yet checked, or in a counter page never written (R274, R277, R278). -/
def State.ctrKnown (s : State) (t : TileId) (slot : Nat) : Bool :=
  let a := (s.tile t).sec
  (Tab.get none a.cached slot).isSome || a.arrived.contains slot || (s.ctrDirKnown t (ctrPage slot) && (s.dirAt t (ctrPage slot)).isEmpty)

/-- The codeword of a slot's block. -/
def State.ctrCwa (s : State) (t : TileId) (slot : Nat) : BitVec 34 := cwAddr (s.dirAt t (ctrPage slot)).loc (slot % 64 / 4)

/-- The ancestors of a counter block, from level 1 to level 9 (R275). -/
def ancestors (slot : Nat) : List Nat := (List.range 9).map fun l => treeKey (l + 1) (slot / 8 ^ (l + 1))

/-- Where an object lies on the medium, by its counter page's directory entry (R278). -/
def State.objCwa (s : State) (t : TileId) (key : Nat) : BitVec 34 := cwAddr (s.dirAt t (objectPage key)).loc (keyIndex key % 64 / 4)

/-- A codeword read of an owner is under way. -/
def State.reading (s : State) (t : TileId) (o : Owner) : Bool :=
  (s.tile t).sch.fetches.any fun e => match e.2 with | some f => decide (f.owner = o) | none => false

/-- An ancestor that is not in the cache is fetched for the tree check; the page of the counter directory that names its place is
fetched first where it is not cached (R278, R285). -/
def State.wantNode (s : State) (t : TileId) (key : Nat) : State :=
  let page := objectPage key
  if (Tab.get none (s.tile t).sec.cached key).isSome || s.reading t (.node key) then s
  else if s.ctrDirKnown t page then
    if (s.dirAt t page).isEmpty then s else s.bgFetch t (s.objCwa t key) (.node key)
  else s.fetchPage t (ctrDirOf page)

/-- The counter of a slot is fetched, speculatively, when it is not at hand, with the ancestors that its check needs (Table 5.6, R285). -/
def State.wantCtr (s : State) (t : TileId) (slot : Nat) : State :=
  if s.ctrKnown t slot || (s.tile t).sec.fetching.contains slot then s
  else
    let s := s.modSec t fun a => { a with fetching := slot :: a.fetching }
    let s := (s.secCnt t 6).pmc t 0x0B
    let s := if s.ctrDirKnown t (ctrPage slot) then s.bgFetch t (s.ctrCwa t slot) (.counter slot) else s.fetchPage t (ctrDirOf (ctrPage slot))
    (ancestors slot).foldl (fun s k => s.wantNode t k) s

/-- Reads that a slot's tree check waits for: its block, its ancestors, pages of the counter directory, and the repair of one of them. -/
def State.treeBusy (s : State) (t : TileId) (slot : Nat) : Bool :=
  (s.tile t).sec.fetching.contains slot ||
  s.reading t (.repair (treeKey 0 slot)) ||
  (ancestors slot).any fun k => s.reading t (.node k) || s.reading t (.repair k) || (s.tile t).xlt.fetching.contains (ctrDirOf (objectPage k))

/-- The place of line `i`'s group among the part's, and the token the cell presents for it. -/
def Cell.groupAt (c : Cell) (i : Nat) : Nat := (c.line i) / 4 - (c.line 0) / 4
def Cell.tokenAt (c : Cell) (i : Nat) : BitVec 64 := c.tokens.getD (c.groupAt i) 0

/-- Ready list of a session, channel and die (R96). -/
def readyKey (x : SessId) (c d : Nat) : Nat := (x.val * 8 + c) * 8 + d

/-- Line `i` of a cell is to be read at place `sub` of codeword `cwa`: it joins the part's read of that codeword, or a new
read is linked to the ready list of its session, channel and die. -/
def State.linkRead (s : State) (t : TileId) (id i : Nat) (cwa : BitVec 34) (sub : Nat) (token : Option Word) : State :=
  match s.cell? t id with
  | none => s
  | some c =>
    let s := s.wantCtr t (s.slotAt t (c.line i))
    let grp := c.groupAt i
    let tok := if c.counted.contains grp then c.tokenAt i else 0
    let calm := (s.tile t).adm.becalmed.contains c.sess.val
    let s := s.modCell t id fun c => { c with
      issued := Tab.ins grp (s.tokenFor t (c.line i) tok) c.issued
      keys := Tab.put none c.keys i (some (s.keyOf t (c.line i))), calmWait := c.calmWait || calm }
    match (s.tile t).sch.fetches.find? fun e => match e.2 with
        | some f => decide (f.owner = .part id ∧ f.cwa = cwa ∧ f.flying = false ∧ f.seen = false)
        | none => false with
    | some (fid, _) => s.modCell t id fun c => { c with phase := Tab.ins i (.read fid sub) c.phase }
    | none =>
      let fid := (s.tile t).sch.fid
      let f : Fetch := { cwa, owner := .part id, since := s.now, bucket := s.bucketOf t cwa, token }
      let s := s.newFetch t f
      let s := s.modCell t id fun c => { c with phase := Tab.ins i (.read fid sub) c.phase }
      if s.dieLost t cwa then s.startRebuild t fid f
      else s.modAdm t fun a => { a with
        ready := Tab.upd [] a.ready (readyKey c.sess (cwaChan cwa).val (cwaDie cwa).val) fun q => q ++ [fid] }

/-! ### Delivery -/

/-- A message on the mesh (R20). -/
def State.send (s : State) (src dst : TileId) (b : MsgBody) : State := 
  { s with mesh := s.mesh ++ [{ src, dst, path := route src dst, body := b }] }

/-- The frames a cell holds beside its lines' go back (R110, R130, R280). -/
def State.release (s : State) (t : TileId) (id : Nat) : State :=
  match s.cell? t id with
  | none => s
  | some c =>
    let s := s.modAdm t fun a => { a with cbFree := a.cbFree + c.cbuf, stFree := a.stFree + c.extra }
    s.freeCell t c.sess id

/-- The result of a part all of whose lines are served (R30, R51, R52, R140, R149). -/
def Cell.result (c : Cell) : PartRes :=
  if isAtomic c.op then { c.res with old := if c.res.anyPoison then 0 else c.opA }
  else if c.op = opRead then
    { c.res with
      lines := (List.range c.n).map fun i => Tab.get 0 c.given i
      neverWritten := (List.range c.n).all fun i => c.never.contains i
      pending := c.pending.foldl (fun b i => b ||| (1#64 <<< (c.first + i))) 0
      tokens := (List.range ((c.line (c.n - 1)) / 4 - (c.line 0) / 4 + 1)).map fun g => Tab.get 0 c.issued g }
  else c.res

/-- A part with no line left reports its completion to the home tile, once; its cell is freed unless its checks are pending
(Table 4.3). A report of a part of a session that has ended goes nowhere (R92, R111). -/
def State.finish (s : State) (t : TileId) (id : Nat) : State :=
  match s.cell? t id with
  | none => s
  | some c =>
    if c.phase ≠ [] ∨ c.st = .claimed ∨ c.reported then s
    else
      let s := s.send t c.home (.completion c.sess (s.ses c.sess).epoch c.seq c.first c.result)
      if c.pending = [] then s.release t id else s.modCell t id fun c => { c with reported := true }

/-- Line `i` of a cell is served: `poison` 0 none, 1 an uncorrectable error, 2 an integrity failure (Table 5.5). -/
def State.give (s : State) (t : TileId) (id i : Nat) (data : Line) (poison : Nat := 0) (never pending retry : Bool := false) :
    State :=
  let s := s.modCell t id fun c => { c with
    phase := Tab.del i c.phase
    given := if c.op = opRead then Tab.ins i data c.given else c.given
    never := if never then i :: c.never else c.never
    pending := if pending then i :: c.pending else c.pending
    res := { c.res with
      poison := if poison ≠ 0 ∧ c.op = opRead then c.res.poison ||| (1#64 <<< (c.first + i)) else c.res.poison
      anyPoison := c.res.anyPoison || decide (poison ≠ 0)
      status := if poison = 2 then stIntegrity else c.res.status
      retry := c.res.retry || retry } }
  s.finish t id

/-- The reads of a line that are older parts of a cell's session in its queue, and not served: cell, index (R69, R101). -/
def State.olderReads (s : State) (t : TileId) (id line : Nat) : List (Nat × Nat) :=
  match s.cell? t id with
  | none => []
  | some c => ((s.queue t c.sess).takeWhile fun q => decide (q ≠ id)).filterMap fun q => match s.cell? t q with
    | none => none
    | some o => match o.ix? line with
      | none => none
      | some j =>
        if o.op = opRead ∧ o.st ≠ .claimed ∧ o.phaseAt j ≠ .served ∧ (Tab.find o.pinned j).isNone then some (q, j) else none

/-- Before a write of the session takes effect on a line, its older reads of the line are fixed to what the line holds now: the
contents of its frame, or the version on the medium (R69, R101). -/
def State.pinOlder (s : State) (t : TileId) (id line : Nat) : State :=
  let now := (Tab.find (s.tile t).adm.staged line).map fun f => (f.data, f.poison)
  (s.olderReads t id line).foldl (fun s e => s.modCell t e.1 fun c => { c with pinned := Tab.ins e.2 now c.pinned }) s

/-- An older read of the session, or an operation that a WRITE has put behind it, still needs the version of a line that the medium holds:
the line's frame is not packed (log 118). -/
def State.pinnedAt (s : State) (t : TileId) (line : Nat) : Bool :=
  (s.tile t).adm.cells.any fun e => match e.2.ix? line with
    | some j => decide (e.2.phaseAt j ≠ .served) && (decide (Tab.find e.2.pinned j = some none) ||
        (s.tile t).adm.superseded.contains (e.1, j) || match e.2.phaseAt j with | .behind _ _ => true | _ => false)
    | none => false

/-- A frame of a cell becomes the line's staging frame (R131); the superseded frame goes back where the frames came from. -/
def State.stage (s : State) (t : TileId) (id i : Nat) (line : Nat) (data : Line) : State :=
  (s.pinOlder t id line).modAdm t fun a =>
    let fromCb := match Tab.find a.cells id with | some c => c.took.getD i false | none => false
    let bad := match Tab.find a.cells id with | some c => c.bad.contains i | none => false
    let old := Tab.find a.staged line
    let was := match old with | some f => !f.packing | none => false
    let older := match old with | some f => if f.packing then f.older + 1 else f.older | none => 0
    { a with
      staged := Tab.ins line { data, ord := a.ord, poison := bad, older, prev := old.bind Staged.prev } a.staged
      ord := a.ord + 1
      cbFree := if fromCb then a.cbFree + 1 else a.cbFree
      stFree := if fromCb then (if was then a.stFree else a.stFree - 1) else (if was then a.stFree + 1 else a.stFree) }

/-- The frame a line's claim took goes back unused (R134, R135, R140). -/
def State.giveBack (s : State) (t : TileId) (id i : Nat) : State :=
  s.modAdm t fun a =>
    let fromCb := match Tab.find a.cells id with | some c => c.took.getD i false | none => false
    if fromCb then { a with cbFree := a.cbFree + 1 } else { a with stFree := a.stFree + 1 }

/-- The result of a read-modify-write of line `i` on contents `cur`, and the old 8 bytes of an atomic (R134, R136). -/
def Cell.merged (c : Cell) (i : Nat) (cur : Line) : Line × BitVec 64 :=
  let off := c.tla.toNat % 64 / 8 * 8
  let old := getQ cur off
  (if isAtomic c.op then setQ cur off (atomicNew c.op c.opA c.opB old) else mergeLine (c.mask.getD i 0) (c.data.getD i 0) cur, old)

/-- The read-modify-write of line `i` of a cell on its current contents (R134, R136, R140): poisoned contents have no
effect; a superseded one keeps its outcome and drops its result line (R135). -/
def State.execOne (s : State) (t : TileId) (id i : Nat) (cur : Line) (poison : Nat) (retry : Bool) : State :=
  match s.cell? t id with
  | none => s
  | some c =>
    let line := c.line i
    let dead := (s.tile t).adm.superseded.contains (id, i)
    let s := s.modAdm t fun a => { a with
      merging := if Tab.get none a.merging line = some (id, i) then Tab.put none a.merging line none else a.merging
      superseded := a.superseded.filter fun e => decide (e ≠ (id, i)) }
    if poison ≠ 0 then
      let s := s.giveBack t id i
      let s := s.modCell t id fun c => { c with executed := true }
      s.give t id i 0 poison false false retry
    else
      let (new, old) := c.merged i cur
      let s := if dead then s.giveBack t id i else s.stage t id i line new
      let s := s.modCell t id fun c => { c with executed := true, opA := if isAtomic c.op then old else c.opA }
      s.give t id i 0 0 false false retry

/-- One stamp is not after another, as stamps are compared: modulo 2^40 (Table 4.1). -/
def armedBefore (a b : BitVec 40) : Bool := decide ((b - a).toNat < 2 ^ 39)

/-- The armed cells of a tile in arming order, those of equal stamps by session (R133). -/
def State.armedCells (s : State) (t : TileId) : List (Nat × Cell) :=
  let l := (List.finRange 64).flatMap fun x => (s.queue t x).filterMap fun id => match s.cell? t id with
    | some c => if c.st = .claimed then none else some (id, c)
    | none => none
  sortBy (fun a b => armedBefore a.2.stamp b.2.stamp) l

/-- The cells that wait behind a superseded merge, in arming order (R135). -/
def State.behindOf (s : State) (t : TileId) (m : Nat × Nat) : List (Nat × Nat) :=
  (s.armedCells t).filterMap fun e => (e.2.phase.find? fun p => decide (p.2 = .behind m.1 m.2)).map fun p => (e.1, p.1)

/-- A merge on contents `cur`; where it was superseded, the operations armed before the WRITE follow it in arming order and
observe what each leaves (R135). -/
def State.execLine (s : State) (t : TileId) (id i : Nat) (cur : Line) (poison : Nat) (retry : Bool := false) : State :=
  match s.cell? t id with
  | none => s
  | some c =>
    let next : Line := if poison = 0 then (c.merged i cur).1 else cur
    let s1 := s.execOne t id i cur poison retry
    ((s.behindOf t (id, i)).foldl (fun (e : State × Line) q =>
      match e.1.cell? t q.1 with
      | none => e
      | some o =>
        if o.op = opRead then (e.1.give t q.1 q.2 (if poison = 0 then e.2 else 0) poison, e.2)
        else
          let s := e.1.modAdm t fun a => { a with superseded := q :: a.superseded }
          (s.execOne t q.1 q.2 e.2 poison false, if poison = 0 then (o.merged q.2 e.2).1 else e.2))
      (s1, next)).1

/-- The operations behind a superseded merge that will not be executed take its place (R111, R135). -/
def State.rechain (s : State) (t : TileId) (m : Nat × Nat) : State :=
  ((s.behindOf t m).foldl (fun (e : State × Option (Nat × Nat)) q =>
    match e.1.cell? t q.1 with
    | none => e
    | some o => match e.2 with
      | some h => (e.1.modCell t q.1 fun c => { c with phase := Tab.ins q.2 (.behind h.1 h.2) c.phase }, e.2)
      | none =>
        let s := e.1.modCell t q.1 fun c => { c with phase := Tab.ins q.2 .todo c.phase }
        (s.modAdm t fun a => { a with superseded := q :: a.superseded }, if isRmw o.op then some q else none))
    (s, none)).1

/-- A WRITE of the whole line supersedes the merge in progress on it: every operation on the line armed before it takes its
place before it (R135). -/
def State.supersede (s : State) (t : TileId) (line : Nat) (m : Nat × Nat) (self : Nat) : State :=
  let s := s.modAdm t fun a => { a with merging := Tab.put none a.merging line none, superseded := m :: a.superseded }
  (s.tile t).adm.cells.foldl (fun s e =>
    match e.2.ix? line with
    | none => s
    | some j =>
      if e.1 ≠ self ∧ e.2.st ≠ .claimed ∧ e.2.phaseAt j = .todo then
        s.modCell t e.1 fun c => { c with phase := Tab.ins j (.behind m.1 m.2) c.phase }
      else s) s

/-- A line's span bit is set by the arming of the first write to it (R128). -/
def State.setSpan (s : State) (t : TileId) (line : Nat) : State :=
  s.modXlt t fun a => { a with spans := Tab.put false a.spans (line / 1024) true }

/-- What a line holds without a medium read, or the codeword it must be read from (R162, R289). -/
inductive Found where
  | data (l : Line) (poison : Nat) (never : Bool)
  | medium (cwa : BitVec 34) (sub : Nat) (token : Option Word)
  | mapMiss (page : Nat)
  deriving DecidableEq, Repr

/-- Lookup of a line (R162), its token finding, and the counters it moves. `tok` is the token presented for its group;
`old`: the line from before a superseding WRITE is wanted (R135); `again`: it goes on after the fetch of its map page. -/
def State.lookup (s : State) (t : TileId) (line : Nat) (tok : BitVec 64) (old again : Bool) : Found × TokenSays × State :=
  let T := s.tile t
  match if old then none else Tab.find T.adm.staged line with
  | some f => (.data f.data (if f.poison then 1 else 0) false, .nothing, s)
  | none =>
    if Tab.get false T.xlt.spans (line / 1024) = false then (.data 0 0 true, .nothing, s)
    else if s.lostAt t line then (.data 0 2 false, .nothing, s)
    else match Tab.get none T.xlt.ovl line with
    | some none => (.data 0 1 false, .nothing, s)
    | some (some la) => (.medium (BitVec.ofNat 34 (la / 4)) (la % 4) none, .nothing, s)
    | none =>
      let page := line / 64 / 512
      if s.cachedPage t page then
        let s := if again then s.touchPage t page else (s.touchPage t page).xltCnt t 0
        let e := s.teAt t (line / 64)
        if e.image then (.medium (e.cwa line) (line % 4) none, .nothing, s) else (.data 0 0 true, .nothing, s)
      else match s.readToken t line tok with
        | .absent => (.data 0 0 true, .absent, s)
        | .image cwa => (.medium cwa (line % 4) (some (s.dirAt t page).gen), .image cwa, s)
        | w => if (s.dirAt t page).isEmpty then (.data 0 0 true, w, s) else (.mapMiss page, w, s)

/-- Line `i` of an armed cell is served, linked, or left waiting (R133 to R136, R162). -/
def State.serveLine (s : State) (t : TileId) (id i : Nat) : State :=
  match s.cell? t id with
  | none => s
  | some c =>
    let line := c.line i
    if c.phaseAt i ≠ .todo then s
    else if c.op = opWrite then
      -- a WRITE of the whole line does not wait for a merge; it supersedes it (R135)
      let s := match s.mergingBy t line with
        | some m => s.supersede t line m id
        | none => s
      ((s.setSpan t line).stage t id i line (c.data.getD i 0)).give t id i 0
    else
      match Tab.get none c.pinned i with
      | some (d, bad) => (s.pmc t 0x01).give t id i (if bad then 0 else d) (if bad then 1 else 0)
      | none =>
      let old := (s.tile t).adm.superseded.contains (id, i) || (Tab.find c.pinned i).isSome
      match if old then none else s.mergingBy t line with
      | some _ => s
      | none =>
        if c.op = opPartial ∧ c.mask.getD i 0 = 0 then ((s.setSpan t line).giveBack t id i).give t id i 0
        else
          let (found, token, s) := s.lookup t line (c.tokenAt i) old (c.missed.contains i)
          let s := if token = .nothing ∨ c.counted.contains (c.groupAt i) = true then s
            else (s.xltCnt t (if token = .stale then 3 else 2)).modCell t id fun c => { c with counted := c.groupAt i :: c.counted }
          let s := if token = .stale then s.modCell t id fun c => { c with res := { c.res with stale := true } } else s
          match found with
          | .data d p nv =>
            if c.op = opRead then
              let s := if nv then s.pmc t 0x02 else if (Tab.find (s.tile t).adm.staged line).isSome && !old then s.pmc t 0x01 else s
              s.give t id i (if p = 0 then d else 0) p nv
            else (if p = 0 then s.setSpan t line else s).execLine t id i d p
          | .medium cwa sub tok =>
            let s := if isRmw c.op && !old then s.modAdm t fun a => { a with merging := Tab.put none a.merging line (some (id, i)) } else s
            s.linkRead t id i cwa sub tok
          | .mapMiss page =>
            let s := if isRmw c.op && !old then s.modAdm t fun a => { a with merging := Tab.put none a.merging line (some (id, i)) } else s
            (s.fetchPage t page).modCell t id fun c => { c with missed := i :: c.missed, phase := Tab.ins i (.map page) c.phase }

/-- Every line of a cell that is still to be looked up, unless the part waits under R101. -/
def State.serveCell (s : State) (t : TileId) (id : Nat) : State :=
  match s.cell? t id with
  | none => s
  | some c =>
    if s.partWaits t id c then
      if c.hazard then s else (s.modCell t id fun c => { c with hazard := true }).admCnt t 6
    else (List.range c.n).foldl (fun s i => s.serveLine t id i) s

/-- Parts that waited for a merge or an older part go on, in arming order (R101, R135); none before the walk of a replay is done (R151). -/
def State.serveWaiting (s : State) (t : TileId) : State :=
  if (s.tile t).ctl.replayDue then s else ((s.armedCells t).filter fun e => e.2.phase.any fun p => decide (p.2 = .todo)).foldl (fun s e => s.serveCell t e.1) s

/-- Arming of a claimed cell (R100, R131, R133): stamp, span bits, host-line count, and its lines served in order. -/
def State.armCell (s : State) (t : TileId) (id : Nat) : State :=
  match s.cell? t id with
  | none => s
  | some c =>
    if c.st ≠ .claimed ∨ c.n = 0 then
      s.modCell t id fun c => if c.st = .claimed then { c with st := .armed, stamp := BitVec.ofNat 40 s.now } else c
    else
      let s := s.modCell t id fun c => { c with
        st := .armed, stamp := BitVec.ofNat 40 s.now
        phase := (List.range c.n).map fun i => (i, Phase.todo) }
      let s := s.modAdm t fun a => { a with marks := Tab.put none a.marks c.sess.val none }
      let s := if isWrite c.op then
          s.modXlt t fun a => { a with hostLn := a.hostLn + BitVec.ofNat 64 c.n }
        else s
      (s.serveCell t id).serveWaiting t

end Sys2Proof.Machine
end

