-- ==== Sys2Proof/Machine/Intake.lean ====
section
/-! DEFINITION. Claims, arming, release and replay of request parts on the owning tile (R95 to R111, R130, R150, R151,
R280, R282, R284). -/

namespace Sys2Proof

/-- The token slots of the codewords that lines `first` to `first + n - 1` of a request touch (R49, R52). -/
def Rq.partTokens (rq : Rq) (first n : Nat) : List (BitVec 64) :=
  let c := (rq.addr / 64 + first) / 4
  (rq.tokens.drop (c - rq.addr / 256)).take ((rq.addr / 64 + first + n - 1) / 4 - c + 1)

end Sys2Proof

namespace Sys2Proof.Machine

/-! ### What a claim needs -/

/-- QCAP of a session on a tile: 0 and values above 4,096 act as 4,096 (R97, ADM_SCFG). -/
def Adm.qcap (a : Adm) (x : SessId) : Nat :=
  let q := ((Tab.get 0 a.scfg x.val).toNat / 4096) % 8192
  if q = 0 ∨ q > 4096 then 4096 else q

/-- Whether queue `x` may take a cell of the shared pool (R97, R107). -/
def State.cellRoom (s : State) (t : TileId) (x : SessId) : Bool :=
  decide ((s.tile t).adm.cells.length < 32704) &&
  decide ((s.queue t x).length < (s.tile t).adm.qcap x)

/-- The lowest shared cell not in use. The choice among free cells is the model's (log 9). -/
def freeId (cells : Tab Cell) : Nat := cells.foldl (fun n e => if e.1 = n then n + 1 else n) 64

/-- A line is resident for a claim: in a staging frame that is not being packed (R106, R132). -/
def State.resident (s : State) (t : TileId) (line : Nat) : Bool :=
  match Tab.find (s.tile t).adm.staged line with
  | some f => !f.packing
  | none => false

/-- The group slot a write claim on `line` becomes the rolling write of, if it does (R279, R280); nothing is packed in a lost range, so no
group rolls there (R289). -/
def State.rollingSlot (s : State) (t : TileId) (line : Nat) : Option Nat :=
  let slot := s.slotAt t line
  if s.groupRipe t line && !s.lostAt t line && !((s.tile t).sec.rolling.any fun e => decide (e.1 = slot)) &&
      !((s.tile t).adm.cells.any fun e => decide (e.2.rolling = some slot)) then some slot
  else none

/-- The group of a line is exhausted (R282): compact, ripe, at its last MAJOR. -/
def State.exhausted (s : State) (t : TileId) (line : Nat) : Bool :=
  s.compactAt t line && s.groupRipe t line && decide ((s.ctrAt t line).major = 0xFFFFFFFF)

/-- The group of a line is stalled (R282, R284). -/
def State.stalledAt (s : State) (t : TileId) (line : Nat) : Bool :=
  (s.tile t).sec.stalled.contains (s.slotAt t line) ||
  match s.rgnOfLine t line with
  | none => false
  | some r => (s.rgn r).pass && s.exhausted t line && decide ((s.ctrAt t line).epoch = (s.rgn r).cur)

/-- Token slots a part presents: nonzero ones (log 10); two fit the cell, each further eight take a frame (R130). -/
def tokenFrames (tokens : List (BitVec 64)) : Nat := ((tokens.filter fun k => decide (k ≠ 0)).length - 2 + 7) / 8

/-- The event REGION_REKEY_STALL is raised at a tile's first stall in a pass (R284). -/
def State.stallRefused (s : State) (t : TileId) (line : Nat) : State :=
  let slot := s.slotAt t line
  let s := s.secCnt t 5
  let s := s.modSec t fun a => if a.stalled.contains slot then a else { a with stalled := slot :: a.stalled }
  match s.rgnOfLine t line with
  | none => s
  | some r =>
    let s := s.modRgn r fun g => { g with stalled := true }
    if (s.tile t).sec.stallRaised.contains r.val then s
    else
      let s := s.modSec t fun a => { a with stallRaised := r.val :: a.stallRaised }
      s.raise (tsrc t 16) (fld 0 r.val ||| fld 4 (slot / 2))

/-! ### Claim (R99, R105, R106, R130) -/

/-- What a part of a request takes on its tile. -/
structure Need where
  n : Nat
  took : List Bool
  staging : Nat
  cbuf : Nat
  tokenFrames : Nat
  wtok : Nat
  extra : Nat
  rolling : Option Nat
  deriving DecidableEq, Repr

/-- The needs of a part of `n` lines from line `line0` on (R105, R106, R130, R280). -/
def State.needOf (s : State) (t : TileId) (rq : Rq) (first n line0 : Nat) : Need :=
  let w := isWrite rq.hdr.opcode
  let took := if w then (List.range n).map fun i => s.resident t (line0 + i) else []
  let toks := tokenFrames (rq.partTokens first n)
  let roll := if w then s.rollingSlot t line0 else none
  let extra := match roll with
    | none => 0
    | some slot => ((groupLines (s.compactAt t line0) slot).filter fun l =>
        !s.resident t l && !(decide (line0 ≤ l ∧ l < line0 + n))).length
  { n, took, staging := (took.filter fun b => !b).length, cbuf := (took.filter fun b => b).length
    tokenFrames := toks, wtok := if w then (if isAtomic rq.hdr.opcode then 1 else n) else 0, extra, rolling := roll }

/-- The shortages of a claim; `none` when it succeeds (R98, R99, R284, R429). -/
def State.shortOf (s : State) (t : TileId) (x : SessId) (rq : Rq) (line0 : Nat) (d : Need) : Option Short :=
  let a := (s.tile t).adm
  let f : Short :=
    { cell := !s.cellRoom t x
      park := decide (a.level < d.wtok ∨ a.stFree < d.staging + d.extra ∨ a.cbFree < d.cbuf + d.tokenFrames)
      stall := isWrite rq.hdr.opcode && s.stalledAt t line0 }
  if f.cell || f.park || f.stall then some f else none

/-- A claim of a part on its tile: everything it takes, or nothing. -/
def State.claim (s : State) (t home : TileId) (x : SessId) (rq : Rq) (first n : Nat) (tla : BitVec 42) (mark : Bool) :
    State × Option Short :=
  let line0 := tla.toNat / 64
  let s := if mark then
      s.modAdm t fun a => { a with marks := Tab.put none a.marks x.val (some ((s.queue t x).getLast?.getD 0)) }
    else s
  let d := s.needOf t rq first n line0
  match s.shortOf t x rq line0 d with
  | some f =>
    let s := if (s.tile t).adm.level < d.wtok then s.pmc t 0x10 else s
    (if f.stall then s.stallRefused t line0 else s, some f)
  | none =>
    let op := rq.hdr.opcode
    let c : Cell :=
      { sess := x, seq := rq.hdr.seq, op, home, tla, first, n
        phase := [], data := if op = opWrite ∨ op = opPartial then (rq.lines.drop first).take n else []
        mask := if op = opPartial then (rq.masks.drop first).take n else []
        opA := if isAtomic op then rq.operand 0 else 0, opB := if op = opCas then rq.operand 8 else 0
        tokens := rq.partTokens first n
        took := d.took, cbuf := d.tokenFrames, extra := d.extra, wtok := d.wtok, rolling := d.rolling }
    (s.modAdm t fun a =>
      let id := freeId a.cells
      let cells := Tab.ins id c a.cells
      { a with
        cells
        queues := Tab.upd [] a.queues x.val fun q => q ++ [id]
        minFree := min a.minFree (32704 - cells.length)
        level := a.level - d.wtok
        stFree := a.stFree - d.staging - d.extra
        cbFree := a.cbFree - d.cbuf - d.tokenFrames }, none)

/-- A claimed part's resources go back (R102, R103, R111). -/
def State.unclaim (s : State) (t : TileId) (id : Nat) : State :=
  match s.cell? t id with
  | none => s
  | some c =>
    if c.st = .claimed then
      let s := s.modAdm t fun a => { a with
        level := min a.depth (a.level + c.wtok)
        stFree := a.stFree + (c.took.filter fun b => !b).length
        cbFree := a.cbFree + (c.took.filter fun b => b).length }
      s.release t id
    else s

/-- The `CLAIMED` cell of a request on a tile. -/
def State.cellOf (s : State) (t : TileId) (x : SessId) (seq : Word) : Option Nat :=
  (s.queue t x).find? fun id => match s.cell? t id with | some c => decide (c.seq = seq ∧ c.st = .claimed) | none => false

/-- DROP_REMAINDER (R102). -/
def State.dropPart (s : State) (t : TileId) (x : SessId) (seq : Word) : State :=
  let s := s.admCnt t 3
  match s.cellOf t x seq with
  | some id => s.unclaim t id
  | none => s

/-- Rewind of a v1 session's queue to its mark (R103). A v1 session claims one request at a time, so the cells after the
mark are the CLAIMED ones. -/
def State.rewind (s : State) (t : TileId) (x : SessId) : State :=
  let s := s.admCnt t 4
  let s := (s.queue t x).foldl (fun s id => s.unclaim t id) s
  s.modAdm t fun a => { a with marks := Tab.put none a.marks x.val none }

/-! ### Rolling a group (R280, R282) -/

/-- Where a line lies on the medium: overlay entry, or tract image; `none` for neither (R162). -/
def State.placeOf (s : State) (t : TileId) (line : Nat) : Option (BitVec 34) :=
  match Tab.get none (s.tile t).xlt.ovl line with
  | some (some la) => some (BitVec.ofNat 34 (la / 4))
  | some none => none
  | none =>
    let e := s.teAt t (line / 64)
    if e.image then some (e.cwa line) else none

/-- Pull reads of a group: one background read for each codeword that holds a line of the group that is not resident and
has a location (R280). A counter page never written makes no difference to it. -/
def State.startRoll (s : State) (t : TileId) (slot : Nat) (compact : Bool) (frames : Nat) : State :=
  if (s.tile t).sec.rolling.any fun e => decide (e.1 = slot) then s
  else
    let lines := (groupLines compact slot).filter fun l => !s.resident t l && (s.placeOf t l).isSome
    let s := s.modAdm t fun a => { a with stFree := a.stFree + frames - lines.length }
    let s := s.modSec t fun a => { a with rolling := a.rolling ++ [(slot, lines)] }
    let cws := lines.filterMap fun l => s.placeOf t l
    cws.dedup.foldl (fun s cwa => s.bgFetch t cwa (.pull slot)) s

/-- A pass begins: a new secret goes into the slot CUR_EPOCH does not name, and the pass starts when it has been committed
(R283); `lost` names the lost-range command it serves (R291). -/
def State.beginPass (s : State) (r : RegionId) (lost : Nat := 0) (post : List Deferred := []) : State :=
  let (k, s) := s.draw 256
  let g := s.rgn r
  s.rgnCommit r [.secret (!g.cur) (some k), .cur (!g.cur)] (.passStart r lost :: post)

/-- A pass of the region runs, or waits for its secret. -/
def State.passing (s : State) (r : RegionId) : Bool :=
  (s.rgn r).pass || s.ldg.waits fun d => match d with | .passStart q _ => decide (q = r) | _ => false

/-- Arming of a part on its owning tile (R100, R131, R133); its group rolls where the part is the rolling write (R280). -/
def State.armPart (s : State) (t : TileId) (id : Nat) : State :=
  match s.cell? t id with
  | none => s
  | some c =>
    if c.st ≠ .claimed then s
    else if c.res.status ≠ stOk then
      -- its cell had an uncorrectable word (Table 11.2, 0x2)
      ((s.send t c.home (.completion c.sess (s.ses c.sess).epoch c.seq c.first c.res)).unclaim t id).modAdm t fun a =>
        { a with marks := Tab.put none a.marks c.sess.val none }
    else
      let s := match c.rolling with
        | none => s
        | some slot =>
          let s := s.modCell t id fun c => { c with extra := 0, rolling := none }
          let comp := s.compactAt t (c.line 0)
          let s := match s.exhausted t (c.line 0), s.rgnOfLine t (c.line 0) with
            | true, some r => if s.passing r then s else s.beginPass r
            | _, _ => s
          s.startRoll t slot comp c.extra
      s.armCell t id

/-! ### Release at the end of a session (R111) -/

/-- Whether an armed cell of an ended session is finished: writes, granted parts, and merges already executed. -/
def Cell.finishes (c : Cell) : Bool :=
  decide (c.st = .granted) || decide (c.op = opWrite) || (isRmw c.op && c.executed)

/-- Codeword reads that satisfy `p` are abandoned, and leave the ready lists. -/
def State.dropFetches (s : State) (t : TileId) (p : Fetch → Bool) : State :=
  let out := ((s.tile t).sch.fetches.filter fun e => match e.2 with | some f => p f | none => false).map fun e => e.1
  let s := s.modSch t fun a => { a with fetches := a.fetches.filter (fun e => !out.contains e.1) }
  s.modAdm t fun a => { a with
    ready := (a.ready.map fun e => (e.1, e.2.filter fun i => !out.contains i)).filter (fun e => decide (e.2 ≠ [])) }

/-- What an armed part holds for its lines not served goes back, and its reads are abandoned. -/
def State.abortCell (s : State) (t : TileId) (id : Nat) (c : Cell) : State :=
  let s := (List.range c.n).foldl (fun s i =>
    if c.phaseAt i = .served then s
    else
      let s := if isWrite c.op then s.giveBack t id i else s
      let s := s.rechain t (id, i)
      s.modAdm t fun a => { a with
        merging := if Tab.get none a.merging (c.line i) = some (id, i) then Tab.put none a.merging (c.line i) none
          else a.merging
        superseded := a.superseded.filter fun e => decide (e ≠ (id, i)) }) s
  s.dropFetches t fun f => decide (f.owner = .part id)

/-- An ARM of a request whose other part has been armed is on its way to a tile: the part is to be armed, for no request is left half
applied (R92; log 149). -/
def State.armComes (s : State) (t : TileId) (x : SessId) (seq : Word) : Bool :=
  s.mesh.any fun m => decide (m.dst = t ∧ m.body = .arm x seq 0)

/-- A cell of an ended session is released without effect, or left to finish (R111). -/
def State.endPart (s : State) (t : TileId) (id : Nat) : State :=
  match s.cell? t id with
  | none => s
  | some c =>
    if c.st = .claimed then (if s.armComes t c.sess c.seq then s else s.unclaim t id)
    else if c.n = 0 then s.release t id
    else if c.finishes then s
    else (s.abortCell t id c).release t id

/-- The same; parts that waited for it go on. -/
def State.endCell (s : State) (t : TileId) (id : Nat) : State := (s.endPart t id).serveWaiting t

/-- The ARMs of a session that ends: where both of a request are still on the mesh, neither part has been armed, and they have no effect
(R92, R111; log 149). -/
def State.voidArms (s : State) (x : SessId) : State :=
  { s with mesh := s.mesh.map fun m => match m.body with
    | .arm y seq _ =>
      if y = x ∧ 2 ≤ (s.mesh.filter fun o => match o.body with | .arm z q _ => decide (z = x ∧ q = seq) | _ => false).length then
        { m with body := .arm y seq 1 } else m
    | _ => m }

/-! ### Replay after a tile fault reset (R151, Table 5.8) -/

/-- One cell of the walk. Lines already served are not served again; the others are to be looked up again, in the arming order of all
cells. A line served whose check was pending counts as failed (R153), known before its DATA leaves (log 11). -/
def State.replayCell (s : State) (t : TileId) (id : Nat) : State :=
  match s.cell? t id with
  | none => s
  | some c =>
    if c.st = .claimed ∨ c.n = 0 then s
    else if c.reported then s.release t id
    else
      let s := s.modCell t id fun c => { c with
        phase := c.phase.map fun e => (e.1, match e.2 with | .behind a b => .behind a b | _ => Phase.todo), pending := []
        res := { c.res with
          waived := c.res.waived || decide (c.phase ≠ [] ∧ c.op ≠ opWrite)
          poison := c.pending.foldl (fun b i => b ||| (1#64 <<< (c.first + i))) c.res.poison
          anyPoison := c.res.anyPoison || decide (c.pending ≠ [])
          status := if c.pending = [] then c.res.status else stIntegrity } }
      s.finish t id

/-- Every queue is walked (R151): a cell of an ended session is first handled under R111, and acted on where it is to be finished. DESIGN
CHOICE (log 119): the queues are walked by session number, and lines are looked up again in arming order once the walk is done. -/
def State.replayTile (s : State) (t : TileId) : State :=
  let s := (List.finRange 64).foldl (fun s x => (s.queue t x).foldl (fun s id =>
    (if (s.ses x).st = .live then s else s.endPart t id).replayCell t id) s) s
  s

/-- The work in progress that a tile's logic holds is gone: codeword reads, map and counter fetches, merges; background reads whose
purpose stands in TILE_SRAM, of rolling groups, carry-overs, folds and a victim, are linked again (R151, R197, R280). -/
def State.dropLogic (s : State) (t : TileId) : State :=
  let s := s.modSch t fun a => { a with fetches := [], grants := [] }
  let s := s.modXlt t fun a => { a with fetching := [] }
  let s := s.modSec t fun a => { a with fetching := [], arrived := [] }
  let s := s.modAdm t fun a => { a with ready := [], merging := [] }
  let s := (s.tile t).sec.rolling.foldl (fun s e =>
    (e.2.filterMap fun l => s.placeOf t l).dedup.foldl (fun s cwa => s.bgFetch t cwa (.pull e.1)) s) s
  let s := (s.tile t).med.dies.foldl (fun s e => match e.2.carry with
    | some k => k.left.foldl (fun s cwa => s.bgFetch t cwa (.carry e.1)) s
    | none => s) s
  let s := (s.tile t).xlt.folds.foldl (fun s f => f.left.foldl (fun s cwa => s.bgFetch t cwa (.fold f.tract)) s) s
  match (s.tile t).xlt.victim with
  | some v => (s.tile t).xlt.gcLeft.foldl (fun s cwa => s.bgFetch t cwa (.collect v)) s
  | none => s

end Sys2Proof.Machine
end

