-- ==== Sys2Proof/Machine/Journal.lean ====
section
/-! DEFINITION. The map, the overlay and the stratum table under their journal records (R158 to R164, R172 to R179, R181,
R212, R268): every change is made at the instant its record has been programmed. -/

namespace Sys2Proof.Machine

/-! ### Stratum table and validity -/

/-- The stratum of a page address and of a line address. -/
def pageStratum (p : BitVec 30) : Nat := p.toNat / 2048
def lineStratum (la : Nat) : Nat := la / 4 / 32768
/-- The page of a line address. -/
def linePage (la : Nat) : BitVec 30 := BitVec.ofNat 30 (la / 64)

/-- `n` lines of a stratum become valid, or invalid. -/
def State.addValid (s : State) (t : TileId) (n k : Nat) : State := s.modStratum t n fun g => { g with valid := g.valid + k }
def State.subValid (s : State) (t : TileId) (n k : Nat) : State := s.modStratum t n fun g => { g with valid := g.valid - k }

/-! ### Work on its way to the medium -/

/-- Pages that wait for a run, are bound to one, are being programmed, or are carried by a slab that is being retired. -/
def State.jobs (s : State) (t : TileId) : List PageJob :=
  let T := s.tile t
  let of := fun (g : Option Prog) => match g with | some g => g.pages | none => []
  T.xlt.bgPages ++ T.xlt.mapPages ++
  (T.med.dies.flatMap fun e => of e.2.prog ++ of (e.2.carry.map Carry.failed) ++ e.2.changes.flatMap fun c => of c.failed) ++
  T.sch.runs.flatMap fun e => match e.2 with | some r => of r.page | none => []

/-- Map pages that a record, or a page once programmed, makes dirty (R163, R278). -/
def JRec.pages : JRec → List Nat
  | .image tr _ _ _ _ _ _ _ => [tr / 512]
  | .imageMove tr _ _ => [tr / 512]
  | .unmap f n => if n ≤ 512 then [f / 512] else []
  | .mapPage p _ _ _ => if 2097152 ≤ p ∧ p < ctrDirBase then [ctrDirOf p] else []
  | _ => []
def Content.pages : Content → List Nat
  | .image tr _ _ => [tr / 512]
  | .foldImage tr _ _ _ => [tr / 512]
  | .copyImage tr _ => [tr / 512]
  | .mapItem p _ _ => if 2097152 ≤ p ∧ p < ctrDirBase then [ctrDirOf p] else []
  | .journal _ rs => rs.flatMap JRec.pages
  | _ => []
def State.duePages (s : State) (t : TileId) : List Nat :=
  ((s.jobs t).flatMap fun j => j.content.pages) ++ (s.tile t).xlt.jbuf.flatMap JRec.pages

/-- Journal records that wait, or lie in a journal page not yet programmed. -/
def State.dueRecs (s : State) (t : TileId) : List JRec :=
  (s.tile t).xlt.jbuf ++ (s.jobs t).flatMap fun j => match j.content with | .journal _ rs => rs | _ => []

/-! ### Directory, tract entries, map cache -/

/-- The next GEN of a map page: every value whose bits [13:0] are 0 is skipped (Table 6.3). -/
def nextGen (g : Word) : Word := if (g + 1).toNat % 16384 = 0 then g + 2 else g + 1

/-- A clean page not referenced since the hand last passed is evicted when the cache is full (R163). The list is in clock
order with the hand at its head; pages in `keep` are about to change and stay. -/
def evict (keep : List Nat) : Nat → List (Nat × CPage) → List (Nat × CPage)
  | 0, l => l
  | _ + 1, [] => []
  | n + 1, e :: l =>
    if e.2.dirty || keep.contains e.1 then evict keep n (l ++ [e])
    else if e.2.ref then evict keep n (l ++ [(e.1, { e.2 with ref := false })])
    else l

/-- A map page enters the cache (R163). -/
def State.cacheIn (s : State) (t : TileId) (page : Nat) (dirty : Bool) : State :=
  let keep := s.duePages t
  s.modXlt t fun a =>
    if a.cache.any fun e => decide (e.1 = page) then
      { a with cache := a.cache.map fun e => if e.1 = page then (page, { dirty := e.2.dirty || dirty, ref := true }) else e }
    else
      let c := if a.cache.length < 3584 then a.cache else evict keep (2 * a.cache.length + 1) a.cache
      { a with cache := c ++ [(page, { dirty, ref := true })] }

/-- Dirty map pages (R163). -/
def Xlt.dirtyList (a : Xlt) : List Nat := (a.cache.filter fun e => e.2.dirty).map fun e => e.1
def Xlt.dirty (a : Xlt) : Nat := a.dirtyList.length

/-- A page may become dirty: it is, or is about to be, or fewer than 1,024 are (R163). -/
def State.dirtyRoom (s : State) (t : TileId) (page : Nat) : Bool :=
  let l := ((s.tile t).xlt.dirtyList ++ s.duePages t).dedup
  l.contains page || decide (l.length < 1024)

/-- A page may be changed: it is in the cache, or EMPTY, with room for it among the dirty ones (R163, R164). -/
def State.mayChange (s : State) (t : TileId) (page : Nat) : Bool :=
  (s.cachedPage t page || (s.dirAt t page).isEmpty) && s.dirtyRoom t page
/-- A page that is to be changed is fetched where it is neither cached nor EMPTY. -/
def State.wantPage (s : State) (t : TileId) (page : Nat) : State :=
  if s.cachedPage t page || (s.dirAt t page).isEmpty then s else s.fetchPage t page

/-- A page becomes dirty and its GEN advances (R159, R163). -/
def State.dirtyPage (s : State) (t : TileId) (page : Nat) : State :=
  (s.modXlt t fun a => { a with dir := Tab.upd {} a.dir page fun d => { d with gen := nextGen d.gen } }).cacheIn t page true
/-- A tract entry changes. -/
def State.setTe (s : State) (t : TileId) (tract : Nat) (e : Te) : State :=
  (s.modXlt t fun a => { a with te := Tab.put {} a.te tract e }).dirtyPage t (tract / 512)

/-- The folds of a tract in epoch `ep` and in the one before it, and HEAT (R158). -/
def Te.at_ (e : Te) (ep : Nat) : Te :=
  if e.ep = ep then e else { e with folds := 0, before := if e.ep + 1 = ep then e.folds else 0, ep }
def Te.heat (e : Te) (ep : Nat) : Nat := min 3 ((e.at_ ep).folds.toNat + (e.at_ ep).before.toNat)
def Te.folded (e : Te) (ep : Nat) : Te := { e.at_ ep with folds := if (e.at_ ep).folds = 3 then 3 else (e.at_ ep).folds + 1 }
/-- The current epoch: 4,096 superframes. -/
def State.epoch (s : State) : Nat := s.sf.toNat / 4096

/-! ### Overlay (R160, R161) -/

/-- Bucket of a line. -/
def bucketOfLine (line : Nat) : Nat := (Config.overlayHash (BitVec.ofNat 36 line)).toNat % 262144

/-- A bucket holds four entries. -/
def Xlt.bucketFull (a : Xlt) (line : Nat) : Bool :=
  (Tab.get none a.ovl line).isNone && decide (4 ≤ (a.ovl.filter fun e => decide (bucketOfLine e.1 = bucketOfLine line)).length)

/-- Overlay entries of a tract: line and value. -/
def Xlt.ovlOf (a : Xlt) (tract : Nat) : List (Nat × Option (Option Nat)) := a.ovl.filter fun e => decide (e.1 / 64 = tract)

/-- The overlay entry of a line is set (`some none`: poison) or removed, with the valid counts of the strata concerned: a line of a
tract image is valid while the line has no overlay entry (R175, R179). -/
def State.setOvl (s : State) (t : TileId) (line : Nat) (v : Option (Option Nat)) : State :=
  let old := Tab.get none (s.tile t).xlt.ovl line
  let e := s.teAt t (line / 64)
  let s := match old with | some (some la) => s.subValid t (lineStratum la) 1 | _ => s
  let s := match v with | some (some la) => s.addValid t (lineStratum la) 1 | _ => s
  let s := if e.image then
      match old, v with
      | none, some _ => s.subValid t (pageStratum e.loc) 1
      | some _, none => s.addValid t (pageStratum e.loc) 1
      | _, _ => s
    else s
  s.modXlt t fun a => { a with ovl := Tab.put none a.ovl line v }

/-- A tract entry changes, with the valid counts of its old and its new image. -/
def State.moveTe (s : State) (t : TileId) (tract : Nat) (e : Te) : State :=
  let old := s.teAt t tract
  let k := 64 - ((s.tile t).xlt.ovlOf tract).length
  let s := if old.image then s.subValid t (pageStratum old.loc) k else s
  let s := if e.image then s.addValid t (pageStratum e.loc) k else s
  s.setTe t tract e

/-! ### Staging frames released (R132, R172) -/

/-- The frame that a record makes durable goes back: the line's frame where it still is the one packed, else the older frame
that stayed in place. -/
def State.freeFrame (s : State) (t : TileId) (line ord : Nat) : State :=
  s.modAdm t fun a => { a with
    staged := match Tab.find a.staged line with
      | some f => if f.ord = ord then Tab.del line a.staged else Tab.ins line { f with older := f.older - 1, prev := none } a.staged
      | none => a.staged
    stFree := a.stFree + 1 }

/-- Lines (line, order) of a page that was not programmed, or whose record did not apply, are still resident (R172); a frame that a newer
one has replaced goes back. -/
def State.unpack (s : State) (t : TileId) (l : List (Nat × Nat)) : State :=
  l.foldl (fun s e => s.modAdm t fun a => match Tab.find a.staged e.1 with
    | some f =>
      if f.ord = e.2 then { a with staged := Tab.ins e.1 { f with packing := false } a.staged }
      else { a with staged := Tab.ins e.1 { f with older := f.older - 1 } a.staged, stFree := a.stFree + 1 }
    | none => { a with stFree := a.stFree + 1 }) s

/-! ### Folds (R177, R178) -/

/-- FOLD_AT and OV_HIGH in entries, FREE_LOW (XLT_GCCFG). -/
def Xlt.foldAt (a : Xlt) : Nat := let v := a.gccfg.toNat % 128; if v = 0 ∨ 64 < v then 64 else v
def Xlt.ovHigh (a : Xlt) : Nat := max 8 (a.gccfg.toNat / 256 % 16) * 65536
def Xlt.freeLow (a : Xlt) : Nat := a.gccfg.toNat / 4096

/-- A group's rollover image is under way: nothing else moves its tracts (R280). -/
def State.imagedAt (s : State) (t : TileId) (tract : Nat) : Bool := (Tab.get none (s.tile t).sec.imaged (s.slotAt t (tract * 64))).isSome

/-- A tract is about to be unmapped: its record has yet to be formed or programmed. -/
def State.unmapping (s : State) (t : TileId) (tract : Nat) : Bool :=
  (s.tile t).xlt.unmaps.any (fun u => decide (u.1 ≤ tract ∧ tract < u.1 + u.2)) ||
  (s.dueRecs t).any fun r => match r with | .unmap f n => decide (f ≤ tract ∧ tract < f + n) | _ => false

/-- A fold of a tract begins: the codewords of its image and of its overlay lines are read in the background. Ranges that are lost are
skipped (R289), and so is a tract that is being folded, rolled or unmapped. -/
def State.startFold (s : State) (t : TileId) (tract : Nat) : State :=
  if ((s.tile t).xlt.folds.any fun e => decide (e.tract = tract)) || s.lostAt t (tract * 64) || s.imagedAt t tract || s.unmapping t tract then s
  else
    let ents := (s.tile t).xlt.ovlOf tract |>.filterMap fun e => match e.2 with | some (some la) => some (e.1, la) | _ => none
    let e := s.teAt t tract
    let cws := ((if e.image then (List.range 16).map (cwAddr e.loc) else []) ++
      ents.map fun p => BitVec.ofNat 34 (p.2 / 4)).dedup
    let s := s.modXlt t fun a => { a with folds := a.folds ++ [{ tract, oldLoc := e.loc, oldImage := e.image, ents, left := cws }] }
    cws.foldl (fun s c => s.bgFetch t c (.fold tract)) s

/-- The tract with the most overlay entries among candidates; ties take the lowest tract (log 9). -/
def Xlt.busiest (a : Xlt) (tracts : List Nat) : Option Nat :=
  tracts.foldl (fun b x => match b with
    | none => some x
    | some y => if (a.ovlOf y).length < (a.ovlOf x).length then some x else b) none

/-- An entry finds its bucket full: it waits, and a tract of the bucket is folded; DISPLACE counts the folds that this starts (R177). -/
def State.displace (s : State) (t : TileId) (line : Nat) (w : Nat × Option Nat ⊕ PoisonFrom) : State :=
  let a := (s.tile t).xlt
  let tr := (a.ovl.filter fun e => decide (bucketOfLine e.1 = bucketOfLine line)).map fun e => e.1 / 64
  let s := s.modXlt t fun a => { a with displaced := a.displaced ++ [(line, w)] }
  match a.busiest tr.dedup with
  | some x =>
    let n := (s.tile t).xlt.folds.length
    let s := s.startFold t x
    if n < (s.tile t).xlt.folds.length then s.xltCnt t 6 else s
  | none => s

/-- A tract whose overlay entries have reached FOLD_AT is folded (R177). -/
def State.foldCount (s : State) (t : TileId) (tract : Nat) : State :=
  if (s.tile t).xlt.foldAt ≤ ((s.tile t).xlt.ovlOf tract).length then s.startFold t tract else s

/-- A line on the medium takes its overlay entry; a full bucket displaces it. -/
def State.placeEntry (s : State) (t : TileId) (line la : Nat) (ord : Option Nat) : State :=
  if (s.tile t).xlt.bucketFull line then s.displace t line (.inl (la, ord))
  else
    let s := s.setOvl t line (some (some la))
    (match ord with | some o => s.freeFrame t line o | none => s).foldCount t (line / 64)

/-- The line's current location, if it is the given codeword and no newer version stands in staging (R212). -/
def State.stillAt (s : State) (t : TileId) (line : Nat) (cwa : BitVec 34) : Bool :=
  decide (s.placeOf t line = some cwa) && (Tab.find (s.tile t).adm.staged line).isNone

/-- A poison entry still stands for what its line is (R212; Table 11.2, 0x0). -/
def State.poisonHolds (s : State) (t : TileId) (line : Nat) : PoisonFrom → Bool
  | .medium cwa => s.stillAt t line cwa
  | .staging ord => match Tab.find (s.tile t).adm.staged line with | some f => decide (f.ord = ord) | none => false
  | .record => (Tab.find (s.tile t).adm.staged line).isNone

/-- A line takes a poison entry; a full bucket displaces it (R161, R177). -/
def State.placePoison (s : State) (t : TileId) (line : Nat) (w : PoisonFrom) : State :=
  if !s.poisonHolds t line w then match w with | .staging ord => s.unpack t [(line, ord)] | .medium _ => s | .record => s
  else if (s.tile t).xlt.bucketFull line then s.displace t line (.inr w)
  else
    let s := s.setOvl t line (some none)
    (match w with | .staging ord => s.freeFrame t line ord | .medium _ => s | .record => s).foldCount t (line / 64)

/-- Displaced entries try again after a fold has committed. -/
def State.placeDisplaced (s : State) (t : TileId) : State :=
  let d := (s.tile t).xlt.displaced
  let s := s.modXlt t fun a => { a with displaced := [] }
  d.foldl (fun s e => match e.2 with
    | .inl (la, ord) => s.placeEntry t e.1 la ord
    | .inr w => s.placePoison t e.1 w) s

/-! ### Counters of a rolled group (R280, R283) -/

/-- The counters that a group rolls to: MAJOR + 1 under its slot, or MAJOR 0 under a new one (R280, R282, R283). -/
def State.rollTo (s : State) (t : TileId) (slot : Nat) : Ctr :=
  let line := slot * 64
  let old := s.ctrAt t line
  let cur := match s.rgnOfLine t line with | some r => (s.rgn r).cur | none => old.epoch
  { epoch := cur
    major := if old.epoch ≠ cur then 0 else if s.compactAt t line then BitVec.ofNat 56 ((old.major.toNat + 1) % 2 ^ 32) else old.major + 1 }

/-- Groups of a region that are stalled on a tile, in ascending order. -/
def State.stalledIn (s : State) (t : TileId) (r : RegionId) : List Nat :=
  let g := s.rgn r
  sortBy (fun a b => decide (a ≤ b)) ((s.tile t).sec.stalled.filter fun q =>
    decide (g.firstSlot s.part ≤ q ∧ q < g.firstSlot s.part + g.size.toNat * gib / s.part.tiles / 4096))

/-- A group leaves the ripe table and stops rolling; its block takes the value its images were packed under (R280, R283). RGN_CTL.STALLED
clears with the region's last stalled group (R284). -/
def State.rolled (s : State) (t : TileId) (slot : Nat) : State :=
  match Tab.get none (s.tile t).sec.imaged slot with
  | none => s
  | some new =>
    let rekey := decide ((Tab.get {} (s.tile t).sec.ctrs slot).epoch ≠ new.epoch)
    let tracts := (groupLines (s.compactAt t (slot * 64)) slot).map fun l => l / 64
    let s := s.modAdm t fun a => { a with staged := a.staged.map fun e => if tracts.contains (e.1 / 64) then (e.1, { e.2 with prev := none }) else e }
    let was := (s.tile t).sec.stalled.contains slot
    let s := s.modSec t fun a => { a.hold slot true with
      ctrs := Tab.put {} a.ctrs slot new
      ripe := a.ripe.filter fun x => decide (x ≠ slot)
      stalled := a.stalled.filter fun x => decide (x ≠ slot)
      rolling := a.rolling.filter fun e => decide (e.1 ≠ slot)
      imaged := Tab.put none a.imaged slot none
      rollPages := Tab.keep (fun k => !tracts.contains k) a.rollPages }
    let s := s.secCnt t (if rekey then 4 else 3)
    match s.rgnOfLine t (slot * 64) with
    | some r => if was && s.fitted.all fun u => decide (s.stalledIn u r = []) then s.rgnCommit r [.stalled false] else s
    | none => s

/-- The images of a rolled group find other tract entries than they were formed for: the group is to be packed anew. -/
def State.rollAgain (s : State) (t : TileId) (slot : Nat) : State :=
  let tracts := (groupLines (s.compactAt t (slot * 64)) slot).map fun l => l / 64
  s.modSec t fun a => { a with imaged := Tab.put none a.imaged slot none, rollPages := Tab.keep (fun k => !tracts.contains k) a.rollPages }

/-! ### The integrity tree (R275 to R278) -/

/-- A dirty object has been written back: its parent's counter for it rises by 1, which makes the parent dirty (R277); the root's
counters are those of the five objects of level 9. The object is clean unless it has changed since. -/
def State.writeBack (s : State) (t : TileId) (key : Nat) (b : BitVec 512) : State :=
  let l := keyLevel key
  let i := keyIndex key
  let same := decide (s.objBits t key = b)
  let comp := s.compactAt t (i * 64)
  s.modSec t fun a =>
    let a := if (Tab.get none a.cached key).isSome ∧ same = true then a.hold key false else a
    let a := if l < 9 then a.hold (treeKey (l + 1) (i / 8)) true else a
    let a := if l = 0 ∧ same = true then { a with packs := Tab.keep (fun k => decide (slotOf comp k ≠ i)) a.packs } else a
    if l < 9 then { a with versions := Tab.put 0 a.versions key (Tab.get 0 a.versions key + 1) }
    else a.setRoot (a.rootVal.set i (a.rootAt i + 1))

/-- The dirty objects of a counter page. -/
def Sec.dirtyIn (a : Sec) (page : Nat) : List Nat :=
  (a.cached.filter fun e => decide (e.2 = some true) && decide (objectPage e.1 = page)).map fun e => e.1
/-- Counter pages with dirty objects. -/
def Sec.dirtyPages (a : Sec) : List Nat :=
  ((a.cached.filter fun e => decide (e.2 = some true)).map fun e => objectPage e.1).dedup

/-- A LOG or IMAGE record packs lines once more (R292). -/
def State.countPacks (s : State) (t : TileId) (lines : List Nat) : State :=
  s.modSec t fun a => { a with packs := lines.foldl (fun m l => Tab.put 0 m l (Tab.get 0 m l + 1)) a.packs }

/-! ### Records -/

/-- Words of a record (Table 6.7). -/
def JRec.words : JRec → Nat
  | .log _ _ => 42
  | .image _ _ _ _ _ _ _ _ => 4
  | .logMove _ _ _ => 4
  | .imageMove _ _ _ => 3
  | .mapPage _ _ _ _ => 3
  | _ => 2
/-- KIND of a record. -/
def JRec.kind : JRec → Nat
  | .log _ _ => 1
  | .image _ _ _ _ _ _ _ _ => 2
  | .logMove _ _ _ => 3
  | .imageMove _ _ _ => 4
  | .poison _ _ _ => 5
  | .unmap _ _ => 6
  | .mapPage _ _ _ _ => 7
  | .pendErase _ => 8
  | .freed _ => 9
  | .ckpt _ => 10

/-- The words of a record's body. `fill` stands for the line numbers of filler lines (log 131). -/
def JRec.body (fill : BitVec 36) : JRec → List Nat
  | .log page lines =>
    let bytes := (List.range 64).flatMap fun i =>
      leBytes 5 (match lines.find? fun e => decide (e.2.1 % 64 = i) with | some e => e.1 | none => fill.toNat)
    page.toNat :: (List.range 40).map fun j => ofLe (slice bytes (8 * j) 8)
  | .image tract loc oldLoc oldImage entries direct ords _ =>
    [tract, loc.toNat + (oldLoc.toNat <<< 32) + bit 62 oldImage,
     ((if direct then ords.map Prod.fst else entries.map Prod.fst).foldl (fun (b : BitVec 64) l => b ||| (1#64 <<< (l % 64))) 0).toNat]
  | .logMove line old new => [line, old, new]
  | .imageMove tract old new => [tract, old.toNat + (new.toNat <<< 32)]
  | .poison line set _ => [line + bit 36 set]
  | .unmap first n => [first + (n <<< 32)]
  | .mapPage page loc gen _ => [page + (loc.toNat <<< 32), gen.toNat]
  | .pendErase n => [n]
  | .freed n => [n]
  | .ckpt page => [page.toNat]

/-- The bytes of a record with its journal sequence number (R173). -/
def JRec.bytes (fill : BitVec 36) (seq : BitVec 52) (r : JRec) : List Byte :=
  (((r.kind <<< 60) + (r.words <<< 52) + seq.toNat) :: r.body fill).flatMap (leBytes 8)

/-- The words that a record needs in a journal page: the two IMAGE records of a rolled compact group stand in one page (R280). -/
def JRec.room (r : JRec) : Nat := match r with
  | .image _ _ _ _ _ _ _ (some (_, false)) => 8
  | r => r.words

/-- The records that one journal page of 512 words takes (R173), and those that are left. -/
def journalPage : Nat → List JRec → List JRec × List JRec
  | _, [] => ([], [])
  | room, r :: l =>
    if r.room ≤ room then
      let (a, b) := journalPage (room - r.words) l
      (r :: a, b)
    else ([], r :: l)

/-- MED_UNCORR (Table 11.4): CWA, lines given poison, how it was found. -/
def State.uncorr (s : State) (t : TileId) (cwa : BitVec 34) (lines by_ : Nat) : State :=
  s.raise (tsrc t 11) (fld 0 cwa.toNat ||| fld 34 lines ||| fld 42 by_)

/-- Evacuation of an index ends when none of its strata holds data in a lost member's place (R201). -/
def State.evacEnds (s : State) (t : TileId) : State :=
  let held := fun (d : Nat) => (s.tile t).xlt.strata.any fun e =>
    decide (e.1 / 65536 = d) && decide (e.2.st = .opened ∨ e.2.st = .closed ∨ e.2.st = .pendErase) &&
    (s.lostChans t d).any fun c => decide (e.2.narrow.map Fin.val ≠ some c)
  s.modMed t fun a => { a with evacDies := a.evacDies.filter held }

/-- A checkpoint is complete (R176): the anchor names it and the journal from its start, journal pages older than the checkpoint before
it are no longer needed, the witness takes DC, and the root is committed to the ledger (R206, R214, R278). -/
def State.ckptDone (s : State) (t : TileId) (page : BitVec 30) : State :=
  match (s.tile t).xlt.ckptRun with
  | none => s
  | some k =>
    let a := (s.tile t).xlt
    let old := a.ckptPages ++ (a.jpages.filter fun e => decide (e.2 < a.ckpts)).map fun e => e.1
    let s := old.foldl (fun s p => s.subValid t (pageStratum p) 64) s
    let s := s.modMedium t fun m => { m with ckptAt := some page, head := k.head, ckptSpans := k.spans, witness := (s.tile t).med.dc }
    let s := s.modXlt t fun a => { a with
      ckptPages := k.pages.map fun e => e.2
      jpages := a.jpages.filter fun e => decide (a.ckpts ≤ e.2)
      ckpts := a.ckpts + 1, ckptRun := none }
    let s := s.modCtl t fun c => { c with lastCkpt := if c.lastCkpt = 1 then 2 else c.lastCkpt }
    s.commit (baseRoot t.val) (.root (s.tile t).xlt.jseq (s.tile t).sec.rootVal) []

/-- Folds and displaced entries of a range of tracts are given up; the lines of the entries are resident again. -/
def State.dropFolds (s : State) (t : TileId) (inR : Nat → Bool) : State :=
  let fill := fun (j : PageJob) => match j.content with
    | .foldImage tr _ _ _ => if inR tr then { j with content := .filler } else j
    | _ => j
  let prog := fun (g : Prog) => { g with pages := g.pages.map fill }
  let disp := ((s.tile t).xlt.displaced.filter fun e => inR (e.1 / 64)).filterMap fun e => match e.2 with
    | .inl (_, ord) => ord.map fun o => (e.1, o)
    | .inr (.staging ord) => some (e.1, ord)
    | .inr (.medium _) => none
    | .inr .record => none
  let s := s.dropFetches t fun f => match f.owner with | .fold tr => inR tr | _ => false
  let s := s.modMed t fun a => { a with dies := a.dies.map fun e => (e.1, { e.2 with
    prog := e.2.prog.map prog
    changes := e.2.changes.map fun h => { h with failed := h.failed.map prog }
    carry := e.2.carry.map fun k => { k with failed := prog k.failed } }) }
  let s := s.modSch t fun a => { a with runs := a.runs.map fun e =>
    (e.1, e.2.map fun r => { r with page := r.page.map prog }) }
  let s := s.modXlt t fun a => { a with
    folds := a.folds.filter fun f => !inR f.tract
    displaced := a.displaced.filter fun e => !inR (e.1 / 64)
    bgPages := a.bgPages.map fill
    jbuf := a.jbuf.filter fun r => match r with | .image tr _ _ _ _ false _ _ => !inR tr | _ => true }
  s.unpack t disp

/-- The counter objects of a range of tract slots are zero again, with fresh MACs (R291): counter pages that lie wholly in it are as never
written, and the other objects of it are dirty (log 139). `level`: that of the lost range, above which no object is lost. -/
def State.zeroCtrs (s : State) (t : TileId) (a b level : Nat) : State :=
  let inR := fun (l i : Nat) => decide (a ≤ i * 8 ^ l ∧ (i + 1) * 8 ^ l ≤ b)
  let meets := fun (l i : Nat) => decide (i * 8 ^ l < b ∧ a < (i + 1) * 8 ^ l)
  let lost := fun (key : Nat) => decide (keyLevel key ≤ level) && inR (keyLevel key) (keyIndex key)
  let s := s.modSec t fun x => { x with
    ctrs := Tab.keep (fun k => !inR 0 k) x.ctrs
    packs := Tab.keep (fun line => !decide (a ≤ line / 64 ∧ line / 64 < b)) x.packs
    ripe := x.ripe.filter fun k => !inR 0 k
    stalled := x.stalled.filter fun k => !inR 0 k
    versions := Tab.keep (fun key => !(decide (keyLevel key < level) && inR (keyLevel key) (keyIndex key))) x.versions
    cached := Tab.keep (fun key => !lost key) x.cached }
  (s.tile t).xlt.dir.foldl (fun s e =>
    let (p, d) := e
    if p < 2097152 ∨ ctrDirBase ≤ p ∨ d.isEmpty = true ∨ level < pageLevel p then s
    else
      let keys := (List.range 64).map (pageObject p)
      if keys.all lost then
        (s.subValid t (pageStratum d.loc) 64).modXlt t fun x => { x with dir := Tab.put {} x.dir p { d with isEmpty := true, loc := 0 } }
      else (keys.filter fun k => meets (keyLevel k) (keyIndex k)).foldl (fun s k => s.modSec t fun x => x.hold k true) s) s

/-- The part of a lost range in a region has been unmapped: its counters are zero, and the range is cleared once every enabled region that
it meets has been handled (R291). -/
def State.lostHandled (s : State) (t : TileId) (first n : Nat) : State :=
  (s.tile t).sec.lost.foldl (fun s e => match e.2 with
    | none => s
    | some l => (List.finRange 16).foldl (fun s r =>
      let (lo, k) := (s.rgn r).tracts s.part
      let a := max lo l.first.toNat
      let b := min (lo + k) (l.first.toNat + l.width)
      match Tab.get none (s.tile t).sec.lost e.1 with
      | some l =>
        if l.doing.getLsbD r.val ∧ a = first ∧ b = first + n then
          let s := s.zeroCtrs t a b l.level.toNat
          let left := l.regions &&& ~~~(1#16 <<< r.val)
          let open_ := (List.finRange 16).any fun q => left.getLsbD q.val && (s.rgn q).enabled
          let s := s.modSec t fun x => { x with
            lost := Tab.put none x.lost e.1 (some { l with regions := left, doing := l.doing &&& ~~~(1#16 <<< r.val) }) }
          s.commit (baseLost t.val e.1) (.lost l.first l.level l.cause open_ left) (if open_ then [] else [.lostFree t e.1])
        else s
      | none => s) s) s

/-- A journal record has been programmed: the change it records is made (R174, R175). -/
def State.applyRec (s : State) (t : TileId) : JRec → State
  | .log _ lines => lines.foldl (fun s e => s.placeEntry t e.1 e.2.1 (some e.2.2)) (s.countPacks t (lines.map Prod.fst))
  | .image tract loc oldLoc oldImage entries direct ords roll =>
    let e := s.teAt t tract
    let s := s.modXlt t fun a => { a with folds := if direct then a.folds else a.folds.filter fun f => decide (f.tract ≠ tract) }
    if decide (e.loc = oldLoc) && decide (e.image = oldImage) then
      let e : Te := { e with loc, image := true }
      let s := s.moveTe t tract (if direct then e else e.folded s.epoch)
      let s := if direct then ords.foldl (fun s p => s.setOvl t p.1 none) s
        else entries.foldl (fun s p =>
          if Tab.get none (s.tile t).xlt.ovl p.1 = some (some p.2) then s.setOvl t p.1 none else s) s
      let s := ords.foldl (fun s p => s.freeFrame t p.1 p.2) s
      let s := if direct then s.countPacks t ((List.range 64).map fun i => tract * 64 + i) else s
      let s := match roll with | some (slot, true) => s.rolled t slot | _ => s
      (if direct then s else s.xltCnt t 5).placeDisplaced t
    else
      let s := match roll with | some (slot, _) => s.rollAgain t slot | none => s
      ((s.unpack t ords).xltCnt t 9).placeDisplaced t
  | .logMove line old new =>
    if Tab.get none (s.tile t).xlt.ovl line = some (some old) then s.setOvl t line (some (some new)) else s.xltCnt t 9
  | .imageMove tract old new =>
    let e := s.teAt t tract
    if e.image && decide (e.loc = old) then s.moveTe t tract { e with loc := new } else s.xltCnt t 9
  | .poison line true w => s.placePoison t line w
  | .poison line false _ => if Tab.get none (s.tile t).xlt.ovl line = some none then s.setOvl t line none else s
  | .unmap first n =>
    let inR := fun (x : Nat) => decide (first ≤ x ∧ x < first + n)
    let s := ((s.tile t).xlt.ovl.filter fun e => inR (e.1 / 64)).foldl (fun s e => s.setOvl t e.1 none) s
    let s := ((s.tile t).xlt.te.filter fun e => inR e.1 && e.2.image).foldl (fun s e =>
      s.moveTe t e.1 { e.2 with loc := 0, image := false }) s
    let s := (s.dropFolds t inR).lostHandled t first n
    let s := s.placeDisplaced t
    (List.finRange 16).foldl (fun s r =>
      if (s.rgn r).st = .zeroizing ∧ (s.rgn r).tracts s.part = (first, n) then
        s.modRgn r fun g => { g with zeroed := if g.zeroed.contains t then g.zeroed else t :: g.zeroed }
      else s) s
  | .mapPage page loc gen objs =>
    let d := s.dirAt t page
    let s := if d.isEmpty then s else s.subValid t (pageStratum d.loc) 64
    let s := s.addValid t (pageStratum loc) 64
    let s := objs.foldl (fun s k => s.writeBack t k.1 k.2) s
    let s := s.modXlt t fun a => { a with
      dir := Tab.put {} a.dir page { d with loc, isEmpty := false }
      cache := a.cache.map fun e => if e.1 = page then (page, { e.2 with dirty := decide (d.gen ≠ gen) && e.2.dirty }) else e
      ckptRun := a.ckptRun.map fun k =>
        if k.skip.contains page then { k with skip := k.skip.filter fun p => decide (p ≠ page) }
        else { k with todo := k.todo.filter fun p => decide (p ≠ page) } }
    (JRec.mapPage page loc gen objs).pages.foldl (fun s p => s.dirtyPage t p) s
  | .pendErase n => (s.modStratum t n fun g => { g with st := .pendErase }).modXlt t fun a => { a with
      gcPhase := if a.victim = some n then 3 else a.gcPhase }
  | .freed n =>
    let s := s.modStratum t n fun g => { ({} : Stratum) with narrow := g.narrow, st := if g.doomed then .withdrawn else .free }
    (s.modXlt t fun a => { a with
      victim := if a.victim = some n then none else a.victim
      gcPhase := if a.victim = some n then 0 else a.gcPhase }).xltCnt t 7 |>.evacEnds t
  | .ckpt page => s.ckptDone t page

/-- Records wait to be programmed in a journal page (R173). -/
def State.journal (s : State) (t : TileId) (r : List JRec) : State := s.modXlt t fun a => { a with jbuf := a.jbuf ++ r }

/-- POISON records for the lines of a codeword that can be neither read nor rebuilt (R212), with the event. -/
def State.poisonCw (s : State) (t : TileId) (cwa : BitVec 34) (by_ : Nat) : State :=
  let a := (s.tile t).xlt
  let log := a.ovl.filterMap fun e => match e.2 with
    | some (some la) => if BitVec.ofNat 34 (la / 4) = cwa then some e.1 else none
    | _ => none
  let img := a.te.flatMap fun e => if e.2.image ∧ e.2.loc = BitVec.ofNat 30 (cwa.toNat / 16) then
      (List.range 4).map fun i => e.1 * 64 + cwaCw cwa * 4 + i else []
  let lines := (log ++ img).filter fun l => s.stillAt t l cwa
  let s := s.journal t (lines.map fun l => .poison l true (.medium cwa))
  let s := if by_ = 0 then s.medTcnt t 4 lines.length else s
  s.uncorr t cwa lines.length by_

end Sys2Proof.Machine
end

