-- ==== Sys2Proof/Machine/Read.lean ====
section
/-! DEFINITION. Codewords delivered from the medium (R142 to R149, R163, R167, R193, R217), line and tree checks with their
outcomes (R285 to R290), squalls (R70, R286), merges on medium lines (R134). -/

namespace Sys2Proof.Machine

/-! ### Stored payloads -/

/-- The payload of a codeword: the one that a repair has found (R287), as the medium holds it, or as its stratum rebuilds it (R192,
R193). -/
def State.payload (s : State) (t : TileId) (cwa : BitVec 34) : Option (BitVec 2304) :=
  let m := (s.medium t).cws
  match (Tab.find (s.tile t).med.fixed cwa.toNat).or (if s.dieLost t cwa then none else Tab.find m cwa.toNat) with
  | some p => some p
  | none =>
    let sib := (siblings cwa).filter fun a => decide ((s.stratum t (cwaStratum cwa)).narrow ≠ some (cwaChan a))
    let ps := sib.map fun a => if s.dieLost t a then none else Tab.find m a.toNat
    if ps.all fun p => p.isSome then some (ps.foldl (fun x p => x ^^^ p.getD 0) 0) else none

/-- Ciphertext and tag of the line at a line address. -/
def State.storedLine (s : State) (t : TileId) (la : Nat) : Option (Line × BitVec 64) :=
  (s.payload t (BitVec.ofNat 34 (la / 4))).map fun p => (payloadLine p (la % 4), payloadTag p (la % 4))

/-- Lines whose current location is a codeword. -/
def State.linesAt (s : State) (t : TileId) (cwa : BitVec 34) : List Nat :=
  let a := (s.tile t).xlt
  let log := a.ovl.filterMap fun e => match e.2 with
    | some (some la) => if BitVec.ofNat 34 (la / 4) = cwa then some e.1 else none
    | _ => none
  let img := a.te.flatMap fun e => if e.2.image ∧ e.2.loc = BitVec.ofNat 30 (cwa.toNat / 16) then
      ((List.range 4).map fun i => e.1 * 64 + cwaCw cwa * 4 + i).filter fun l => (Tab.get none a.ovl l).isNone else []
  log ++ img

/-- The place in its codeword of a line on the medium. -/
def State.subAt (s : State) (t : TileId) (line : Nat) : Nat := match Tab.get none (s.tile t).xlt.ovl line with
  | some (some la) => la % 4
  | _ => line % 4

/-- A recovered payload stands the check against the tags it carries (R193). -/
def State.ownTags (s : State) (t : TileId) (cwa : BitVec 34) (p : BitVec 2304) : Bool :=
  (s.linesAt t cwa).all fun l => s.lostAt t l || s.tagHolds t l (payloadLine p (s.subAt t l)) (payloadTag p (s.subAt t l))

/-- An object as its counter page on the medium holds it. -/
def State.objOnMedium (s : State) (t : TileId) (key : Nat) : Option (Line × BitVec 64) :=
  (s.payload t (s.objCwa t key)).map fun p => (payloadLine p (keyIndex key % 4), payloadTag p (keyIndex key % 4))

/-- An object verifies (R276): it is in the cache, or its page has never been written, or its MAC matches under its parent's counter and
its parent has verified, up to the root. -/
def State.verifies (s : State) (t : TileId) : Nat → Nat → Bool
  | 0, _ => true
  | n + 1, key =>
    if (Tab.get none (s.tile t).sec.cached key).isSome || (s.dirAt t (objectPage key)).isEmpty then true
    else match s.objOnMedium t key with
      | none => false
      | some (x, m) =>
        let mac := s.objMac t key (s.parentCtr t key) x
        (if keyLevel key = 0 then decide (m = mac) else decide (x.extractLsb' 448 64 = mac)) &&
          State.verifies s t n (treeKey (keyLevel key + 1) (keyIndex key / 8))

/-- A rebuilt payload takes the place of a codeword's copy. -/
def State.fix (s : State) (t : TileId) (cwa : BitVec 34) (p : BitVec 2304) : State :=
  s.modMed t fun a => { a with fixed := Tab.ins cwa.toNat p a.fixed }

/-- The object that a failed tree check is about: the topmost on an object's path that does not verify, else the object itself
(R276). -/
def State.badObject (s : State) (t : TileId) (key : Nat) : Nat :=
  let l := keyLevel key
  let path := (List.range (10 - l)).map fun i => treeKey (l + i) (keyIndex key / 8 ^ i)
  (path.reverse.find? fun k => !s.verifies t 10 k).getD key

/-- A slot's counter block verifies. -/
def State.treeHolds (s : State) (t : TileId) (slot : Nat) : Bool := s.verifies t 10 (treeKey 0 slot)

/-! ### Lost ranges (R288 to R290) -/

/-- Regions that a range of tract slots meets. -/
def State.rangeRegions (s : State) (first width : Nat) : BitVec 16 :=
  (List.finRange 16).foldl (fun b r =>
    let g := s.rgn r
    -- a region's tracts on one tile are contiguous tile-local tracts (R25)
    let lo := g.base.toNat * gib / s.part.tiles / 4096
    let hi := (g.base.toNat + g.size.toNat) * gib / s.part.tiles / 4096
    if g.enabled && decide (lo < first + width ∧ first < hi) then b ||| (1#16 <<< r.val) else b) 0

/-- The range of the lowest common ancestor of two ranges (R290). -/
def joinRange (a b : Nat × Nat) : Nat × Nat :=
  ((List.range 11).map fun l =>
    let w := if l = 10 then 671088640 else 8 ^ l
    (a.1 / w * w, l)).find? (fun e =>
      let w := if e.2 = 10 then 671088640 else 8 ^ e.2
      let wa := if a.2 = 10 then 671088640 else 8 ^ a.2
      let wb := if b.2 = 10 then 671088640 else 8 ^ b.2
      decide (e.1 ≤ a.1 ∧ a.1 + wa ≤ e.1 + w ∧ e.1 ≤ b.1 ∧ b.1 + wb ≤ e.1 + w)) |>.getD (0, 10)

/-- The ledger body of a LOST entry. -/
def LostR.body (l : LostR) : Body := .lost l.first l.level l.cause true l.regions

/-- The width of a range of a level. -/
def lostWidth (level : Nat) : Nat := if level = 10 then 671088640 else 8 ^ level

/-- A range joined with every entry that it meets, and the entries joined (R290). -/
def joinMet : Nat → Nat × Nat → List (Nat × LostR) → (Nat × Nat) × List (Nat × LostR)
  | 0, x, _ => (x, [])
  | n + 1, x, l =>
    match l.find? fun e => decide (e.2.first.toNat < x.1 + lostWidth x.2 ∧ x.1 < e.2.first.toNat + e.2.width) with
    | none => (x, [])
    | some e =>
      let (y, m) := joinMet n (joinRange (e.2.first.toNat, e.2.level.toNat) x) (l.filter fun q => decide (q.1 ≠ e.1))
      (y, e :: m)

/-- A new lost range (R290): it joins every one it meets; where the table is full it merges with the entry nearest to it by FIRST. The
range takes effect when it has been committed; what it takes in goes on having its effect until then. -/
def State.addLost (s : State) (t : TileId) (first level : Nat) (cause : BitVec 4) : State :=
  let ends := fun (i : Nat) => s.ldg.waits fun d => decide (d = .lostFree t i)
  let tab := ((s.tile t).sec.lost.filterMap fun e => e.2.map fun l => (e.1, l)).filter fun e => !ends e.1
  let w := lostWidth level
  let f := first / w * w
  let free := (List.range 64).find? fun i => (Tab.get none (s.tile t).sec.lost i).isNone && !s.ldg.waits fun d => decide (d = .lostSet t i ∨ d = .lostFree t i)
  let dist := fun (l : LostR) => max l.first.toNat f - min l.first.toNat f
  let near := tab.foldl (fun (b : Option (Nat × LostR)) e => match b with
    | none => some e
    | some x => if dist e.2 < dist x.2 then some e else b) none
  let (rng, met) := match joinMet 64 (f, level) tab, free, near with
    | (x, []), none, some e =>
      let (y, m) := joinMet 64 (joinRange (e.2.first.toNat, e.2.level.toNat) x) (tab.filter fun q => decide (q.1 ≠ e.1))
      (y, e :: m)
    | x, _, _ => x
  let i := match met with | e :: _ => e.1 | [] => free.getD 0
  let l : LostR :=
    { first := BitVec.ofNat 30 rng.1, level := BitVec.ofNat 4 rng.2, cause, regions := s.rangeRegions rng.1 (lostWidth rng.2)
      was := met.flatMap fun e => e.2.inEffect }
  let s := s.modSec t fun a => { a with lost := Tab.put none (met.foldl (fun m e => Tab.del e.1 m) a.lost) i (some l) }
  let s := s.commit (baseLost t.val i) l.body [.lostSet t i]
  let s := met.tail.foldl (fun s e => s.commit (baseLost t.val e.1) (.lost e.2.first e.2.level e.2.cause false e.2.regions) []) s
  s.raise (tsrc t 15) (fld 0 i ||| fld 6 rng.2 ||| fld 10 cause.toNat ||| fld 14 rng.1)

/-! ### The end of a DATA's checks (R70, R286) -/

/-- A DATA with no pending check and no failed one is final; frames held behind it go on. -/
def State.settleData (s : State) (x : SessId) : State :=
  match (s.ses x).unset with
  | some u => if u.pending = 0 ∧ u.failed = 0 then (s.modSes x fun S => { S with unset := none }).flush x else s
  | none => s

/-- The outcome of the check of line `ix` of request `seq` reaches the home tile: before the part has reported the caller
keeps it; after that it concerns the part's result, the frame that waits, or the DATA that has left (R72, R286). -/
def State.outcome (s : State) (x : SessId) (seq : Word) (ix : Nat) (ok : Bool) : State :=
  let b : BitVec 64 := 1#64 <<< ix
  let fixRes := fun (r : PartRes) =>
    if r.pending &&& b = 0 then r
    else { r with
      pending := r.pending &&& ~~~b
      poison := if ok then r.poison else r.poison ||| b
      anyPoison := r.anyPoison || !ok
      status := if ok then r.status else stIntegrity }
  -- the contents of a line that is marked now are a free value (R51, log 1)
  let (v, s) := if ok then ((0 : Line), s) else s.draw 512
  let s := s.modSes x fun S => { S with
    reqs := S.reqs.map fun q => if q.rq.hdr.seq = seq then
        { q with parts := q.parts.map fun p => match p.st with | .done r => { p with st := .done (fixRes r) } | _ => p } else q
    waitQ := S.waitQ.map fun w =>
      if w.rseq = some seq ∧ w.hdr.opcode = opData ∧ (w.pend.any fun p => decide (p.1 = ix)) = true then
        { w with
          pend := w.pend.filter fun p => decide (p.1 ≠ ix)
          hdr := if ok then w.hdr else { w.hdr with status := stIntegrity, flags := w.hdr.flags ||| 1 }
          payload := if ok then w.payload
            else beBytes 8 ((BitVec.ofNat 64 (ofBe (w.payload.take 8)) ||| b).toNat) ++ slice w.payload 8 (64 * ix) ++ lineBytes v ++
              w.payload.drop (8 + 64 * (ix + 1)) }
      else w
    unset := S.unset.map fun u => if u.rseq = seq ∧ u.pending &&& b ≠ 0 then
        { u with pending := u.pending &&& ~~~b, failed := if ok then u.failed else u.failed ||| b
                 tiles := u.tiles.filter fun p => decide (p.1 ≠ ix) } else u }
  let s := { s with mesh := s.mesh.map fun (m : Msg) => match m.body with
    | .completion y e q p r => if y = x ∧ q = seq then { m with body := .completion y e q p (fixRes r) } else m
    | _ => m }
  s.settleData x

/-- The SQUALL of a DATA whose checks all have an outcome and some of which failed (R71, R286). -/
def State.squall (s : State) (x : SessId) : State :=
  match (s.ses x).unset with
  | some u =>
    if u.pending = 0 ∧ u.failed ≠ 0 ∧ (s.ses x).st = .live then
      (s.wait x
        { hdr := { opcode := opSquall, status := stIntegrity, flags := flagsOf true false false false false false
                   count := u.count, ref := u.dseq, aux := u.rseq, addr := u.addr }
          payload := beBytes 8 u.failed.toNat, squall := true }).flush x
    else s
  | none => s

/-- The lines of a map. -/
def mapLines (b : BitVec 64) : List Nat := (List.range 64).filter fun i => b.getLsbD i

/-- Results of session `x` that a tile has reported with checks pending: on the mesh, or kept for the other part (R153). -/
def State.reportedPending (s : State) (t : TileId) (x : SessId) : List (Word × Nat) :=
  (s.mesh.flatMap fun m => match m.body with
    | .completion y _ q _ r => if m.src = t ∧ y = x then (mapLines r.pending).map fun i => (q, i) else []
    | _ => []) ++
  (s.ses x).reqs.flatMap fun q => q.parts.flatMap fun p => match p.st with
    | .done r => if p.tile = t then (mapLines r.pending).map fun i => (q.rq.hdr.seq, i) else []
    | _ => []

/-- Checks pending on a tile that undergoes a tile fault reset count as failed: in a DATA that has left, in one that waits, and in
one not yet formed (R153). -/
def State.failPending (s : State) (t : TileId) : State :=
  (List.finRange 64).foldl (fun s x =>
    let S := s.ses x
    let l1 := match S.unset with | some u => u.tiles.map fun p => (u.rseq, p) | none => []
    let l2 := S.waitQ.flatMap fun w => w.pend.map fun p => (w.rseq.getD 0, p)
    let s := (l1 ++ l2).foldl (fun s e => if e.2.2 = t then s.outcome x e.1 e.2.1 false else s) s
    let s := (s.reportedPending t x).foldl (fun s e => s.outcome x e.1 e.2 false) s
    s.squall x) s

/-! ### Delivery (R142, R146) -/

/-- Line `i` of a cell arrives from the medium in payload `p` at place `sub`, with its counter at hand: a read is handed
over with its checks pending; a merge waits for them (R134, R285). -/
def State.deliverLine (s : State) (t : TileId) (id i : Nat) (y : BitVec 2304) (sub : Nat) (retry : Bool) : State :=
  match s.cell? t id with
  | none => s
  | some c =>
    let line := c.line i
    let x := payloadLine y sub
    let k := (Tab.get none c.keys i).getD (s.keyOf t line)
    let p := s.openUnder t line x k
    let s := if s.tagUnder t line x (payloadTag y sub) k then s else s.modCell t id fun c => { c with tagBad := i :: c.tagBad }
    if c.op = opRead then s.give t id i p 0 false true retry
    else s.modCell t id fun c => { c with
      phase := Tab.ins i (.checking p false) c.phase, res := { c.res with retry := c.res.retry || retry } }

/-- Line `i` of a cell arrives; with its counter not yet at hand it waits for it (Table 5.6). -/
def State.arriveLine (s : State) (t : TileId) (id i : Nat) (cwa : BitVec 34) (sub : Nat) (token : Option Word) (p : BitVec 2304)
    (retry : Bool) : State :=
  match s.cell? t id with
  | none => s
  | some c =>
    if s.lostAt t (c.line i) then
      if c.op = opRead then s.give t id i 0 2 false false retry else s.execLine t id i 0 2 retry
    else
      let slot := s.slotAt t (c.line i)
      if s.ctrKnown t slot then s.deliverLine t id i p sub retry
      else s.modCell t id fun c => { c with
        phase := Tab.ins i (.counter slot cwa sub token) c.phase, res := { c.res with retry := c.res.retry || retry } }

/-- The lines of a cell that wait for read `id` (index, place). -/
def Cell.waitsOn (c : Cell) (fid : Nat) : List (Nat × Nat) :=
  c.phase.filterMap fun e => match e.2 with | .read f sub => if f = fid then some (e.1, sub) else none | _ => none

/-- A counter block and its ancestors have verified, and enter the cache (R277). -/
def State.ctrVerified (s : State) (t : TileId) (slot : Nat) : State :=
  let known := (treeKey 0 slot :: ancestors slot).filter fun k => !(s.dirAt t (objectPage k)).isEmpty
  s.modSec t fun a => known.foldl Sec.enter { a with arrived := a.arrived.filter fun x => decide (x ≠ slot) }

/-! ### Outcomes of checks (R285 to R287) -/

/-- The cell and the index in it of a line of a request that a tile's logic has in progress: after a tile fault reset none is,
until the walk of its queues (R151, R153). -/
def State.lineCell (s : State) (t : TileId) (pl : PartLine) : Option (Nat × Nat) :=
  if (s.tile t).ctl.replayDue then none else
  (s.queue t pl.sess).findSome? fun id => match s.cell? t id with
    | some c => if c.seq = pl.seq ∧ c.first ≤ pl.ix.val ∧ pl.ix.val - c.first < c.n then some (id, pl.ix.val - c.first) else none
    | none => none

/-- A codeword is rebuilt from its stratum in the background (Table 10.7). -/
def State.rebuildNow (s : State) (t : TileId) (cwa : BitVec 34) (o : Owner) : State :=
  let fid := (s.tile t).sch.fid
  let f : Fetch := { cwa, owner := o, since := s.now, stage := .rebuild 0 0 false }
  (s.newFetch t f).startRebuild t fid f

/-- A line's check is pending: of a read that has been delivered, or of a merge that waits for it. -/
def Cell.checks (c : Cell) (i : Nat) : Bool :=
  c.pending.contains i || (match c.phaseAt i with | .checking _ false => true | _ => false)

/-- The outcome of a line's check goes to the merge that waits for it, or to the home tile (R134, R286). -/
def State.lineOutcome (s : State) (t : TileId) (pl : PartLine) (ok : Bool) : State :=
  match s.lineCell t pl with
  | none => s
  | some (id, i) => match s.cell? t id with
    | none => s
    | some c => match c.phaseAt i with
      | .checking d _ =>
        if ok then s.modCell t id fun c => { c with phase := Tab.ins i (.checking d true) c.phase }
        else (s.execLine t id i 0 2).serveWaiting t
      | _ =>
        let s := s.modCell t id fun c => { c with
          pending := c.pending.filter fun j => decide (j ≠ i)
          res := if ok ∨ c.reported then c.res else { c.res with
            poison := c.res.poison ||| (1#64 <<< (c.first + i)), anyPoison := true, status := stIntegrity } }
        if c.reported then
          let s := s.outcome pl.sess pl.seq pl.ix.val ok
          match s.cell? t id with
          | some c => if c.pending = [] then s.release t id else s
          | none => s
        else s

/-- A line's check fails, is counted and reported: how 0 tag, 1 tree, 2 time-out (SEC_CNT, Table 11.4). -/
def State.failLine (s : State) (t : TileId) (pl : PartLine) (how : Nat) : State :=
  match s.lineCell t pl with
  | none => s
  | some (id, i) => match s.cell? t id with
    | none => s
    | some c =>
      let s := (s.secCnt t how).pmc t 0x0F
      (s.raise (tsrc t 17) (fld 0 how ||| fld 2 (c.line i * 64))).lineOutcome t pl false

/-- The lines with a check pending whose counter block lies under an object. -/
def State.checkedUnder (s : State) (t : TileId) (key : Nat) : List PartLine :=
  (s.tile t).adm.cells.flatMap fun e => ((List.range e.2.n).filter fun i =>
    e.2.checks i && decide (s.slotAt t (e.2.line i) / 8 ^ keyLevel key = keyIndex key)).map fun i =>
      { sess := e.2.sess, seq := e.2.seq, ix := ⟨(e.2.first + i) % 64, Nat.mod_lt _ (by decide)⟩ }

/-- The range of an object is lost (R288). -/
def State.loseObject (s : State) (t : TileId) (key : Nat) (cause : BitVec 4) : State :=
  s.addLost t (keyIndex key * 8 ^ keyLevel key) (keyLevel key) cause

/-- An object's MAC does not match: every line that is checked against it fails, and its codeword is rebuilt in the background (R287). -/
def State.treeFails (s : State) (t : TileId) (key : Nat) : State :=
  let s := (s.checkedUnder t key).foldl (fun s pl => s.failLine t pl 1) s
  let s := s.modSec t fun a => { a with arrived := a.arrived.filter fun x => decide (x / 8 ^ keyLevel key ≠ keyIndex key) }
  if s.reading t (.repair key) then s
  else if (s.dirAt t (objectPage key)).isEmpty then s.loseObject t key 3
  else s.rebuildNow t (s.objCwa t key) (.repair key)

/-- The rebuild of an object that failed has ended: if the rebuilt object verifies, it replaces the copy; else its range is lost (R287,
R288). -/
def State.repaired (s : State) (t : TileId) (key : Nat) (cwa : BitVec 34) (p : Option (BitVec 2304)) : State :=
  match p with
  | none => s.loseObject t key 3
  | some y =>
    let s' := s.fix t cwa y
    if s'.verifies t 10 key then s'.modSec t fun a => a.enter key else s.loseObject t key 3

/-- Some line of an armed part is served under a slot's counter, or its checks are pending. -/
def State.ctrInUse (s : State) (t : TileId) (slot : Nat) : Bool :=
  (s.tile t).adm.cells.any fun e =>
    (e.2.phase.any fun p => match p.2 with
      | .read _ _ => decide (s.slotAt t (e.2.line p.1) = slot)
      | .counter g _ _ _ => decide (g = slot)
      | .checking _ _ => decide (s.slotAt t (e.2.line p.1) = slot)
      | _ => false) || e.2.pending.any fun i => decide (s.slotAt t (e.2.line i) = slot)

/-- A read was made under a token whose page has been committed anew since: its lines are looked up on the normal path (R167). -/
def State.tokenStale (s : State) (t : TileId) (line : Nat) (token : Option Word) : Bool :=
  match token with | some g => decide ((s.dirAt t (line / 64 / 512)).gen ≠ g) | none => false
def State.readAgain (s : State) (t : TileId) (id : Nat) (ix : List Nat) : State :=
  let s := (s.xltCnt t 4).modCell t id fun c => { c with
    tokens := [], res := { c.res with stale := true }
    phase := c.phase.map fun e => if ix.contains e.1 then (e.1, Phase.todo) else e }
  let s := s.modAdm t fun a => { a with merging := a.merging.filter fun m => match m.2 with
    | some (i, j) => !(decide (i = id) && ix.contains j)
    | none => false }
  s.serveCell t id

/-- A counter block is at hand, unverified: lines that waited for it are delivered under it (R285). Where no line is checked under it, the
tile verifies it at once; a block that does not verify is rebuilt (R276, R277, Table 10.7). -/
def State.ctrFetched (s : State) (t : TileId) (slot : Nat) : State :=
  let s := s.dropFetches t fun f => decide (f.owner = .counter slot)
  let s := s.modSec t fun a => { a with fetching := a.fetching.filter fun x => decide (x ≠ slot) }
  if s.ctrInUse t slot then
    let s := s.modSec t fun a => { a with arrived := if a.arrived.contains slot then a.arrived else slot :: a.arrived }
    (s.tile t).adm.cells.foldl (fun s e => e.2.phase.foldl (fun s p => match p.2 with
      | .counter g cwa sub token =>
        if g ≠ slot then s
        else if s.tokenStale t (e.2.line p.1) token then s.readAgain t e.1 [p.1]
        else match s.payload t cwa with
          | some y => s.deliverLine t e.1 p.1 y sub false
          | none => s
      | _ => s) s) s
  else if s.treeHolds t slot then s.ctrVerified t slot
  else s.treeFails t (s.badObject t (treeKey 0 slot))

/-- A counter block that cannot be read or rebuilt: its range is lost, and lines that waited for it are poisoned (R288, R289). -/
def State.ctrLost (s : State) (t : TileId) (slot : Nat) (cause : BitVec 4) : State :=
  let s := (s.modSec t fun a => { a with fetching := a.fetching.filter fun x => decide (x ≠ slot) }).addLost t slot 0 cause
  (s.tile t).adm.cells.foldl (fun s e => e.2.phase.foldl (fun s p => match p.2 with
    | .counter g _ _ _ =>
      if g = slot then
        if e.2.op = opRead then s.give t e.1 p.1 0 2 else s.execLine t e.1 p.1 0 2
      else s
    | _ => s) s) s

/-- A map page is at hand: every part that waited for it goes on with its lookup (R163). -/
def State.mapFetched (s : State) (t : TileId) (page : Nat) : State :=
  let s := (s.cacheIn t page false).dropFetches t fun f => decide (f.owner = .mapPage page)
  let s := s.modXlt t fun a => { a with fetching := a.fetching.filter fun x => decide (x ≠ page) }
  -- a page of the counter directory: the objects whose places it names are fetched (R278)
  let s := if page < ctrDirBase then s else
    ((s.tile t).sec.fetching ++ (s.tile t).sec.arrived).dedup.foldl (fun s q =>
      let s := if (s.tile t).sec.fetching.contains q && !s.reading t (.counter q) && s.ctrDirKnown t (ctrPage q) then
          (if (s.dirAt t (ctrPage q)).isEmpty then s.ctrFetched t q else s.bgFetch t (s.ctrCwa t q) (.counter q)) else s
      (ancestors q).foldl (fun s k => if ctrDirOf (objectPage k) = page then s.wantNode t k else s) s) s
  (s.tile t).adm.cells.foldl (fun s e =>
    if e.2.phase.any fun p => decide (p.2 = .map page) then
      let s := s.modCell t e.1 fun c => { c with
        phase := c.phase.map fun p => if p.2 = .map page then (p.1, Phase.todo) else p }
      let s := s.modAdm t fun a => { a with merging := a.merging.filter fun m => match m.2 with
        | some (i, j) => !(decide (i = e.1) && (e.2.phase.any fun p => decide (p = (j, .map page))))
        | none => false }
      s.serveCell t e.1
    else s) s

/-- A needed MAP-stream item that cannot be read takes the tile out of service (R213); a page still cached is written back. -/
def State.mapLost (s : State) (t : TileId) (page : BitVec 30) : State :=
  let s := s.modMed t fun a => { a with mapLost := some page }
  let s := s.modCtl t fun a => { a with st := .out, stopCause := 4 }
  s.raise (tsrc t 12) (fld 0 page.toNat)

/-- Pages that a recovery from the newest checkpoint needs: those of the checkpoint, and the journal from the head that the anchor names
(R157, R184). -/
def State.neededPages (s : State) (t : TileId) : List (BitVec 30) :=
  let a := (s.tile t).xlt
  let j := a.jpages.map fun e => e.1
  a.ckptPages ++ match (s.medium t).head with
    | some h => if j.contains h then j.dropWhile fun p => decide (p ≠ h) else j
    | none => j

/-- An unreadable MAP-stream codeword (R213, Table 10.8): a superseded item is only counted; a cached map page is written back; counter
objects make lost ranges; anything else that is still needed, a journal page or a page of the newest checkpoint among them, takes the tile
out of service. -/
def State.mapUnreadable (s : State) (t : TileId) (cwa : BitVec 34) : State :=
  let pg : BitVec 30 := BitVec.ofNat 30 (cwa.toNat / 16)
  let a := (s.tile t).xlt
  match a.dir.find? fun e => !e.2.isEmpty && decide (e.2.loc = pg) with
  | none =>
    let run : List (BitVec 30) := match a.ckptRun with | some k => k.pages.map Prod.snd | none => []
    if (s.neededPages t).contains pg || run.contains pg then s.mapLost t pg else s
  | some (p, _) =>
    if 2097152 ≤ p ∧ p < ctrDirBase then
      let l := pageLevel p
      (List.range 4).foldl (fun s i => s.addLost t (((p - levelBase l) * 64 + cwaCw cwa * 4 + i) * 8 ^ l) l 1) s
    else if s.cachedPage t p then
      s.modXlt t fun a => { a with mapPages := a.mapPages ++ [{ stream := .map, content := .mapItem p 0 [], gc := true }] }
    else s.mapLost t pg

/-- A pull read of a codeword for a rolling group is under way. -/
def State.pulling (s : State) (t : TileId) (slot : Nat) (cwa : BitVec 34) : Bool :=
  (s.tile t).sch.fetches.any fun e => match e.2 with | some f => decide (f.owner = .pull slot ∧ f.cwa = cwa) | none => false

/-- The pulled lines of a rolling group arrive (R280). -/
def State.pulled (s : State) (t : TileId) (slot : Nat) (cwa : BitVec 34) (ok : Bool) : State :=
  match (s.tile t).sec.rolling.find? fun e => decide (e.1 = slot) with
  | none => s
  | some e =>
    let here := e.2.filter fun l => decide (s.placeOf t l = some cwa)
    let s := s.modSec t fun a => { a with rolling := a.rolling.map fun q => if q.1 = slot then (slot, q.2.filter fun l => !here.contains l) else q }
    let s := if ok then s else s.poisonCw t cwa 2
    let s := here.foldl (fun s l =>
      let sub := match Tab.get none (s.tile t).xlt.ovl l with | some (some la) => la % 4 | _ => l % 4
      let data := match s.payload t cwa with | some p => s.openLine t l (payloadLine p sub) | none => 0
      s.modAdm t fun a =>
        if ok && (Tab.find a.staged l).isNone then
          { a with staged := Tab.ins l { data, ord := a.ord, pulled := true } a.staged, ord := a.ord + 1 }
        else { a with stFree := a.stFree + 1 }) s
    -- lines that have moved since their pulls were linked are read where they are now; lines with no location need no pull
    let rest := e.2.filter fun l => !here.contains l
    let gone := rest.filter fun l => (s.placeOf t l).isNone
    let s := s.modAdm t fun a => { a with stFree := a.stFree + gone.length }
    let s := s.modSec t fun a => { a with rolling := a.rolling.map fun q => if q.1 = slot then (slot, q.2.filter fun l => !gone.contains l) else q }
    (rest.filterMap (s.placeOf t)).dedup.foldl (fun s a => if s.pulling t slot a then s else s.bgFetch t a (.pull slot)) s

/-- A background read of a fold, of a collection, of a rolling group, of a carry-over, of a recovery, or a rebuild for patrol, has ended. -/
def State.bgRead (s : State) (t : TileId) (o : Owner) (cwa : BitVec 34) (ok : Bool) : State :=
  match o with
  | .fold tract =>
    let s := s.modXlt t fun a => { a with folds := a.folds.map fun e =>
      if e.tract = tract then { e with left := e.left.filter fun c => decide (c ≠ cwa) } else e }
    if ok then s else s.poisonCw t cwa 2
  | .collect _ =>
    let s := s.modXlt t fun a => { a with gcLeft := a.gcLeft.filter fun c => decide (c ≠ cwa) }
    if ok then s else if (s.stratum t (cwaStratum cwa)).stream = .map then s.mapUnreadable t cwa else s.poisonCw t cwa 2
  | .pull slot => s.pulled t slot cwa ok
  | .carry i =>
    let s := s.modDie t (i / 8) (i % 8) fun x => { x with carry := x.carry.map fun k => { k with left := k.left.filter fun a => decide (a ≠ cwa) } }
    if ok then s else if (s.stratum t (cwaStratum cwa)).stream = .map then s.mapUnreadable t cwa else s.poisonCw t cwa 2
  | .recovery => if ok then s else s.modCtl t fun c => { c with recBad := c.recBad ++ [cwa] }
  | .patrol => s.modMed t fun a => { a with pfound := some (if ok then .rebuilt else .lost) }
  | _ => s

/-- A codeword read ends with payload `p`, or fails after retry and rebuild. -/
def State.endRead (s : State) (t : TileId) (fid : Nat) (f : Fetch) (p : Option (BitVec 2304)) : State :=
  let s := s.setFetch t fid none
  let retry := decide (f.stage ≠ .first)
  let c := (cwaChan f.cwa).val
  let s := match f.stage with
    | .rebuild _ _ _ => s.medCcnt t c (if p.isSome then 5 else 6)
    | _ => s
  match f.owner with
  | .part id =>
    match s.cell? t id with
    | none => s
    | some cell =>
      if cell.waitsOn fid ≠ [] ∧ s.tokenStale t (cell.line 0) f.token = true then s.readAgain t id ((cell.waitsOn fid).map fun q => q.1)
      else match p with
        | some y => (cell.waitsOn fid).foldl (fun s q => s.arriveLine t id q.1 f.cwa q.2 f.token y retry) s
        | none =>
          let s := s.poisonCw t f.cwa 1
          (cell.waitsOn fid).foldl (fun s q =>
            if cell.op = opRead then s.give t id q.1 0 1 false false true else s.execLine t id q.1 0 1 true) s
  | .mapPage page =>
    if p.isNone then (s.dropFetches t fun f => decide (f.owner = .mapPage page)).mapLost t (BitVec.ofNat 30 (f.cwa.toNat / 16))
    else if s.reading t (.mapPage page) then s
    else s.mapFetched t page
  | .counter slot => if p.isSome then s.ctrFetched t slot else s.ctrLost t slot 1
  | .check cwa line =>
    -- Table 10.7: a rebuilt line that verifies makes a refresh victim, another takes persistent poison
    match p with
    | none => if s.stillAt t line cwa then (s.journal t [.poison line true (.medium cwa)]).uncorr t cwa 1 3 else s
    | some y =>
      if s.tagHolds t line (payloadLine y (s.subAt t line)) (payloadTag y (s.subAt t line)) then
        (s.fix t cwa y).modStratum t (cwaStratum cwa) fun g => { g with refresh := true }
      else if s.stillAt t line cwa then (s.journal t [.poison line true (.medium cwa)]).uncorr t cwa 1 3 else s
  | .node key =>
    if p.isNone then s.loseObject t key 1
    else if s.verifies t 10 key then s.modSec t fun a => a.enter key
    else s.treeFails t (s.badObject t key)
  | .repair key => s.repaired t key f.cwa p
  | .child par => match s.fetch? t par with
    | some g => match g.stage with
      | .rebuild left acc bad => s.setFetch t par (some { g with
          stage := .rebuild (left - 1) (acc ^^^ p.getD 0) (bad || p.isNone) })
      | _ => s
    | none => s
  | o => s.bgRead t o f.cwa p.isSome

/-- Whether a read is foreground work, or a rebuild read of such (R145, Table 8.4). -/
def State.foreground (s : State) (t : TileId) (f : Fetch) : Bool := match f.owner with
  | .child par => match s.fetch? t par with | some g => g.owner.granted | none => false
  | o => o.granted

/-- A codeword read that was issued has been decoded, or has not (R146). An unprogrammed codeword never decodes (R190). A read of a recovery
tries each older set in turn (R217). -/
def State.decoded (s : State) (t : TileId) (fid : Nat) (ok : Bool) : State :=
  match s.fetch? t fid with
  | none => s
  | some f =>
    if f.flying = false then s
    else
      let c := (cwaChan f.cwa).val
      -- the die has acknowledged a command (R200)
      let s := s.modDie t c (cwaDie f.cwa).val fun x => { x with timeouts := 0 }
      match if ok then Tab.find (s.medium t).cws f.cwa.toNat else none with
      | some p =>
        -- what a calibration read finds is reported by PATROL_FINDING; a retry for patrol gives the codeword (Table 7.7)
        if f.owner = .patrol then
          if f.stage = .retry then (s.setFetch t fid none).modMed t fun a => { a with pfound := some .retried } else s
        else s.endRead t fid f (some p)
      | none =>
        let survey := (s.stratum t (cwaStratum f.cwa)).uncertain
        if f.owner = .patrol ∧ survey = true then s
        else if f.stage = .first ∨ (f.owner = .recovery ∧ f.stage = .retry ∧ f.bucket < 15) then
          let older := if survey = true ∧ f.owner ≠ .recovery then (s.stratum t (cwaStratum f.cwa)).bucket.toNat else min (f.bucket + 1) 15
          let s := s.medCcnt t c 4
          s.setFetch t fid (some { f with
            stage := .retry, flying := false, since := s.now, ahead := s.foreground t f, bucket := older })
        else match f.owner with
          | .child _ => s.endRead t fid f none
          | _ => s.startRebuild t fid f

/-- The rebuild reads of a codeword are complete (R193). -/
def State.rebuilt (s : State) (t : TileId) (fid : Nat) : State :=
  match s.fetch? t fid with
  | none => s
  | some f => match f.stage with
    | .rebuild left acc bad =>
      if left = 0 then s.endRead t fid f (if bad || !s.ownTags t f.cwa acc then none else some acc) else s
    | _ => s

/-! ### Checks -/

/-- A line's check has an outcome: how 0 tag, 1 tree, 2 time-out (R285, R286, Table 10.7). -/
def State.checked (s : State) (t : TileId) (pl : PartLine) (ok : Bool) (how : Nat) : State :=
  match s.lineCell t pl with
  | none => s
  | some (id, i) => match s.cell? t id with
    | none => s
    | some c =>
      if c.checks i = false then s
      else
        let slot := s.slotAt t (c.line i)
        if ok = false ∧ how = 1 then s.treeFails t (s.badObject t (treeKey 0 slot))
        else
          let s := s.modSec t fun a => { a with arrived := a.arrived.filter fun x => decide (x ≠ slot) }
          if ok then s.lineOutcome t pl true
          else
            let s := s.failLine t pl how
            match how, s.placeOf t (c.line i) with
            | 0, some cwa => s.rebuildNow t cwa (.check cwa (c.line i))
            | _, _ => s

/-- What the checks of a line find (R285): the tag as it was delivered, and the tree over its block; `tagOk` and `treeOk` say whether what
the medium gave was as it was programmed. Nothing while the reads of the tree check are under way. -/
def State.checks (s : State) (t : TileId) (pl : PartLine) (tagOk treeOk : Bool) : State :=
  match s.lineCell t pl with
  | none => s
  | some (id, i) => match s.cell? t id with
    | none => s
    | some c =>
      let slot := s.slotAt t (c.line i)
      if s.treeBusy t slot then s
      else
        let tag := tagOk && !c.tagBad.contains i
        -- a block in the cache has verified already (R277)
        let tree := (treeOk || (Tab.get none (s.tile t).sec.cached (treeKey 0 slot)).isSome) && s.treeHolds t slot
        ((if tree then s.ctrVerified t slot else s).checked t pl (tag && tree) (if tag then 1 else 0))

/-- A merge on a medium line whose checks have passed (R134, Table 5.4). -/
def State.merged (s : State) (t : TileId) (pl : PartLine) : State :=
  match s.lineCell t pl with
  | none => s
  | some (id, i) => match s.cell? t id with
    | none => s
    | some c => match c.phaseAt i with
      | .checking d true => ((s.setSpan t (c.line i)).execLine t id i d 0).serveWaiting t
      | _ => s

end Sys2Proof.Machine
end

