-- ==== Sys2Proof/Machine/Pack.lean ====
section
/-! DEFINITION. The packer and the binding of pages to runs (R170 to R172, R178, R181, R191, R192, R228, R280), and what a
page's program makes durable (R172 to R174, R179, R207). -/

namespace Sys2Proof.Machine

/-! ### Strata and page positions -/

/-- The channel a narrow stratum lacks; a FREE stratum of an index with a lost die is narrow (R201). -/
def State.narrowOf (s : State) (t : TileId) (n : Nat) : Option ChanId :=
  let g := s.stratum t n
  if g.st = .free then (match s.lostChans t (n / 65536) with | c :: _ => some ⟨c % 8, Nat.mod_lt _ (by decide)⟩ | [] => none)
  else g.narrow

/-- The parity channel of a stratum (R191, R201), and the channels that hold its data. -/
def State.parityOf (s : State) (t : TileId) (n : Nat) : Nat := match s.narrowOf t n with
  | some x => parityChanNarrow n x.val
  | none => parityChan n
def State.dataChans (s : State) (t : TileId) (n : Nat) : List Nat :=
  (List.range 8).filter fun c => decide (c ≠ s.parityOf t n) &&
    (match s.narrowOf t n with | some x => decide (c ≠ x.val) | none => true)

/-- A stratum may be opened: it is FREE, and its die index is not under evacuation (R179, R201). -/
def State.mayOpen (s : State) (t : TileId) (n : Nat) : Bool :=
  decide (n < 524288) && decide ((s.stratum t n).st = .free) && !((s.tile t).med.evacDies.contains (n / 65536))

/-- The slab of a stratum on a channel is being retired, or its replacement has yet to be recorded: no further page position of it is
programmed until that has been done (R197). -/
def State.replacing (s : State) (t : TileId) (c n : Nat) : Bool :=
  let x := s.die t c (n / 65536)
  decide (x.carry.map (fun k => k.failed.stratum) = some n) || x.changes.any fun h => decide (h.failed.map Prog.stratum = some n)

/-- An open stratum of a stream at a die index with room on a data channel; else a FREE one, the lowest (log 9). -/
def State.pickStratum (s : State) (t : TileId) (stream : Stream) (c d : Nat) : Option Nat :=
  match (s.tile t).xlt.strata.find? fun e => decide (e.2.st = .opened ∧ e.2.stream = stream ∧ e.1 / 65536 = d) &&
      (s.dataChans t e.1).contains c && decide (Tab.get 0 e.2.next c < 64) && !s.replacing t c e.1 with
  | some e => some e.1
  | none =>
    let l := (s.tile t).xlt.strata.filterMap fun e => if e.1 / 65536 = d then some e.1 else none
    -- at most one listed stratum more than the candidates tried keeps every candidate busy
    (List.range (l.length + 2)).map (fun i => d * 65536 + i) |>.find? fun n =>
      s.mayOpen t n && (s.dataChans t n).contains c

/-- A stratum opens (R179, R207). -/
def State.openStratum (s : State) (t : TileId) (n : Nat) (stream : Stream) : State :=
  if (s.stratum t n).st = .free then
    let x := s.narrowOf t n
    s.modStratum t n fun _ => { narrow := x, stream, st := .opened, openedDc := (s.tile t).med.dc.toNat }
  else s

/-! ### What may be packed -/

/-- A staged line that a claim has taken is not packed while the claim is pending (R132). -/
def State.claimed (s : State) (t : TileId) (line : Nat) : Bool :=
  (s.tile t).adm.cells.any fun e => decide (e.2.st = .claimed) && isWrite e.2.op && (e.2.ix? line).isSome

/-- A line may be packed but for its counter: unpacked, with no older frame of it still being packed (R132), under a major that may still
be used (R279), outside lost ranges (R289) and ranges being unmapped (R291), with no claim pending on it (R132), not pulled for a rollover (R280), and with no older
read of its session to be served from the medium (R69). -/
def State.packableFrame (s : State) (t : TileId) (line : Nat) (f : Staged) : Bool :=
  !f.packing && !f.pulled && decide (f.older = 0) && !s.lostAt t line && !s.unmapping t (line / 64) && !s.groupRipe t line && !s.claimed t line &&
  !((s.tile t).sec.rolling.any fun e => decide (e.1 = s.slotAt t line)) && (s.rgnOfLine t line).isSome && !s.pinnedAt t line

/-- A slot's counter block is at hand and verified: cached, or in a counter page never written (R277). -/
def State.ctrReady (s : State) (t : TileId) (slot : Nat) : Bool :=
  (Tab.get none (s.tile t).sec.cached slot).isSome || (s.ctrDirKnown t (ctrPage slot) && (s.dirAt t (ctrPage slot)).isEmpty)

/-- A pack would give the line its last minor in a group that is not in the ripe table (R279). -/
def State.ripens (s : State) (t : TileId) (line : Nat) : Bool :=
  decide ((s.nextCtr t line).2 = lastMinor (s.compactAt t line)) && !(s.tile t).sec.ripe.contains (s.slotAt t line)

/-- The counter of a line may advance: its block is at hand and verified, with room for it among the dirty objects (R277). -/
def State.mayBump (s : State) (t : TileId) (line : Nat) : Bool :=
  let slot := s.slotAt t line
  s.ctrReady t slot && (decide (Tab.get none (s.tile t).sec.cached slot = some true) || (s.tile t).sec.room)

def State.packable (s : State) (t : TileId) (line : Nat) (f : Staged) : Bool := s.packableFrame t line f && s.mayBump t line

/-- Lines in order, without those that would make more than `n` groups ripe: the ripe table has room for no more (R279). -/
def State.capRipe (s : State) (t : TileId) : Nat → List (Nat × Nat) → List (Nat × Nat)
  | _, [] => []
  | n, e :: l =>
    if s.ripens t e.1 then match n with
      | 0 => State.capRipe s t 0 l
      | n + 1 => e :: State.capRipe s t n l
    else e :: State.capRipe s t n l

/-- Packable lines in arming order: line, order. -/
def State.packList (s : State) (t : TileId) : List (Nat × Nat) :=
  s.capRipe t (65536 - (s.tile t).sec.ripe.length) (sortBy (fun a b => decide (a.2 ≤ b.2))
    (((s.tile t).adm.staged.filter fun e => s.packable t e.1 e.2 && !e.2.poison).map fun e => (e.1, e.2.ord)))

/-- The tracts all of whose lines are packable: each makes a direct image (R171). In the order of their oldest lines. -/
def fullTracts (l : List (Nat × Nat)) : List Nat :=
  ((l.filter fun e => (List.range 64).all fun i => l.any fun q => decide (q.1 = e.1 / 64 * 64 + i)).map fun e => e.1 / 64).dedup

/-- The log codewords that lines in arming order make (R171): a group all of whose lines are packable fills one, in address order; other
lines fill further ones as they come. Complete codewords come in the order in which they are complete; `part` is the one being filled. -/
def logCws (all : List (Nat × Nat)) : List (Nat × Nat) → List (List (Nat × Nat)) → List (Nat × Nat) → List (List (Nat × Nat)) × List (Nat × Nat)
  | [], done, part => (done, part)
  | e :: rest, done, part =>
    let g := (List.range 4).filterMap fun i => all.find? fun q => decide (q.1 = e.1 / 4 * 4 + i)
    if g.length = 4 then logCws all rest (if done.contains g then done else done ++ [g]) part
    else if part.length = 3 then logCws all rest (done ++ [part ++ [e]]) []
    else logCws all rest done (part ++ [e])

/-- The 64 places of a log page, in sixteen codewords: line and order, `none` for filler. A codeword that is not complete is taken where
there are fewer than sixteen others. -/
def logPlaces (all : List (Nat × Nat)) : List (Option (Nat × Nat)) :=
  let (done, part) := logCws all all [] []
  let p := (done.take 16 ++ if done.length < 16 then [part] else []).flatMap fun l => l.map some
  p ++ List.replicate (64 - p.length) none

/-- A page of sixteen codewords from 64 lines with their tags. -/
def pageOf (l : List (Line × BitVec 64)) : List (BitVec 2304) :=
  (List.range 16).map fun j => payloadOf ((l.drop (4 * j)).take 4)

/-- Lines are marked as being packed, their counters advance (R273), and they are sealed. -/
def State.sealPlaces (s : State) (t : TileId) (places : List (Option (Nat × Nat))) : List (BitVec 2304) × State :=
  let was := places.filterMap fun p => p.map fun e => (e.1, s.keyOf t e.1)
  let s := places.foldl (fun s p => match p with | some e => s.bumpMinor t e.1 | none => s) s
  let lines := places.map fun p => match p with
    | some e => match Tab.find (s.tile t).adm.staged e.1 with | some f => s.sealLine t e.1 f.data | none => (0, 0)
    | none => (0, 0)
  let mark := fun (e : Nat × Staged) =>
    if places.contains (some (e.1, e.2.ord)) then
      (e.1, { e.2 with packing := true, prev := (was.find? fun k => decide (k.1 = e.1)).map fun k => k.2 }) else e
  (pageOf lines, s.modAdm t fun a => { a with staged := a.staged.map mark })

/-- Staged lines whose word is uncorrectable take a POISON record in place of a pack (Table 11.2, 0x0). -/
def State.poisonStaged (s : State) (t : TileId) : State :=
  let bad := (s.tile t).adm.staged.filter fun e => e.2.poison && s.packableFrame t e.1 e.2
  let s := s.journal t (bad.map fun e => .poison e.1 true (.staging e.2.ord))
  let mark := fun (e : Nat × Staged) =>
    if (bad.any fun b => decide (b.1 = e.1)) then (e.1, { e.2 with packing := true }) else e
  s.modAdm t fun a => { a with staged := a.staged.map mark }

/-- What packing needs is fetched: counter blocks of the lines armed first (log 127), and the map pages of full tracts (R163, R164). -/
def State.prepPack (s : State) (t : TileId) : State :=
  let l := sortBy (fun a b => decide (a.2 ≤ b.2))
    (((s.tile t).adm.staged.filter fun e => s.packableFrame t e.1 e.2 && !e.2.poison).map fun e => (e.1, e.2.ord))
  let slots := ((l.map fun e => s.slotAt t e.1).dedup.filter fun q => !s.ctrReady t q).take 64
  let s := slots.foldl (fun s q => s.wantCtr t q) s
  (fullTracts (s.packList t)).foldl (fun s tr => s.wantPage t (tr / 512)) s

/-- One page of drain work, of lines that were packable at the decision instant (R171, R220): a direct image or a log page, `none` when there is none; a page that is not full only where `part`
allows. A full tract whose map page cannot be changed yet waits (R163, R164). -/
def State.drainPage (s : State) (t : TileId) (part : Bool) (edge : List (Nat × Nat)) : Option (PageJob × State) :=
  let l := (s.packList t).filter edge.contains
  let full := fullTracts l
  match full.find? fun tr => s.mayChange t (tr / 512) && !((s.tile t).xlt.folds.any fun f => decide (f.tract = tr) && f.paged) with
  | some tr =>
    let places := (List.range 64).map fun i => l.find? fun q => decide (q.1 = tr * 64 + i)
    let (cws, s) := s.sealPlaces t places
    some ({ stream := .hot, cws, content := .image tr (places.filterMap id) none }, s)
  | none =>
    let places := logPlaces (l.filter fun e => !full.contains (e.1 / 64))
    if (places.all fun p => p.isSome) || (part && places.any fun p => p.isSome) then
      let (cws, s) := s.sealPlaces t places
      some ({ stream := .hot, cws, content := .log ((List.range 64).filterMap fun i =>
        (places.getD i none).map fun e => (e.1, e.2 * 64 + i)) }, s)
    else none

/-- Pages for one page position: four, or fewer where `part` allows (R171, R228; log 15). -/
def State.drainPages : Nat → State → TileId → Bool → List (Nat × Nat) → List PageJob × State
  | 0, s, _, _, _ => ([], s)
  | n + 1, s, t, part, edge => match s.drainPage t part edge with
    | some (j, s') =>
      -- the page counts as bound while the others are chosen
      let s' := s'.modXlt t fun a => { a with bgPages := a.bgPages ++ [j] }
      let (r, s'') := State.drainPages n s' t part edge
      (j :: r, s''.modXlt t fun a => { a with bgPages := a.bgPages.filter fun x => decide (x ≠ j) })
    | none => ([], s)

/-- Partial pages are programmed while the tile drains, packs for a stop, or packs reloaded lines (R171). -/
def State.partPages (s : State) (t : TileId) : Bool :=
  (s.tile t).ctl.packing || (s.tile t).ctl.draining || decide ((s.tile t).ctl.st = .starting)

/-- Filler pages complete a page position (R208). -/
def fillTo4 (l : List PageJob) (stream : Stream) : List PageJob :=
  l ++ List.replicate (4 - l.length) { stream, content := .filler, cws := List.replicate 16 0 }

/-! ### MAP pages (R159, R173, R176, R278) -/

/-- A map page in bytes: 512 tract entries (Table 6.2). -/
def State.tracts512 (s : State) (t : TileId) (page : Nat) : List Byte :=
  (List.range 512).flatMap fun i =>
    let e := s.teAt t (512 * page + i)
    leBytes 8 (e.loc.toNat + bit 30 e.image + (e.heat s.epoch <<< 32))

/-- 512 directory entries in bytes (Table 6.3), those of the pages from `first` on. -/
def State.dirs512 (s : State) (t : TileId) (first : Nat) : List Byte :=
  (List.range 512).flatMap fun i =>
    let d := s.dirAt t (first + i)
    leBytes 8 (d.loc.toNat + bit 30 d.isEmpty + (d.gen.toNat <<< 32))

/-- 512 overlay entries in bytes (Table 6.4): 128 buckets, each with its entries in line order (log 128). -/
def State.ovls512 (s : State) (t : TileId) (first : Nat) : List Byte :=
  (List.range 128).flatMap fun i =>
    let l := (s.tile t).xlt.ovl.filter fun e => decide (bucketOfLine e.1 = first + i)
    (List.range 4).flatMap fun j => leBytes 8 (match l[j]? with
      | some (line, v) =>
        let m := (Config.overlayHash (BitVec.ofNat 36 line)).toNat
        m / 262144 + (match v with | some (some la) => la <<< 18 | _ => bit 54 true) + bit 55 true
      | none => 0)

/-- 4 KiB of the written-span bitmap. -/
def spans4k (m : Tab Bool) (first : Nat) : List Byte :=
  (List.range 4096).map fun i => BitVec.ofNat 8 ((List.range 8).map fun j => bit j (Tab.get false m (8 * (first + i) + j))).sum

/-- The bytes of page `k` of a checkpoint's tables (R176): directory, overlay, stratum table, written-span bitmap. The spec does not lay
out the stratum table: its bytes are free values (log 128). -/
def State.tableBytes (s : State) (t : TileId) (spans : Tab Bool) (k : Nat) : List Byte × State :=
  if k < 2560 then (s.dirs512 t (512 * k), s)
  else if k < 4608 then (s.ovls512 t (128 * (k - 2560)), s)
  else if k < 5120 then
    let (x, s) := s.draw 32768
    (leBytes 4096 x.toNat, s)
  else (spans4k spans (4096 * (k - 5120)), s)

/-- The pages of a checkpoint's tables. -/
def tablePages : Nat := 6400

/-- 4 KiB as the 64 lines of a page; the tags of a page that is not line data are free values (log 129). -/
def State.mapCws (s : State) (b : List Byte) : List (BitVec 2304) × State :=
  let (x, s) := s.draw 4096
  (pageOf ((List.range 64).map fun i => (lineOf (slice b (64 * i) 64), x.extractLsb' (64 * i) 64)), s)

/-- The page of an object's parent is at hand: the parent is in the cache, or has never been written (R277). -/
def State.parentReady (s : State) (t : TileId) (key : Nat) : Bool :=
  let up := treeKey (keyLevel key + 1) (keyIndex key / 8)
  decide (keyLevel key = 9) || (Tab.get none (s.tile t).sec.cached up).isSome || (s.dirAt t (objectPage up)).isEmpty

/-- A counter page: its objects, the dirty ones under the next counter of their parents (R276, R277). -/
def State.ctrPageCws (s : State) (t : TileId) (page : Nat) : List (Nat × BitVec 512) × List (BitVec 2304) × State :=
  let dirty := (s.tile t).sec.dirtyIn page
  let (x, s) := s.draw 4096
  let line := fun (k : Nat) =>
    let key := pageObject page k
    let b := s.objBits t key
    let m := s.objMac t key (s.parentCtr t key + (if dirty.contains key then 1 else 0)) b
    if keyLevel key = 0 then (b, m) else (b ||| (m.setWidth 512 <<< 448), x.extractLsb' (64 * k) 64)
  (dirty.map fun k => (k, s.objBits t k), pageOf ((List.range 64).map line), s)

/-- A map page, a counter page or a page of the counter directory as it is written now. -/
def State.formItem (s : State) (t : TileId) (page : Nat) (gc : Bool) : PageJob × State :=
  let gen := (s.dirAt t page).gen
  if 2097152 ≤ page ∧ page < ctrDirBase then
    let (objs, cws, s) := s.ctrPageCws t page
    ({ stream := .map, content := .mapItem page gen objs, cws, gc }, s)
  else
    let b := if page < 2097152 then s.tracts512 t page else s.dirs512 t (2097152 + 512 * (page - ctrDirBase))
    let (cws, s) := s.mapCws b
    ({ stream := .map, content := .mapItem page gen [], cws, gc }, s)

/-- A dirty page may be written back now: a counter page needs the parents of its dirty objects, and its page of the counter directory
(R163, R277, R278). -/
def State.mayWriteBack (s : State) (t : TileId) (page : Nat) : Bool :=
  if 2097152 ≤ page ∧ page < ctrDirBase then
    s.mayChange t (ctrDirOf page) && ((s.tile t).sec.dirtyIn page).all fun k => s.parentReady t k
  else true
def State.wantWriteBack (s : State) (t : TileId) (page : Nat) : State :=
  if 2097152 ≤ page ∧ page < ctrDirBase then
    ((s.tile t).sec.dirtyIn page).foldl (fun s k => if s.parentReady t k then s else s.wantNode t (treeKey (keyLevel k + 1) (keyIndex k / 8)))
      (s.wantPage t (ctrDirOf page))
  else s

/-- The next journal page, of records that waited at the decision instant `e` (R173, R220): one page position at a time carries a journal
page (log 130). -/
def State.formJournal (s : State) (t : TileId) (e : State) : Option (PageJob × State) :=
  let a := (s.tile t).xlt
  let (recs, _) := journalPage 512 (a.jbuf.takeWhile (e.tile t).xlt.jbuf.contains)
  let rest := a.jbuf.drop recs.length
  if recs = [] ∨ ((s.jobs t).any fun j => match j.content with | .journal _ _ => true | _ => false) = true then none
  else
    let first := a.jseq + 1
    let (fill, s) := s.draw 36
    let b := recs.zipIdx.flatMap fun e => e.1.bytes fill (first + BitVec.ofNat 52 e.2)
    let (cws, s) := s.mapCws b
    some ({ stream := .map, content := .journal first recs, cws }, s.modXlt t fun a => { a with jbuf := rest })

/-- A page of the checkpoint's tables, once what was dirty at its start has been written back. -/
def State.formTable (s : State) (t : TileId) : Option (PageJob × State) :=
  match (s.tile t).xlt.ckptRun with
  | none => none
  | some k =>
    -- the checkpoint that ends a packing, a reload or a recovery leaves nothing dirty (log 134)
    let last := decide ((s.tile t).ctl.lastCkpt = 1)
    if k.todo = [] ∧ k.next < tablePages ∧ (last = true → (s.tile t).xlt.dirtyList = [] ∧ (s.tile t).sec.dirtyPages = []) then
      let (b, s) := s.tableBytes t k.spans k.next
      let (cws, s) := s.mapCws b
      some ({ stream := .map, content := .table k.next, cws }, s.modXlt t fun a => { a with ckptRun := some { k with next := k.next + 1 } })
    else none

/-- A page that waits in the MAP stream, formed as it is bound. -/
def State.formWaiting (s : State) (t : TileId) (e : State) : Option (PageJob × State) :=
  match (s.tile t).xlt.mapPages.find? fun j => (e.tile t).xlt.mapPages.contains j && match j.content with | .mapItem p _ _ => s.mayWriteBack t p | _ => true with
  | none => none
  | some j =>
    let s := s.modXlt t fun a => { a with mapPages := a.mapPages.filter fun x => decide (x ≠ j) }
    match j.content with
    | .mapItem p _ _ => some (s.formItem t p j.gc)
    | .copyMap old => some ({ j with cws := (List.range 16).map fun i => (s.payload t (cwAddr old i)).getD 0 }, s)
    | .table k =>
      let (b, s) := s.tableBytes t (match (s.tile t).xlt.ckptRun with | some r => r.spans | none => []) k
      let (cws, s) := s.mapCws b
      some ({ j with cws }, s)
    | _ => some (j, s)

/-- Dirty pages that are not on their way to the medium: those of the checkpoint being taken first, in the order of their numbers. -/
def State.dirtyWork (s : State) (t : TileId) : List Nat :=
  let a := (s.tile t).xlt
  let todo := match a.ckptRun with | some k => sortBy (fun x y => decide (x ≤ y)) k.todo | none => []
  let busy := (s.jobs t).filterMap fun j => match j.content with | .mapItem p _ _ => some p | _ => none
  (todo ++ a.dirtyList ++ (s.tile t).sec.dirtyPages).dedup.filter fun p => !busy.contains p

/-- A write-back of a dirty page. -/
def State.formDirty (s : State) (t : TileId) (e : State) : Option (PageJob × State) :=
  ((s.dirtyWork t).find? fun p => (e.dirtyWork t).contains p && s.mayWriteBack t p).map fun p => s.formItem t p false

/-- The MAP-stream pages of a page position: a journal page, pages that wait, write-backs, pages of a checkpoint. -/
def State.mapWork : Nat → State → TileId → State → List PageJob × State
  | 0, s, _, _ => ([], s)
  | n + 1, s, t, e =>
    match (s.formJournal t e).or ((s.formWaiting t e).or ((s.formDirty t e).or (s.formTable t))) with
    | none => ([], s)
    | some (j, s) =>
      -- the page counts as bound while the others are chosen
      let s := s.modXlt t fun a => { a with bgPages := a.bgPages ++ [j] }
      let (r, s) := State.mapWork n s t e
      (j :: r, s.modXlt t fun a => { a with bgPages := a.bgPages.filter fun x => decide (x ≠ j) })

/-! ### Binding (R228)

What is bound to a run is chosen among the work that was queued before the edge: `e` is the state at the decision instant (R220). -/

/-- Pages take a page position of a stratum on a channel. -/
def State.bindAt (s : State) (t : TileId) (n c : Nat) (stream : Stream) (pages : List PageJob) : Prog × State :=
  let s := s.openStratum t n stream
  let pos := Tab.get 0 (s.stratum t n).next c
  ({ stratum := n, pos, pages }, s.modStratum t n fun g => { g with next := Tab.put 0 g.next c (pos + 1) })

/-- A drain page position for a run to die `d` of channel `c`. -/
def State.bindDrain (s : State) (t : TileId) (c d : Nat) (e : State) : Option (Prog × State) :=
  match s.pickStratum t .hot c d with
  | none => none
  | some n =>
    let part := s.partPages t
    let (l, s') := State.drainPages 4 s t part (e.packList t)
    if l.length = 4 ∨ (part = true ∧ l ≠ []) then some (s'.bindAt t n c .hot (fillTo4 l .hot)) else none

/-- A background page position: up to four pages of one stream, the rest filler (log 15); the stream of the page that waits longest among
those that a stratum is to be had for at the die (R236). -/
def State.bindBg (s : State) (t : TileId) (c d : Nat) (e : State) : Option (Prog × State) :=
  let q := (s.tile t).xlt.bgPages.filter (e.tile t).xlt.bgPages.contains
  (q.map fun j => j.stream).dedup.findSome? fun st =>
    (s.pickStratum t st c d).map fun n =>
      let l := (q.filter fun p => decide (p.stream = st)).take 4
      let s := s.modXlt t fun a => { a with bgPages := a.bgPages.filter fun p => !l.contains p }
      s.bindAt t n c st (fillTo4 l st)

/-- A MAP page position. -/
def State.bindMap (s : State) (t : TileId) (c d : Nat) (e : State) : Option (Prog × State) :=
  match s.pickStratum t .map c d with
  | none => none
  | some n =>
    let (l, s') := State.mapWork 4 s t e
    if l = [] then none else some (s'.bindAt t n c .map (fillTo4 l .map))

/-- The data page positions of a row are done; one of them was cut short, so that no parity covers the row (R190, R192). -/
def State.rowDone (s : State) (t : TileId) (n pos : Nat) : Bool :=
  (s.dataChans t n).all fun k => decide (pos < Tab.get 0 (s.stratum t n).done k)
def State.rowCut (s : State) (t : TileId) (n pos : Nat) : Bool :=
  (s.dataChans t n).any fun k => (s.stratum t n).holes.contains (k, pos)
/-- The parity channel passes over rows that were cut short. -/
def State.skipRows (s : State) (t : TileId) (n c : Nat) : State :=
  (List.range 64).foldl (fun s _ =>
    let p := Tab.get 0 (s.stratum t n).next c
    if p < 64 ∧ s.rowDone t n p = true ∧ s.rowCut t n p = true then s.modStratum t n fun g => { g with next := Tab.put 0 g.next c (p + 1) }
    else s) s

/-- A parity page position whose data positions have all programmed successfully (R192). -/
def State.bindParity (s : State) (t : TileId) (c d : Nat) : Option (Prog × State) :=
  let mine := (s.tile t).xlt.strata.filter fun e => decide ((e.2.st = .opened ∨ e.2.st = .closed) ∧ e.1 / 65536 = d ∧ s.parityOf t e.1 = c) && !s.replacing t c e.1
  let s := mine.foldl (fun s e => s.skipRows t e.1 c) s
  match mine.find? fun e => decide (Tab.get 0 (s.stratum t e.1).next c < 64) && s.rowDone t e.1 (Tab.get 0 (s.stratum t e.1).next c) with
  | none => none
  | some e =>
    let pos := Tab.get 0 (s.stratum t e.1).next c
    let cw := fun (plane j : Nat) => (s.dataChans t e.1).foldl (fun x k =>
      x ^^^ Tab.get 0 (s.medium t).cws (cwAddr (pageAddr e.1 k pos plane) j).toNat) (0 : BitVec 2304)
    let pages := (List.range 4).map fun pl =>
      ({ stream := e.2.stream, content := .parity, cws := (List.range 16).map fun j => cw pl j } : PageJob)
    some ({ stratum := e.1, pos, pages }, s.modStratum t e.1 fun g => { g with next := Tab.put 0 g.next c (pos + 1) })

/-- The next page position that a slab's replacement takes over, once its codewords have been read (R197). A codeword that could be neither
read nor rebuilt leaves the position as it was (R190). -/
def State.bindCarry (s : State) (t : TileId) (c d : Nat) : Option (Prog × State) :=
  match (s.die t c d).carry with
  | none => none
  | some k =>
    if k.next < k.failed.pos ∧ (k.left.all fun a => decide (cwaPage a ≠ k.next)) = true then
      let page := fun (pl : Nat) => ({ stream := (s.stratum t k.failed.stratum).stream, content := .carry
                                       cws := (List.range 16).map fun j =>
                                         (s.payload t (cwAddr (pageAddr k.failed.stratum c k.next pl) j)).getD 0 } : PageJob)
      some ({ stratum := k.failed.stratum, pos := k.next, pages := (List.range 4).map page },
        s.modDie t c d fun x => { x with carry := some { k with next := k.next + 1 } })
    else none

/-! ### Programs end -/

/-- The records a page's program calls for: its page address is known now (R172, R175, R178, R181). -/
def State.pageRecs (s : State) (t : TileId) (addr : BitVec 30) : Content → List JRec
  | .log l => [.log addr (l.map fun e => (e.1, addr.toNat * 64 + e.2 % 64, e.2 / 64))]
  | .image tr ords none => let e := s.teAt t tr; [.image tr addr e.loc e.image [] true ords none]
  | .foldImage tr old oldImg ents => [.image tr addr old oldImg ents false [] none]
  | .copyImage tr old => [.imageMove tr old addr]
  | .copyLog l => (List.range l.length).filterMap fun i => (l[i]?).map fun e => .logMove e.1 e.2 (addr.toNat * 64 + i)
  | .mapItem p gen objs => [.mapPage p addr gen objs]
  | _ => []

/-- A rollover image has been programmed; the IMAGE records of a group are formed together, once all of its images have (R280). -/
def State.rollProgrammed (s : State) (t : TileId) (slot tract : Nat) (addr : BitVec 30) (ords : List (Nat × Nat)) : State :=
  let s := s.modSec t fun a => { a with rollPages := Tab.put none a.rollPages tract (some (addr, ords)) }
  let tracts := if s.compactAt t (slot * 64) then [slot, slot + 1] else [slot]
  if tracts.all fun tr => (Tab.get none (s.tile t).sec.rollPages tr).isSome then
    s.journal t (tracts.filterMap fun tr => (Tab.get none (s.tile t).sec.rollPages tr).map fun p =>
      let e := s.teAt t tr
      .image tr p.1 e.loc e.image [] true p.2 (some (slot, decide (tr = tracts.getLastD slot))))
  else s

/-- The records of a programmed journal page take effect in order, each under the next journal sequence number (R174). -/
def State.applyAll (s : State) (t : TileId) (rs : List JRec) : State :=
  rs.foldl (fun s r => (s.modXlt t fun a => { a with jseq := a.jseq + 1 }).applyRec t r) s

/-- Line-data lines of a page, as WA counts them in all three streams (R185, R186; log 132). -/
def Content.dataLines : Content → Nat
  | .log l => l.length
  | .image _ _ _ => 64
  | .foldImage _ _ _ _ => 64
  | .copyImage _ _ => 64
  | .copyLog l => l.length
  | .mapItem _ _ _ => 64
  | .journal _ _ => 64
  | .table _ => 64
  | .copyMap _ => 64
  | _ => 0

/-- An OPEN stratum is sealed (R179, R207). -/
def State.sealStratum (s : State) (t : TileId) (n : Nat) : State :=
  let no := (s.tile t).xlt.sealNo
  (s.modStratum t n fun g => { g with st := .closed, sealedSf := some s.sf, sealNo := no, bucket := 0, progress := 0 }).modXlt t fun a =>
    { a with sealNo := no + 1 }
/-- It is when its last data page has been programmed. -/
def State.sealIfFull (s : State) (t : TileId) (n : Nat) : State :=
  let g := s.stratum t n
  if g.st = .opened ∧ (s.dataChans t n).all (fun c => decide (Tab.get 0 g.done c = 64)) = true then s.sealStratum t n else s

/-- What the program of a page makes durable, or calls for a record of. -/
def State.pageDone (s : State) (t : TileId) (addr : BitVec 30) (j : PageJob) : State :=
  let s := s.modXlt t fun x => { x with medLn := x.medLn + BitVec.ofNat 64 j.content.dataLines }
  let s := s.journal t (s.pageRecs t addr j.content)
  match j.content with
  | .mapItem p _ _ =>
    if 2097152 ≤ p ∧ p < ctrDirBase then s.modStratum t (pageStratum addr) fun g => { g with ctrs := true } else s
  | .journal _ rs =>
    let s := (s.modXlt t fun a => { a with
      jpages := a.jpages ++ [(addr, a.ckpts)]
      ckptRun := a.ckptRun.map fun k => { k with head := k.head.or (some addr) } }).addValid t (pageStratum addr) 64
    s.applyAll t rs
  | .image tr ords (some (slot, _)) => s.rollProgrammed t slot tr addr ords
  | .table k =>
    let s := (s.modXlt t fun a => { a with ckptRun := a.ckptRun.map fun r => { r with pages := Tab.ins k addr r.pages } }).addValid t
      (pageStratum addr) 64
    match (s.tile t).xlt.ckptRun with
    | some r =>
      if r.pages.length = tablePages ∧ r.recorded = false then
        (s.journal t [.ckpt (match Tab.find r.pages 0 with | some p => p | none => addr)]).modXlt t fun a =>
          { a with ckptRun := some { r with recorded := true } }
      else s
    | none => s
  | .copyMap old =>
    let new := fun (p : BitVec 30) => if p = old then addr else p
    let s := s.modXlt t fun a => { a with
      jpages := a.jpages.map fun e => (new e.1, e.2), ckptPages := a.ckptPages.map new
      ckptRun := a.ckptRun.map fun r => { r with pages := r.pages.map fun e => (e.1, new e.2), head := r.head.map new } }
    let s := s.modMedium t fun m => { m with ckptAt := m.ckptAt.map new, head := m.head.map new }
    (s.subValid t (pageStratum old) 64).addValid t (pageStratum addr) 64
  | _ => s

/-- The program of a page position has ended (R172 to R174, R192). A page carried over to a replacement is the page that stood there
(R197). -/
def State.progDone (s : State) (t : TileId) (c d : Nat) (g : Prog) : State :=
  let s := s.modDie t c d fun x => { x with prog := none }
  if g.pages.any fun j => decide (j.content = .carry) then s
  else
    let put := fun (tab : Tab (BitVec 2304)) (pl : Nat) =>
      let a := pageAddr g.stratum c g.pos pl
      let cws := match g.pages[pl]? with | some j => j.cws | none => []
      (List.range 16).foldl (fun tab j => Tab.ins (cwAddr a j).toNat (cws.getD j 0) tab) tab
    let s := s.modMedium t fun m => { m with cws := (List.range 4).foldl put m.cws }
    let s := s.modStratum t g.stratum fun q => { q with done := Tab.put 0 q.done c (g.pos + 1) }
    let s := (List.range 4).foldl (fun s pl => match g.pages[pl]? with
      | none => s
      | some j => s.pageDone t (pageAddr g.stratum c g.pos pl) j) s
    s.sealIfFull t g.stratum

end Sys2Proof.Machine
end

