-- ==== Sys2Proof/Machine/Sched.lean ====
section
/-! DEFINITION. The schedule engine (chapter 8): die slots and their claimants, the arbiter (R113 to R115), runs, steps,
debt and gale mode, the selection of a variant. -/

namespace Sys2Proof.Machine

/-! ### Pages that go back to wait -/

/-- What a page carries waits to be bound again. A write-back of a dirty page is chosen anew; a copy of an item of a victim is formed
again. -/
def State.requeue (s : State) (t : TileId) (j : PageJob) : State := match j.content with
  | .log l => s.unpack t (l.map fun e => (e.1, e.2 / 64))
  | .image _ ords none => s.unpack t ords
  | .journal _ rs => s.modXlt t fun a => { a with jbuf := rs ++ a.jbuf }
  | .mapItem _ _ _ => if j.gc then s.modXlt t fun a => { a with mapPages := j :: a.mapPages } else s
  | .table _ => s.modXlt t fun a => { a with mapPages := j :: a.mapPages }
  | .copyMap _ => s.modXlt t fun a => { a with mapPages := j :: a.mapPages }
  | .filler => s
  | .parity => s
  | .carry => s
  | _ => s.modXlt t fun a => { a with bgPages := a.bgPages ++ [j] }

/-- The position of a carried-over page is to be carried over again (R197). -/
def Prog.carried (g : Prog) : Bool := g.pages.any fun j => decide (j.content = .carry)
def State.carryAgain (s : State) (t : TileId) (c : Nat) (g : Prog) : State :=
  s.modDie t c (g.stratum / 65536) fun x => { x with carry := x.carry.map fun k => { k with next := min k.next g.pos } }

/-- A page position bound to a run that starts no program is free again (R244). -/
def State.unbind (s : State) (t : TileId) (c : Nat) (g : Prog) : State :=
  if g.carried then s.carryAgain t c g
  else (g.pages.foldl (fun s j => s.requeue t j) s).modStratum t g.stratum fun q => { q with next := Tab.put 0 q.next c g.pos }

/-- A program cut short leaves its page position unreadable, as if never programmed (R190, R245). -/
def State.abandon (s : State) (t : TileId) (c : Nat) (g : Prog) : State :=
  if g.carried then s.carryAgain t c g
  else
    let s := g.pages.foldl (fun s j => s.requeue t j) s
    (s.modStratum t g.stratum fun q => { q with done := Tab.put 0 q.done c (g.pos + 1), holes := (c, g.pos) :: q.holes }).sealIfFull t g.stratum

/-! ### Reads that wait for a die slot -/

/-- Codeword reads of a die of a channel that wait to be issued and satisfy `p`, with their numbers; those set up at the edge wait for a
later slot (R220: `n` is the first number that was free before it). -/
def State.waitingReads (s : State) (t : TileId) (c d n : Nat) (p : Fetch → Bool) : List (Nat × Fetch) :=
  (s.tile t).sch.fetches.filterMap fun e => match e.2 with
    | none => none
    | some f =>
      let here := decide (e.1 < n) && (match f.stage with | .rebuild _ _ _ => false | _ => true)
      if !f.flying && here && decide ((cwaChan f.cwa).val = c ∧ (cwaDie f.cwa).val = d) && p f then some (e.1, f) else none

/-- The read whose need arose first; among equals the one linked first (R145, R226). -/
def earliest (l : List (Nat × Fetch)) : Option (Nat × Fetch) :=
  l.foldl (fun b e => match b with
    | none => some e
    | some x => if e.2.since < x.2.since then some e else b) none

/-- A read takes its place in the order at the grant of the first read operation of its codeword: it observes every write armed before,
but for those its session sent later (R69, R133). A line that has been packed or moved since it was linked is looked up again. -/
def State.observe (s : State) (t : TileId) (fid : Nat) : State :=
  let root := match s.fetch? t fid with | some { owner := .child par, .. } => par | _ => fid
  match s.fetch? t root with
  | some { seen := false, owner := .part id, cwa, token, .. } =>
    let s := s.modSch t fun a => { a with fetches := Tab.upd none a.fetches root fun g => g.map fun f => { f with seen := true } }
    match s.cell? t id with
    | none => s
    | some c => if c.op ≠ opRead then s else
      let s := (c.waitsOn root).foldl (fun s q => match Tab.find c.pinned q.1, Tab.find (s.tile t).adm.staged (c.line q.1) with
        | some (some (d, bad)), _ => s.give t id q.1 (if bad then 0 else d) (if bad then 1 else 0)
        | some none, _ => s
        | none, some g => s.give t id q.1 (if g.poison then 0 else g.data) (if g.poison then 1 else 0)
        | none, none =>
          if token = none ∧ s.placeOf t (c.line q.1) ≠ some cwa then
            s.modCell t id fun c => { c with phase := Tab.ins q.1 .todo c.phase, missed := q.1 :: c.missed }
          else s) s
      s.serveCell t id
  | _ => s

/-- A command goes to a die; the command before it, which has not timed out, has been acknowledged (R200). -/
def State.command (s : State) (t : TileId) (c d : Nat) : State :=
  s.modDie t c d fun x => { x with asked := true, timeouts := if x.asked then 0 else x.timeouts }

/-- Whether a codeword read is an operation of a part: a read, retry or rebuild read of its lines, or a fetch of a map page or a counter
block that it waits for (R241). -/
def State.opOf (s : State) (t : TileId) (f : Fetch) (id : Nat) (c : Cell) : Bool :=
  let slots := c.phase.filterMap fun p => match p.2 with
    | .read _ _ => some (s.slotAt t (c.line p.1))
    | .counter g _ _ _ => some g
    | _ => none
  let root : Option Owner := match f.owner with | .child par => (s.fetch? t par).map Fetch.owner | o => some o
  match root with
  | some (.part k) => decide (k = id)
  | some (.mapPage p) => c.phase.any (fun e => decide (e.2 = Phase.map p)) ||
      slots.any fun q => (s.tile t).sec.fetching.contains q && decide (ctrDirOf (ctrPage q) = p)
  | some (.counter q) => slots.contains q
  | _ => false

/-- A medium operation of parts is issued: the bound of each that gale mode or becalming affects is waived; gale mode counts a part once
(R148, R241). -/
def State.opIssued (s : State) (t : TileId) (f : Fetch) : State :=
  (s.tile t).adm.cells.foldl (fun s e =>
    if (e.2.galeWait || e.2.calmWait) && s.opOf t f e.1 e.2 then
      let s := s.modCell t e.1 fun c => { c with galed := c.galed || c.galeWait, res := { c.res with waived := true } }
      if e.2.galeWait && !e.2.galed then s.schCnt t 6 else s
    else s) s

/-- A read operation is issued for a read: the first `win` codewords, in ascending address order, of those its owner waits for in
that page (R142); a calibration read is of one codeword under one set (R188). -/
def State.issueRead (s : State) (t : TileId) (c d n : Nat) (f : Fetch) (win : Nat) : State :=
  let s := s.command t c d
  let mates := s.waitingReads t c d n fun g =>
    if f.owner = .patrol then decide (g = f) else decide (g.owner = f.owner ∧ g.stage = f.stage ∧ g.cwa.toNat / 16 = f.cwa.toNat / 16)
  let go := (sortBy (fun a b => decide (a.2.cwa.toNat ≤ b.2.cwa.toNat)) mates).take win
  let s := go.foldl (fun s e => s.opIssued t e.2) s
  let s := go.foldl (fun s e => s.observe t e.1) s
  let s := go.foldl (fun s e => s.setFetch t e.1 (some { e.2 with flying := true, seen := true })) s
  let ids := go.map fun e => e.1
  s.modAdm t fun a => { a with
    ready := (a.ready.map fun e => (e.1, e.2.filter fun i => !ids.contains i)).filter fun e => decide (e.2 ≠ []) }

/-! ### Waived bounds (R148, R241) -/

/-- At a decision instant: parts whose tile is in gale mode since their admission, or whose session is becalmed since their linking. -/
def State.waive (s : State) (t : TileId) : State :=
  let gale := (s.tile t).sch.gale
  s.modAdm t fun a => { a with cells := a.cells.map fun e => (e.1, if e.2.st = .claimed then e.2 else { e.2 with
    galeWait := e.2.galeWait || gale
    calmWait := e.2.calmWait || (a.becalmed.contains e.2.sess.val && decide (e.2.issued ≠ [])) }) }

/-! ### The arbiter (R113 to R115) -/

/-- CLASS and QUOTA of a session (ADM_SCFG, Table 4.4). -/
def Adm.cls (a : Adm) (x : Nat) : Nat := (Tab.get 0 a.scfg x).toNat % 4
def Adm.quota (a : Adm) (x : Nat) : Nat := max 1 ((Tab.get 0 a.scfg x).toNat / 4 % 1024)

/-- The head of a session's ready list for a channel and die, where it is a candidate (R114): read and stamp. -/
def State.candidate (s : State) (t : TileId) (c d : Nat) (x : SessId) : Option (Nat × Fetch × Nat) :=
  let a := (s.tile t).adm
  if a.becalmed.contains x.val then none
  else match Tab.get [] a.ready (readyKey x c d) with
    | [] => none
    | fid :: _ => match s.fetch? t fid with
      | none => none
      | some f => match f.owner with
        | .part id => match s.cell? t id with
          | some k => some (fid, f, k.stamp.toNat)
          | none => none
        | _ => none

/-- Age of a stamp, modulo 2^40 (R114, Table 4.1). -/
def State.age (s : State) (stamp : Nat) : Nat := (BitVec.ofNat 40 s.now - BitVec.ofNat 40 stamp).toNat

/-- The session an upper class grants: the oldest stamp, the lowest session on a tie. -/
def State.oldest (s : State) (t : TileId) (c d k : Nat) : Option SessId :=
  (List.finRange 64).foldl (fun b x =>
    if (s.tile t).adm.cls x.val ≠ k then b
    else match s.candidate t c d x with
      | none => b
      | some (_, _, st) => match b with
        | none => some x
        | some y => match s.candidate t c d y with
          | some (_, _, st') => if s.age st' < s.age st then some x else b
          | none => some x) none

/-- The session a lower class grants: round robin from the channel's pointer. -/
def State.robin (s : State) (t : TileId) (c d k : Nat) : Option SessId :=
  let p := Tab.get 0 (s.tile t).adm.rr (2 * c + (k - 2))
  ((List.range 64).map fun i => (⟨(p + i) % 64, Nat.mod_lt _ (by decide)⟩ : SessId)).find? fun x =>
    decide ((s.tile t).adm.cls x.val = k) && (s.candidate t c d x).isSome

/-- The session the arbiter of channel `c` grants, and its class (R115). -/
def State.arbitrate (s : State) (t : TileId) (c d : Nat) : Option (SessId × Nat) :=
  match s.oldest t c d 0 with
  | some x => some (x, 0)
  | none => match s.oldest t c d 1 with
    | some x => some (x, 1)
    | none => match s.robin t c d 2 with
      | some x => some (x, 2)
      | none => (s.robin t c d 3).map fun x => (x, 3)

/-- A grant (R113, R115): the count of the window, becalming of the upper classes at their quota, the pointer of the lower ones. -/
def State.grant (s : State) (t : TileId) (c d n win : Nat) (x : SessId) (k : Nat) : State :=
  match s.candidate t c d x with
  | none => s
  | some (_, f, _) =>
    let s := match f.owner with
      | .part id => s.modCell t id fun q => { q with st := .granted }
      | _ => s
    let s := s.issueRead t c d n f win
    let s := (s.modSch t fun a => { a with grants := Tab.put none a.grants c (some x.val) }).pmc t 0x03 (some c)
    let n := Tab.get 0 (s.tile t).adm.used x.val + 1
    let s := s.modAdm t fun a => { a with used := Tab.put 0 a.used x.val n }
    if k < 2 then
      if n = (s.tile t).adm.quota x.val then
        ((s.modAdm t fun a => { a with becalmed := x.val :: a.becalmed }).admCnt t 5).waive t
      else s
    else s.modAdm t fun a => { a with rr := Tab.put 0 a.rr (2 * c + (k - 2)) ((x.val + 1) % 64) }

/-! ### Steps (R229) -/

/-- The queued erase that die `d` of channel `c` would begin. -/
def State.nextErase (s : State) (t : TileId) (c d : Nat) (e : State) : Option Nat :=
  (s.tile t).sch.erases.find? fun n => (e.tile t).sch.erases.contains n && decide (n / 65536 = d) && !((s.stratum t n).erased.contains c) &&
    decide ((s.stratum t n).narrow.map Fin.val ≠ some c)

/-- A run that fills the die's page register is under way. -/
def State.filling (s : State) (t : TileId) (c d : Nat) : Bool := match Tab.get none (s.tile t).sch.runs c with
  | some r => decide (r.die.val = d) && r.page.isSome
  | none => false

/-- The next step of the die's program, or of the record its remap area takes: a record begins while the die has no program and its page
register takes none (R189, R195). DESIGN CHOICE (log 151): a record is a program of 12 steps in the die's own die slots, which no run
carries. -/
def State.stepProg (s : State) (t : TileId) (c d : Nat) : Option State :=
  let x := s.die t c d
  match x.prog, x.changes with
  | some g, _ =>
    if g.steps < 12 then
      some ((s.command t c d).modDie t c d fun y => { y with prog := some { g with steps := g.steps + 1, at_ := s.now, overdue := false } })
    else none
  | none, h :: r =>
    if h.steps < 12 ∧ s.filling t c d = false then
      some ((s.command t c d).modDie t c d fun y => { y with changes := { h with steps := h.steps + 1, at_ := s.now, overdue := false } :: r })
    else none
  | none, [] => none

/-- The next step of the die's erase, or the first of a queued one. -/
def State.stepErase (s : State) (t : TileId) (c d : Nat) (e : State) : Option State :=
  match (s.die t c d).erase with
  | some (n, k, _, _) =>
    if k < 704 then some ((s.command t c d).modDie t c d fun y => { y with erase := some (n, k + 1, s.now, false) }) else none
  | none => (s.nextErase t c d e).map fun n => (s.command t c d).modDie t c d fun y => { y with erase := some (n, 1, s.now, false) }

/-- The next step of the die: its program's step goes first. -/
def State.issueStep (s : State) (t : TileId) (c d : Nat) (e : State) : Option State :=
  if (s.die t c d).recs.lost then none else (s.stepProg t c d).or (s.stepErase t c d e)

/-- An overdue step of the die: that of its program, or of its remap area's record, else its erase's. -/
def State.overdueStep (s : State) (t : TileId) (c d : Nat) (e : State) : Option State :=
  let x := s.die t c d
  if x.recs.lost then none
  else if (match x.prog, x.changes with
      | some g, _ => g.overdue && decide (g.steps < 12)
      | none, h :: _ => h.overdue && decide (h.steps < 12)
      | none, [] => false) then (s.stepProg t c d).or (s.stepErase t c d e)
  else if (match x.erase with | some (_, k, _, o) => o && decide (k < 704) | none => false) then s.stepErase t c d e
  else none

/-- The last step of a slab's erase has ended as the die's next die slot begins: the die is free for another erase. -/
def State.endErase (s : State) (t : TileId) (c d : Nat) : State :=
  match (s.die t c d).erase with
  | some (n, 704, _, _) =>
    (s.modDie t c d fun x => { x with erase := none }).modStratum t n fun g =>
      { g with erased := if g.erased.contains c then g.erased else c :: g.erased }
  | _ => s

/-! ### Die slots (R226, R227, R240) -/

/-- The background read that a die slot of class `cls` prefers: in a MAP slot a read of the MAP stream or of the counter store goes first,
in a CAL slot a calibration read (Table 8.4). DESIGN CHOICE (log 163): the calibration reads are those of patrol and survey. Rebuild reads go in rebuild-capable slots only (R193). -/
def State.background (s : State) (t : TileId) (c d n cls : Nat) : Option (Nat × Fetch) :=
  let l := s.waitingReads t c d n fun f => !s.foreground t f && (decide (cls = 5) || !(match f.owner with | .child _ => true | _ => false))
  let m := l.filter fun e =>
    let g := (s.stratum t (cwaStratum e.2.cwa)).stream
    decide (g = .map ∨ g = .counters)
  let k := l.filter fun e => decide (e.2.owner = .patrol)
  if cls = 4 ∧ m ≠ [] then earliest m else if cls = 7 ∧ k ≠ [] then earliest k else earliest l

/-- The die slot of a word; `e` is the state at the decision instant. -/
def State.dieSlot (s : State) (t : TileId) (c : Nat) (w : Word) (e : State) : State :=
  let cls := wClass w
  let d := (wDie w).val
  let win := wWin w
  let n := (e.tile t).sch.fid
  if cls = 0 then s
  else
    let s := s.endErase t c d
    let ahead := s.waitingReads t c d n fun f => f.ahead && (decide (f.stage = .retry) || decide (cls = 5))
    match earliest ahead with
    | some (_, f) => ((s.issueRead t c d n f win).schCnt t 5).pmc t (if f.stage = .retry then 0x04 else 0x05) (some c)
    | none =>
      match s.overdueStep t c d e with
      | some s' => s'.schCnt t 10
      | none =>
        match (if (s.tile t).sch.gale && wTake w then s.background t c d n cls else none) with
        | some (_, f) => ((s.issueRead t c d n f win).schCnt t 2).pmc t 0x07 (some c)
        | none =>
          match earliest (s.waitingReads t c d n fun f => !f.ahead && match f.owner with
              | .mapPage _ => true | .counter _ => true | _ => false) with
          | some (_, f) => s.issueRead t c d n f win
          | none => match s.arbitrate t c d with
            | some (x, k) => s.grant t c d n win x k
            | none => match s.background t c d n cls with
              | some (_, f) => (s.issueRead t c d n f win).schCnt t 11
              | none => match s.issueStep t c d e with
                | some s' => s'
                | none =>
                  let s := s.schCnt t 7
                  if cls = 1 ∨ cls = 5 then (s.schCnt t 3).pmc t 0x08 (some c) else s

/-! ### Runs (R228, R236, R240) -/

/-- The carry-over of a die takes runs of class `k`: those that the failed program would have used, and LULL runs (R197, Table 8.4); until
admission opens LULL runs alone, as the tile's programs do (R246). -/
def State.carryClass (s : State) (t : TileId) (c d k : Nat) (start : Bool) : Bool := match (s.die t c d).carry with
  | none => false
  | some g =>
    let own := if s.parityOf t g.failed.stratum = c then 6
      else match (s.stratum t g.failed.stratum).stream with | .hot => 2 | .map => 4 | _ => 3
    decide (k = 3) || (decide (k = own) && (!start || decide (own = 4)))

/-- Page and lending of a run of class `k` to die `d` (Table 8.4). A slab that is being retired takes its carried-over pages first, in the
runs that they may use (R197). Until admission opens no run is lent, and the tile's own programs use LULL
and MAP runs (R246). -/
def State.bindRun (s : State) (t : TileId) (c d k : Nat) (lend take : Bool) (e : State) : Option (Prog × State) × Bool :=
  let gale := (s.tile t).sch.gale
  let start := decide ((s.tile t).ctl.st = .starting)
  match (if s.carryClass t c d k start then s.bindCarry t c d else none) with
  | some r => (some r, false)
  | none => match k with
  | 2 => (if start then none else if gale && take then s.bindBg t c d e else s.bindDrain t c d e, false)
  | 3 => match s.bindBg t c d e with
    | some r => (some r, false)
    | none => if start then (s.bindDrain t c d e, false) else if lend && !gale then (s.bindDrain t c d e, true) else (none, false)
  | 4 => (s.bindMap t c d e, false)
  | _ => (s.bindParity t c d, false)

/-- The first word of a run binds a page position, where the die has no program and no page waiting for its steps. -/
def State.startRun (s : State) (t : TileId) (c : Nat) (w : Word) (e : State) : State :=
  let d := (wXfDie w).val
  let k := wXfClass w
  let x := s.die t c d
  let (b, lent) := if x.prog.isSome || x.recs.lost || decide (x.changes ≠ []) then (none, false)
    else s.bindRun t c d k (wLend w) (wXfTake w) e
  let (page, s) := match b with
    | some (g, s') => (some g, s'.pmc t 0x09 (some c))
    | none => (none, s.schCnt t 4)
  let s := if lent && b.isSome then s.schCnt t 1 else s
  s.modSch t fun a => { a with
    runs := Tab.put none a.runs c (some { die := wXfDie w, cls := BitVec.ofNat 3 k, left := 32, page, lent }) }

/-- The XFER of a word: the run's next 640 bytes; its last word leaves the page to the die's steps. -/
def State.xfer (s : State) (t : TileId) (c : Nat) (w : Word) (e : State) : State :=
  if wXf w then
    let s := if wStart w then s.startRun t c w e else s
    match Tab.get none (s.tile t).sch.runs c with
    | none => s
    | some r =>
      let s := if r.lent && r.page.isSome then s.pmc t 0x06 (some c) else s
      if 1 < r.left then s.modSch t fun a => { a with runs := Tab.put none a.runs c (some { r with left := r.left - 1 }) }
      else
        let s := s.modSch t fun a => { a with runs := Tab.put none a.runs c none }
        match r.page with
        | some g => s.modDie t c r.die.val fun x => { x with prog := some { g with at_ := s.now } }
        | none => s
  else s

/-- An uncorrectable schedule word (R244): IDLE on its channel, the bounds of the parts linked there are waived, and a run
that loses a word, an XFER of its own, starts no program. -/
def State.badWord (s : State) (t : TileId) (c : Nat) : State :=
  let a := (s.tile t).sch
  let linked := (s.tile t).adm.ready.filter fun e => decide (e.1 / 8 % 8 = c)
  let s := linked.foldl (fun s e => e.2.foldl (fun s fid => match s.fetch? t fid with
    | some f => match f.owner with
      | .part id => s.modCell t id fun k => { k with res := { k.res with waived := true } }
      | _ => s
    | none => s) s) s
  let s := match (if wXf (a.wordAt a.f a.k c) then Tab.get none a.runs c else none) with
    | some r =>
      let s := match r.page with | some g => s.unbind t c g | none => s
      s.modSch t fun a => { a with
        runs := Tab.put none a.runs c (if 1 < r.left then some { r with left := r.left - 1, page := none } else none) }
    | none => s
  let s := (s.modSch t fun a => { a with wordErr := true }).schCnt t 9
  s.raise (tsrc t 4) (fld 0 ((64 * a.f + a.k) * 8 + c) ||| fld 20 a.var.toNat |||
    fld 24 (Tab.get 0 a.seqs (1024 * a.var.toNat + a.f)).toNat)

/-- Index in the schedule store of a channel's word in the current slot. -/
def Sch.wordIx (a : Sch) (c : Nat) : Nat :=
  (256 * a.var.toNat + (Tab.get 0 a.seqs (1024 * a.var.toNat + a.f)).toNat) * 512 + a.k * 8 + c

/-- Channel `c`'s part of a slot. -/
def State.channelSlot (s : State) (t : TileId) (c : Nat) (e : State) : State :=
  let a := (s.tile t).sch
  if a.badWords.contains (a.wordIx c) then s.badWord t c
  else
    let w := a.wordAt a.f a.k c
    (s.dieSlot t c w e).xfer t c w e

/-- The decision instant of the current slot, on every channel in increasing number (R114, R227), each of which uses only what was queued
before the edge (R220); then the next slot. -/
def State.slot (s : State) (t : TileId) : State :=
  let a := (s.tile t).sch
  if a.run ∧ a.fresh = false ∧ a.k < 64 then
    let e := (s.waive t).modSch t fun a => { a with grants := [] }
    let s := (List.range 8).foldl (fun s c => s.channelSlot t c e) e
    s.modSch t fun a => { a with k := a.k + 1 }
  else s

/-! ### Debt and gale mode (R237 to R243) -/

/-- The debt counters (Table 8.6); a share or unit that does not come out even is rounded down (log 16). -/
def State.debt (s : State) (t : TileId) (i : Nat) : Nat :=
  let T := s.tile t
  let a := T.xlt
  min (2 ^ 24 - 1) <| match i with
  | 0 => a.freeLow - s.freeStrata t
  | 1 => (a.strata.filter fun e => decide (12 ≤ e.2.bucket.toNat) && decide (e.2.st = .closed ∨ e.2.st = .pendErase)).length
  | 2 => (a.ovl.length - a.ovHigh) / 1024
  | 3 => a.dirty
  | 4 => (T.sec.cached.filter fun e => decide (e.2 = some true)).length / 64
  | 5 =>
    let closed := (a.strata.filter fun e => decide (e.2.st = .closed)).length
    closed * (s.sf.toNat - T.med.passSf.toNat) / (max 1 T.med.epochs.toNat * 4096) - T.med.reached
  | 6 => ((List.finRange 16).map fun r =>
      let g := s.rgn r
      if g.pass && g.compact then
        min ((s.sf.toNat - g.passSf.toNat) * T.med.rekeyPace) (g.groups s.part) - Tab.get 0 g.reached t.val
      else 0).sum / 1024
  | _ => T.med.dies.foldl (fun m e => match e.2.levelReq with
      | some (_, sf) => max m (s.sf.toNat - sf.toNat)
      | none => m) 0

/-- LIMIT and RELEASE of a debt counter (SCH_DLIM). -/
def Sch.limit (a : Sch) (i : Nat) : Nat := (Tab.get 0 a.dlim i).toNat % 65536
def Sch.release (a : Sch) (i : Nat) : Nat := (Tab.get 0 a.dlim i).toNat / 65536

/-- Entry to gale mode and exit from it, at slot 0 of a frame. -/
def State.galeCheck (s : State) (t : TileId) : State :=
  let a := (s.tile t).sch
  let above := (List.range 8).foldl (fun b i => if a.limit i < s.debt t i then b + 2 ^ i else b) 0
  if a.gale then
    let n := a.galeFrames + 1
    if 1024 ≤ n ∧ ((List.range 8).all fun i => decide (s.debt t i ≤ a.release i)) = true then
      (s.modSch t fun a => { a with gale := false, galeFrames := 0 }).raise (tsrc t 6) (fld 0 (n % 2 ^ 32))
    else s.modSch t fun a => { a with galeFrames := n }
  else if above = 0 then s
  else
    let s := s.modSch t fun a => { a with
      gale := true, galeFrames := 0, galeLongDone := false, gsf := s.sf, entries := min (a.entries + 1) 65535
      cause := BitVec.ofNat 8 above }
    s.raise (tsrc t 5) (fld 0 above)

/-- Gale mode has lasted 4,096 superframes, counted in frames from the one it began at (R243). -/
def State.galeLong (s : State) (t : TileId) : State :=
  let a := (s.tile t).sch
  if a.gale ∧ a.galeLongDone = false ∧ 4096 * 1024 ≤ a.galeFrames then
    (s.modSch t fun a => { a with galeLongDone := true }).raise (tsrc t 7) (fld 0 a.gsf.toNat)
  else s

/-! ### Frames and variants (R105, R113, R233, R234) -/

/-- Slot 0 of the next frame, before its decision: tokens, quotas, thermal halving (R386), gale mode. -/
def State.frame (s : State) (t : TileId) : State :=
  let s := s.modSch t fun a =>
    if a.fresh then { a with fresh := false, f := 0, k := 0 } else { a with f := (a.f + 1) % 1024, k := 0 }
  let s := s.modAdm t fun a =>
    let h := decide ((s.thmT t).st = .hot)
    { a with
      halved := h, level := min a.depth (a.level + (if h then a.rate / 2 else a.rate)), used := [], becalmed := [] }
  s.galeCheck t

/-- The variant R233 selects. -/
def State.variant (s : State) (t : TileId) : BitVec 2 :=
  let a := (s.tile t).sch
  if a.leanReq && a.present.getLsbD 3 then 3
  else match (s.thmT t).st with
    | .hot => 2
    | .warm => if a.present.getLsbD 1 then 1 else 2
    | _ => 0

/-- The engine of a tile can run: its schedule and medium stand, its domains are ON, its core and channel PLLs locked, and it holds no
stop (R246, R316, R349, R386). -/
def State.mayRun (s : State) (t : TileId) : Bool :=
  let c := (s.tile t).ctl
  c.loaded && c.medInit && decide (c.st ≠ .stopped ∧ c.st ≠ .out) && !(s.thmT t).hold && s.coreOn t && s.sramOn t && s.mioOn t &&
  !s.gated (8 * t.val) && !s.gated (8 * t.val + 1)

/-- The boundary of a superframe on one tile: an engine that is to halt or to begin does, the latched variant takes effect. -/
def State.boundary (s : State) (t : TileId) : State :=
  let a := (s.tile t).sch
  if a.run then
    if a.haltDue then s.modSch t fun a => { a with run := false, haltDue := false, fresh := true, f := 0, k := 0 }
    else
      let s := if a.var = a.next then s else s.schCnt t 8
      s.modSch t fun a => { a with var := a.next, fresh := true, f := 0, k := 0 }
  else if a.startDue ∧ s.mayRun t = true then
    let v := s.variant t
    s.modSch t fun a => { a with run := true, startDue := false, haltDue := false, var := v, next := v, fresh := true, f := 0, k := 0 }
  else s

end Sys2Proof.Machine
end

