-- ==== Sys2Proof/Machine/Collect.lean ====
section
/-! DEFINITION. Background work of a tile: folds (R177, R178), collection (R180 to R183, R201, R204, R210), rolled groups and
re-key walks (R280 to R284), checkpoints (R176). -/

namespace Sys2Proof.Machine

/-! ### Folds -/

/-- Ciphertext and tag of line `i` of a tract for its new image: the overlay entry read, the old image, or the zero filler
under the line's current counter (R178, R273). -/
def State.foldLine (s : State) (t : TileId) (f : Fold) (ents : List (Nat × Nat)) (i : Nat) : Line × BitVec 64 :=
  let line := f.tract * 64 + i
  let found := match ents.find? fun p => decide (p.1 = line) with
    | some p => s.storedLine t p.2
    | none => if f.oldImage then s.storedLine t (f.oldLoc.toNat * 64 + i) else none
  match found with
  | some x => x
  | none => s.sealLine t line 0

/-- A fold whose reads have ended, whose map page may be changed and whose counters are at hand, becomes a page to program; HEAT gives its
stream (R163, R170, R178). A fold whose range has been lost meanwhile is given up (R289). -/
def State.foldPages (s : State) (t : TileId) : State :=
  (s.tile t).xlt.folds.foldl (fun s f =>
    let slot := s.slotAt t (f.tract * 64)
    if s.lostAt t (f.tract * 64) then s.dropFolds t fun x => decide (x = f.tract)
    else if f.left ≠ [] ∨ f.paged = true then s
    else if !s.mayChange t (f.tract / 512) || !s.ctrReady t slot then
      let s := s.wantPage t (f.tract / 512)
      if s.ctrReady t slot then s else s.wantCtr t slot
    else
      -- entries whose codeword could not be read have become poison records and are left as they are (R178)
      let ents := f.ents.filter fun p => (s.storedLine t p.2).isSome
      let cws := pageOf ((List.range 64).map (s.foldLine t f ents))
      let j : PageJob := { stream := if 2 ≤ (s.teAt t f.tract).heat s.epoch then .hot else .cold
                           content := .foldImage f.tract f.oldLoc f.oldImage ents, cws, lull := true }
      s.modXlt t fun a => { a with
        bgPages := a.bgPages ++ [j], folds := a.folds.map fun e => if e.tract = f.tract then { e with paged := true } else e }) s

/-- While the overlay's occupancy exceeds OV_HIGH, the tract with the most entries among those in the 64 buckets after the
rotating pointer is folded (R177). DESIGN CHOICE (log 161): the pointer moves on by 64 buckets at each evaluation. -/
def State.foldOccupancy (s : State) (t : TileId) : State :=
  let a := (s.tile t).xlt
  if a.ovHigh < a.ovl.length then
    let tr := ((a.ovl.filter fun e => decide ((bucketOfLine e.1 + 262144 - a.foldPtr) % 262144 < 64)).map fun e => e.1 / 64).dedup
    let s := s.modXlt t fun a => { a with foldPtr := (a.foldPtr + 64) % 262144 }
    match a.busiest tr with
    | some x => s.startFold t x
    | none => s
  else s

/-! ### Tracts unmapped (R163, R268) -/

/-- The images of a range that is to be unmapped go map page by map page, as the dirty-page limit allows; the record of the whole range,
which takes the overlay entries with it, ends it. -/
def State.unmapWork (s : State) (t : TileId) : State :=
  (s.tile t).xlt.unmaps.foldl (fun s (u : Nat × Nat) =>
    let (lo, n) := u
    let chunk := fun (p : Nat) => JRec.unmap (max lo (512 * p)) (min (lo + n) (512 * p + 512) - max lo (512 * p))
    let pages := (((s.tile t).xlt.te.filter fun e => decide (lo ≤ e.1 ∧ e.1 < lo + n) && e.2.image).map fun e => e.1 / 512).dedup
    if pages = [] then
      (s.journal t [.unmap lo n]).modXlt t fun a => { a with unmaps := a.unmaps.filter fun x => decide (x ≠ u) }
    else pages.foldl (fun s p =>
      if (s.dueRecs t).contains (chunk p) then s
      else if s.mayChange t p then s.journal t [chunk p]
      else s.wantPage t p) s) s

/-! ### Collection (R180, R181) -/

/-- Lines on the medium in a stratum, by line and line address; images in it; MAP items in it; journal and checkpoint pages in it. -/
def Xlt.linesIn (a : Xlt) (v : Nat) : List (Nat × Nat) := a.ovl.filterMap fun e => match e.2 with
  | some (some la) => if lineStratum la = v then some (e.1, la) else none
  | _ => none
def Xlt.imagesIn (a : Xlt) (v : Nat) : List (Nat × Te) := a.te.filter fun e => e.2.image && decide (pageStratum e.2.loc = v)
def Xlt.mapIn (a : Xlt) (v : Nat) : List Nat :=
  (a.dir.filter fun e => !e.2.isEmpty && decide (pageStratum e.2.loc = v)).map fun e => e.1
def Xlt.pagesIn (a : Xlt) (v : Nat) : List (BitVec 30) :=
  ((a.jpages.map fun e => e.1) ++ a.ckptPages ++ (match a.ckptRun with | some k => k.pages.map Prod.snd | none => [])).filter fun p =>
    decide (pageStratum p = v)

/-- Whether a stratum may be an ordinary victim (R180); one sealed before the last cold reset was sealed an epoch ago or more (log 133). -/
def State.mayCollect (s : State) (g : Stratum) : Bool :=
  decide (g.st = .closed) && decide (g.stream = .hot ∨ g.stream = .cold ∨ g.stream = .map) &&
  ((match g.sealedSf with | some x => decide (4096 ≤ s.sf.toNat - x.toNat) | none => true) || decide (g.valid < 28672))

/-- The ordinary victim: fewest valid lines, then sealed earlier. -/
def State.ordinaryVictim (s : State) (t : TileId) : Option Nat :=
  ((s.tile t).xlt.strata.foldl (fun b e =>
    if s.mayCollect e.2 then match b with
      | none => some e
      | some x => if e.2.valid < x.2.valid ∨ (e.2.valid = x.2.valid ∧ e.2.sealNo < x.2.sealNo) then some e else b
    else b) none).map fun e => e.1

/-- A refresh victim: a stratum that has entered bucket 11, or that a finding has made one (R210, Table 7.7). -/
def Stratum.aged (g : Stratum) : Bool := decide (g.st = .closed) && (g.refresh || decide (11 ≤ g.bucket.toNat ∧ g.uncertain = false))
/-- The refresh victim to be taken next: the oldest. -/
def Xlt.refreshVictim (a : Xlt) : Option Nat :=
  ((a.strata.filter fun e => e.2.aged).foldl (fun b e => match b with
    | none => some e
    | some x => if x.2.bucket < e.2.bucket ∨ (x.2.bucket = e.2.bucket ∧ x.2.progress < e.2.progress) then some e else b) none).map fun e => e.1
/-- A stratum of a die index under evacuation (R201). -/
def State.evacVictim (s : State) (t : TileId) : Option Nat :=
  ((s.tile t).xlt.strata.find? fun e => decide (e.2.st = .closed) && (s.tile t).med.evacDies.contains (e.1 / 65536)).map fun e => e.1
/-- The strata that levelling requests name; the one requested first (R204). -/
def State.wearStrata (s : State) (t : TileId) : List Nat :=
  (sortBy (fun (a b : Nat × Nat) => decide (a.2 ≤ b.2)) ((s.tile t).med.dies.filterMap fun e =>
    e.2.levelReq.map fun r => (e.1 % 8 * 65536 + r.1, r.2.toNat))).map fun e => e.1
def State.wearVictim (s : State) (t : TileId) : Option Nat := (s.wearStrata t).find? fun n => decide ((s.stratum t n).st = .closed)

/-- The next victim: refresh before evacuation before wear before ordinary victims (R180, R201, R204, R210). -/
def State.nextVictim (s : State) (t : TileId) : Option Nat :=
  ((s.tile t).xlt.refreshVictim).or ((s.evacVictim t).or ((s.wearVictim t).or
    (if s.freeStrata t < (s.tile t).xlt.freeLow then s.ordinaryVictim t else none)))

/-- A victim is taken: its valid codewords are read in the background. -/
def State.startVictim (s : State) (t : TileId) (v : Nat) : State :=
  let a := (s.tile t).xlt
  let page := fun (p : BitVec 30) => (List.range 16).map (cwAddr p)
  let cws := ((a.linesIn v).map (fun e => BitVec.ofNat 34 (e.2 / 4)) ++
    ((a.imagesIn v).flatMap fun e => page e.2.loc) ++ ((a.mapIn v).filter fun p => !s.cachedPage t p).flatMap (fun p => page (s.dirAt t p).loc) ++
    (a.pagesIn v).flatMap page).dedup
  let s := s.modXlt t fun a => { a with victim := some v, gcPhase := 1, gcLeft := cws }
  cws.foldl (fun s c => s.bgFetch t c (.collect v)) s

/-- Log lines repacked in pages of 64 places. -/
def logPages : Nat → List (Nat × Nat) → List (List (Nat × Nat))
  | 0, _ => []
  | n + 1, l => if l = [] then [] else l.take 64 :: logPages n (l.drop 64)

/-- Something on its way already changes a tract's entry. -/
def State.tractDue (s : State) (t : TileId) (tract : Nat) : Bool :=
  ((s.jobs t).any fun j => match j.content with
    | .image tr _ _ => decide (tr = tract) | .foldImage tr _ _ _ => decide (tr = tract) | .copyImage tr _ => decide (tr = tract) | _ => false) ||
  (s.dueRecs t).any fun r => match r with
    | .image tr _ _ _ _ _ _ _ => decide (tr = tract) | .imageMove tr _ _ => decide (tr = tract) | _ => false
/-- A log line, a MAP item or a MAP-stream page is on its way already. -/
def State.lineDue (s : State) (t : TileId) (line : Nat) : Bool :=
  ((s.jobs t).any fun j => match j.content with | .copyLog l => l.any fun e => decide (e.1 = line) | _ => false) ||
  (s.dueRecs t).any fun r => match r with | .logMove l _ _ => decide (l = line) | _ => false
def State.itemDue (s : State) (t : TileId) (page : Nat) : Bool :=
  ((s.jobs t).any fun j => match j.content with | .mapItem p _ _ => decide (p = page) | _ => false) ||
  (s.dueRecs t).any fun r => match r with | .mapPage p _ _ _ => decide (p = page) | _ => false

/-- Copies of a victim's items whose sources have been read, and which may be moved (R163, R181, R280): images, log lines repacked, items of
the MAP stream; ciphertext does not change (R273). -/
def State.copyVictim (s : State) (t : TileId) (v : Nat) : State :=
  let a := (s.tile t).xlt
  let imgs := (a.imagesIn v).filter fun e => !s.tractDue t e.1 && !s.imagedAt t e.1
  let s := imgs.foldl (fun s e =>
    if s.mayChange t (e.1 / 512) then
      let j : PageJob := { stream := .cold, content := .copyImage e.1 e.2.loc, lull := true, gc := true
                           cws := (List.range 16).map fun j => (s.payload t (cwAddr e.2.loc j)).getD 0 }
      s.modXlt t fun a => { a with bgPages := a.bgPages ++ [j] }
    else s.wantPage t (e.1 / 512)) s
  let lines := (a.linesIn v).filter fun e => (s.storedLine t e.2).isSome && !s.lineDue t e.1
  let logs := (logPages lines.length lines).map fun l =>
    ({ stream := .cold, content := .copyLog l, lull := true, gc := true
       cws := pageOf (l.map fun e => (s.storedLine t e.2).getD (0, 0)) } : PageJob)
  let maps := ((a.mapIn v).filter fun p => !s.itemDue t p).map fun p => ({ stream := .map, content := .mapItem p 0 [], gc := true } : PageJob)
  let raws := ((a.pagesIn v).filter fun p => !(s.jobs t).any fun j => decide (j.content = .copyMap p)).map fun p =>
    ({ stream := .map, content := .copyMap p, gc := true } : PageJob)
  s.modXlt t fun a => { a with bgPages := a.bgPages ++ logs, mapPages := a.mapPages ++ maps ++ raws }

/-- A record that has yet to be programmed, or to take its place, names a location in a stratum. -/
def State.recsInto (s : State) (t : TileId) (v : Nat) : Bool :=
  ((s.dueRecs t).any fun r => match r with
    | .log p _ => decide (pageStratum p = v)
    | .image _ loc _ _ _ _ _ _ => decide (pageStratum loc = v)
    | .logMove _ _ new => decide (lineStratum new = v)
    | .imageMove _ _ new => decide (pageStratum new = v)
    | .mapPage _ loc _ _ => decide (pageStratum loc = v)
    | _ => false) ||
  ((s.tile t).xlt.displaced.any fun e => match e.2 with | .inl (la, _) => decide (lineStratum la = v) | .inr _ => false) ||
  (s.tile t).sec.rollPages.any fun e => match e.2 with | some (p, _) => decide (pageStratum p = v) | none => false

/-- Nothing valid is left in a victim. -/
def State.victimEmpty (s : State) (t : TileId) (v : Nat) : Bool :=
  let a := (s.tile t).xlt
  decide (a.linesIn v = []) && decide (a.imagesIn v = []) && decide (a.mapIn v = []) && decide (a.pagesIn v = [])

/-- Collection goes on (R181): a victim is chosen; its items are copied once they have been read, until every copy has programmed; PEND_ERASE
is recorded after the last move; items that are left are read and copied again. -/
def State.collect (s : State) (t : TileId) : State :=
  let a := (s.tile t).xlt
  match a.victim with
  | none => match s.nextVictim t with
    | some v => s.startVictim t v
    | none => s
  | some v =>
    if a.gcPhase = 1 then
      if a.gcLeft ≠ [] then s
      else
        let s := s.copyVictim t v
        if (s.jobs t).any fun j => j.gc then s else s.modXlt t fun a => { a with gcPhase := 2 }
    else if a.gcPhase = 2 ∧ (s.stratum t v).st = .closed then
      if (s.dueRecs t).contains (.pendErase v) || s.recsInto t v then s
      else if s.victimEmpty t v then s.journal t [.pendErase v]
      else if (a.linesIn v).any (fun e => s.lineDue t e.1) || (a.imagesIn v).any (fun e => s.tractDue t e.1) ||
          (a.mapIn v).any (s.itemDue t) then s
      else s.startVictim t v
    else s

/-! ### Rolled groups (R279, R280) -/

/-- Staging frames that pulling a group needs. -/
def State.pullCount (s : State) (t : TileId) (slot : Nat) : Nat :=
  ((groupLines (s.compactAt t (slot * 64)) slot).filter fun l => !s.resident t l && (s.placeOf t l).isSome).length

/-- A group rolls in the background, where staging has the frames for it; not in a lost range, or one that is being unmapped (R289, R291). -/
def State.rollInBackground (s : State) (t : TileId) (slot : Nat) : State :=
  if s.pullCount t slot ≤ (s.tile t).adm.stFree ∧ s.lostAt t (slot * 64) = false ∧ s.unmapping t slot = false then s.startRoll t slot (s.compactAt t (slot * 64)) 0 else s

/-- A full ripe table rolls its oldest group (R279). -/
def State.rollOldest (s : State) (t : TileId) : State :=
  match (s.tile t).sec.ripe with
  | slot :: rest => if 65535 ≤ rest.length then s.rollInBackground t slot else s
  | [] => s

/-- A tract of a rolled group: its 64 lines sealed under the group's next counter, resident lines with their data and the
others as zero filler. -/
def State.rollTract (s : State) (t : TileId) (tract : Nat) (new : Ctr) : List (BitVec 2304) :=
  pageOf ((List.range 64).map fun i =>
    let line := tract * 64 + i
    s.sealWith t line (match Tab.find (s.tile t).adm.staged line with | some f => f.data | none => 0) new.major 0 new.epoch)

/-- Lines of a rolling group that went to the medium since its pulls were linked are pulled too, as staging has frames (R280). -/
def State.pullMore (s : State) (t : TileId) (slot : Nat) : State :=
  let more := (groupLines (s.compactAt t (slot * 64)) slot).filter fun l => !s.resident t l && (s.placeOf t l).isSome &&
    (Tab.find (s.tile t).adm.staged l).isNone
  if more.length ≤ (s.tile t).adm.stFree then
    let s := s.modAdm t fun a => { a with stFree := a.stFree - more.length }
    let s := s.modSec t fun a => { a with rolling := a.rolling.map fun e => if e.1 = slot then (slot, more) else e }
    (more.filterMap (s.placeOf t)).dedup.foldl (fun s cwa => s.bgFetch t cwa (.pull slot)) s
  else s

/-- The rollover image of a group all of whose lines are resident: direct images, one for each tract (R280); it waits for the
secret of a pass that begins (R282), for claims that hold its lines (R132), for frames of its lines that are still being packed, and for
whatever else is on its way to the group's tract entries. -/
def State.rollImage (s : State) (t : TileId) (slot : Nat) : State :=
  let line0 := slot * 64
  let comp := s.compactAt t line0
  let lines := groupLines comp slot
  let tracts := if comp then [slot, slot + 1] else [slot]
  match (s.tile t).sec.rolling.find? fun e => decide (e.1 = slot), s.rgnOfLine t line0 with
  | some (_, []), some r =>
    if s.lostAt t line0 || s.imagedAt t slot || (s.passing r && !(s.rgn r).pass) || lines.any (s.claimed t) || lines.any (s.pinnedAt t) ||
        (lines.any fun l => match Tab.find (s.tile t).adm.staged l with | some f => f.packing || decide (0 < f.older) | none => false) ||
        tracts.any (fun tr => s.tractDue t tr || s.unmapping t tr || (s.tile t).xlt.folds.any fun f => decide (f.tract = tr)) then s
    else if lines.any fun l => !s.resident t l && (s.placeOf t l).isSome then s.pullMore t slot
    else if !s.ctrReady t slot || !(s.tile t).sec.room || !(tracts.all fun tr => s.mayChange t (tr / 512)) then
      let s := tracts.foldl (fun s tr => s.wantPage t (tr / 512)) s
      if s.ctrReady t slot then s else s.wantCtr t slot
    else
      let new := s.rollTo t slot
      let rekey := decide ((s.ctrAt t line0).epoch ≠ new.epoch)
      let jobs := tracts.map fun tr =>
        let ords := (List.range 64).filterMap fun i => (Tab.find (s.tile t).adm.staged (tr * 64 + i)).map fun f => (tr * 64 + i, f.ord)
        ({ stream := .hot, content := .image tr ords (some (slot, decide (tr = tracts.getLastD slot)))
           cws := s.rollTract t tr new, lull := true, rekey } : PageJob)
      let mark := fun (e : Nat × Staged) => if lines.contains e.1 then (e.1, { e.2 with packing := true }) else e
      let s := s.modAdm t fun a => { a with staged := a.staged.map mark }
      let s := s.modSec t fun a => { a with imaged := Tab.put none a.imaged slot (some new) }
      s.modXlt t fun a => { a with bgPages := a.bgPages ++ jobs }
  | _, _ => s

/-! ### The walk of a pass (R283, R284) -/

/-- A group still under the old slot with a line on the medium, or on its way there. -/
def State.staleGroup (s : State) (t : TileId) (r : RegionId) (slot : Nat) : Bool :=
  decide ((Tab.get {} (s.tile t).sec.ctrs slot).epoch ≠ (s.rgn r).cur) && s.groupWritten t (s.rgn r).compact slot

/-- The slots of a region's groups on a tile, `n` of them from position `p` on. -/
def State.walkSlots (s : State) (r : RegionId) (p n : Nat) : List Nat :=
  let g := s.rgn r
  (List.range (min n (g.groups s.part - p))).map fun i => g.firstSlot s.part + (p + i) * (if g.compact then 2 else 1)

/-- The walk of one region on one tile in one frame: stalled groups first, then as many groups as REKEY_PACE asks of a frame;
it stops where staging lacks the frames for a group (log 19). -/
def State.walkRegion (s : State) (t : TileId) (r : RegionId) : State :=
  let p := Tab.get 0 (s.rgn r).reached t.val
  let s := ((s.stalledIn t r).filter (s.staleGroup t r)).foldl (fun s q => s.rollInBackground t q) s
  let n := max 1 (((s.tile t).med.rekeyPace + 1023) / 1024)
  ((s.walkSlots r p n).foldl (fun (e : State × Bool) q =>
    let (s, go) := e
    if !go then e
    else if s.staleGroup t r q then
      if (s.tile t).sec.rolling.any fun x => decide (x.1 = q) then
        (s.modRgn r fun g => { g with reached := Tab.put 0 g.reached t.val (Tab.get 0 g.reached t.val + 1) }, true)
      else if s.pullCount t q ≤ (s.tile t).adm.stFree then
        ((s.rollInBackground t q).modRgn r fun g => { g with reached := Tab.put 0 g.reached t.val (Tab.get 0 g.reached t.val + 1) }, true)
      else (s, false)
    else (s.modRgn r fun g => { g with reached := Tab.put 0 g.reached t.val (Tab.get 0 g.reached t.val + 1) }, true))
    (s, true)).1

def State.walk (s : State) (t : TileId) : State :=
  (List.finRange 16).foldl (fun s r => if (s.rgn r).pass then s.walkRegion t r else s) s

/-- Every tile has reached the end of its share, and no group of the region that can be rewritten is left under the old slot: a lost range
is skipped (R283, R289). -/
def State.passReached (s : State) (r : RegionId) : Bool :=
  s.fitted.all fun t => decide ((s.rgn r).groups s.part ≤ Tab.get 0 (s.rgn r).reached t.val) &&
    !((s.tile t).sec.ctrs.any fun e => decide ((s.rgnOfLine t (e.1 * 64)) = some r) && !s.lostAt t (e.1 * 64) && s.staleGroup t r e.1)

/-! ### Checkpoints (R176, R206, R214, R277, R278) -/

/-- The counter pages of the pinned levels (R277). -/
def pinnedPages : List Nat := [7, 8, 9].flatMap fun l => (List.range ((treeObjects l + 63) / 64)).map fun i => levelBase l + i

/-- A checkpoint begins (R176): what is dirty is to be written back, with the pinned levels; then the tables follow, and CKPT. -/
def State.startCkpt (s : State) (t : TileId) : State :=
  let a := (s.tile t).xlt
  if a.ckptRun.isSome then s
  else
    let todo := (a.dirtyList ++ (s.tile t).sec.dirtyPages ++ pinnedPages).dedup
    let k : CkptRun := { todo, skip := todo.filter (s.itemDue t), spans := a.spans }
    s.modXlt t fun a => { a with ckptRun := some k, ckptSf := some s.sf }

/-- CHECKPOINT: once every 64 superframes (log 20). -/
def State.checkpoint (s : State) (t : TileId) : State :=
  match (s.tile t).xlt.ckptSf with
  | some x => if 64 ≤ s.sf.toNat - x.toNat then s.startCkpt t else s
  | none => s.startCkpt t

/-- The checkpoint that ends a packing, a reload or a recovery without a drain begins, once none is being taken (R292, R329, R341). -/
def State.lastCheckpoint (s : State) (t : TileId) : State :=
  if (s.tile t).xlt.ckptRun.isSome then s else (s.startCkpt t).modCtl t fun c => { c with lastCkpt := 1 }

/-- What the write-back of counter pages needs is fetched: the parents of their dirty objects, and their places (R277, R278). -/
def State.prepWriteBack (s : State) (t : TileId) : State :=
  let waits := (s.tile t).xlt.mapPages.filterMap fun j => match j.content with | .mapItem p _ _ => some p | _ => none
  (s.dirtyWork t ++ waits).foldl (fun s p => if s.mayWriteBack t p then s else s.wantWriteBack t p) s

/-- Background work goes on. -/
def State.bgWork (s : State) (t : TileId) : State :=
  let s := if (s.tile t).xlt.displaced = [] then s else s.placeDisplaced t
  (((((((s.poisonStaged t).prepPack t).prepWriteBack t).unmapWork t).foldPages t).foldOccupancy t).collect t).rollOldest t

end Sys2Proof.Machine
end

