-- ==== Sys2Proof/Machine/Medium.lean ====
section
/-! DEFINITION. Slabs, spares, wear, lost dies, drift, patrol and refresh (chapter 7). -/

namespace Sys2Proof.Machine

/-! ### Slabs and pools (R194, R195, R198) -/

/-- The physical slab behind a slab number. -/
def DieRec.phys (d : DieRec) (slab : Nat) : Nat := (Tab.find d.remap slab).getD slab
/-- The pool: reserve slabs that have not left it, and slabs that have joined it. -/
def DieRec.pool (d : DieRec) : List Nat :=
  (((List.range 4096).map fun i => 65536 + i).filter fun p => !d.poolOut.contains p) ++ d.poolIn
/-- Erase count of a physical slab. -/
def DieRec.count (d : DieRec) (p : Nat) : Nat := Tab.get 0 d.wear p
/-- The youngest and the oldest of some pool members; among equals the first (log 9). -/
def DieRec.youngest (d : DieRec) (l : List Nat) : Option Nat := l.foldl (fun b p => match b with
  | none => some p
  | some q => if d.count p < d.count q then some p else b) none
def DieRec.oldest (d : DieRec) (l : List Nat) : Option Nat := l.foldl (fun b p => match b with
  | none => some p
  | some q => if d.count q < d.count p then some p else b) none
/-- A slab leaves the pool, or joins it. -/
def DieRec.take (d : DieRec) (p : Nat) : DieRec :=
  if d.poolIn.contains p then { d with poolIn := d.poolIn.filter fun q => decide (q ≠ p) } else { d with poolOut := p :: d.poolOut }
def DieRec.give (d : DieRec) (p : Nat) : DieRec :=
  if d.poolOut.contains p then { d with poolOut := d.poolOut.filter fun q => decide (q ≠ p) } else { d with poolIn := p :: d.poolIn }
/-- A slab number is assigned to a physical slab. -/
def DieRec.assign (d : DieRec) (slab p : Nat) : DieRec :=
  { d with remap := if slab = p then Tab.del slab d.remap else Tab.ins slab p d.remap }
/-- A pool member takes over a slab number from a physical slab that is retired, or that joins the pool. -/
def DieRec.replace (d : DieRec) (slab y : Nat) : DieRec := let p := d.phys slab; { (d.take y).assign slab y with bad := p :: d.bad }
def DieRec.exchange (d : DieRec) (slab y : Nat) : DieRec := let p := d.phys slab; ((d.take y).give p).assign slab y
/-- Highest and lowest erase count of the die's good physical slabs (R204). -/
def DieRec.maxCount (d : DieRec) : Nat :=
  (d.wear.filter fun e => !d.bad.contains e.1).foldl (fun m e => max m e.2) 0
def DieRec.minCount (d : DieRec) : Nat :=
  let l := d.wear.filter fun e => !d.bad.contains e.1
  if l.length < 69632 - d.bad.length then 0 else l.foldl (fun m e => min m e.2) d.maxCount
def DieRec.spread (d : DieRec) : Nat := d.maxCount - d.minCount

/-- The records as they will be once every change that waits has been programmed, and the pool members that no carry-over has claimed. -/
def Die.last (x : Die) : DieRec := match x.changes.getLast? with | some h => h.recs | none => x.recs
def Die.spares (x : Die) : List Nat := x.last.pool.filter fun p => decide (x.carry.map Carry.dest ≠ some p)

/-- A change of a die's records waits to be programmed into its remap area (R195). -/
def State.change (s : State) (t : TileId) (c d : Nat) (f : DieRec → DieRec) (failed : Option Prog := none) : State :=
  s.modDie t c d fun x => { x with changes := x.changes ++ [{ recs := f x.last, at_ := s.now, failed }] }

/-- A mark that takes no program of the die itself, the loss of it or its spare-low event, stands at once (log 135). -/
def State.mark (s : State) (t : TileId) (c d : Nat) (f : DieRec → DieRec) : State :=
  let s := s.modDie t c d fun x => { x with recs := f x.recs, changes := x.changes.map fun h => { h with recs := f h.recs } }
  s.modMedium t fun m => { m with remaps := Tab.upd {} m.remaps (8 * c + d) f }

/-- The tile becomes read-only for a cause (R199): bit 0 spares, bit 1 lost-die capacity. -/
def State.readOnlyTile (s : State) (t : TileId) (cause : BitVec 2) : State :=
  let old := (s.tile t).med.roCause
  if old &&& cause = cause then s
  else
    let s := s.modMed t fun a => { a with roCause := a.roCause ||| cause }
    s.raise (tsrc t 9) (fld 0 (old ||| cause).toNat)

/-- What a die's pool size calls for (Table 7.3). -/
def State.poolCheck (s : State) (t : TileId) (c d : Nat) : State :=
  let r := (s.die t c d).last
  let n := r.pool.length
  let s := if n < 512 ∧ r.spareLow = false then
      (s.mark t c d fun r => { r with spareLow := true }).raise (tsrc t 8) (fld 0 c ||| fld 3 d ||| fld 16 n)
    else s
  if n < 64 then s.readOnlyTile t 1 else s

/-! ### Lost dies (R200 to R202) -/

/-- Lost-die capacity of a tile in GiB (R202). -/
def State.lostCap (s : State) (t : TileId) : Nat :=
  ((List.range 8).map fun d => match (s.lostChans t d).length with | 0 => 0 | 1 => 64 | _ => 448).sum

/-- What a die that has been lost was programming, or waiting to carry over, waits to be bound again. -/
def State.dropDie (s : State) (t : TileId) (c d : Nat) : State :=
  let x := s.die t c d
  let of := fun (g : Option Prog) => match g with | some g => g.pages | none => []
  let l := of x.prog ++ of (x.carry.map Carry.failed) ++ x.changes.flatMap fun h => of h.failed
  let s := s.modDie t c d fun x => { x with prog := none, erase := none, carry := none, changes := [] }
  let s := s.dropFetches t fun f => decide (f.owner = .carry (8 * c + d))
  let s := l.foldl (fun (s : State) j => s.requeue t j) s
  match Tab.get none (s.tile t).sch.runs c with
  | some r =>
    if r.die.val = d then
      let s := s.modSch t fun a => { a with runs := Tab.put none a.runs c (some { r with page := none }) }
      match r.page with | some g => g.pages.foldl (fun (s : State) j => s.requeue t j) s | none => s
    else s
  | none => s

/-- Reads of a lost die go to rebuild; a rebuild read there fails (R146, R200). -/
def State.redirect (s : State) (t : TileId) (c d : Nat) : State :=
  (s.tile t).sch.fetches.foldl (fun s e => match e.2 with
    | none => s
    | some f =>
      let here := decide ((cwaChan f.cwa).val = c ∧ (cwaDie f.cwa).val = d)
      let ids := fun (l : List Nat) => l.filter fun i => decide (i ≠ e.1)
      match f.stage with
      | .rebuild _ _ _ => s
      | _ =>
        if !here then s
        else
          let s := s.modAdm t fun a => { a with ready := (a.ready.map fun q => (q.1, ids q.2)).filter fun q => decide (q.2 ≠ []) }
          match f.owner with
          | .child _ => s.endRead t e.1 f none
          | .patrol => s.setFetch t e.1 none
          | _ => s.startRebuild t e.1 f) s

/-- The codewords of two lost members of one index: every line there gets persistent poison, what the MAP stream holds there cannot be read
(R212, R213, Table 7.4). -/
def State.poisonIndex (s : State) (t : TileId) (d : Nat) : State :=
  let lost := s.lostChans t d
  let a := (s.tile t).xlt
  let here := fun (c : BitVec 34) => decide ((cwaDie c).val = d) && lost.contains (cwaChan c).val &&
    decide ((s.stratum t (cwaStratum c)).narrow = none)
  let page := fun (p : BitVec 30) => (List.range 16).map (cwAddr p)
  let logs := a.ovl.filterMap fun e => match e.2 with | some (some la) => some (BitVec.ofNat 34 (la / 4)) | _ => none
  let imgs := a.te.flatMap fun e => if e.2.image then page e.2.loc else []
  let items := a.dir.flatMap fun e => if e.2.isEmpty then [] else page e.2.loc
  let raws := ((a.jpages.map fun e => e.1) ++ a.ckptPages).flatMap page
  let s := ((logs ++ imgs).filter here).dedup.foldl (fun s c => s.poisonCw t c 2) s
  ((items ++ raws).filter here).dedup.foldl (fun s c => s.mapUnreadable t c) s

/-- A die is lost, for a cause in R200's order. -/
def State.loseDie (s : State) (t : TileId) (c d : Nat) (cause : Nat) : State :=
  if (s.die t c d).recs.lost then s
  else
    let second := decide (s.lostChans t d ≠ [])
    let running := (s.tile t).med.evacDies.contains d
    let s := s.dropDie t c d
    let s := (s.mark t c d fun r => { r with lost := true }).modDie t c d fun x => { x with levelReq := none }
    let s := s.raise (tsrc t 10) (fld 0 c ||| fld 3 d ||| fld 8 cause)
    let s := (s.tile t).xlt.strata.foldl (fun s e => if e.1 / 65536 = d ∧ e.2.st = .opened then s.sealStratum t e.1 else s) s
    let s := s.modXlt t fun a => { a with strata := a.strata.map fun e =>
      (e.1, if e.1 / 65536 = d ∧ second = true then { e.2 with doomed := true } else e.2) }
    let s := if second && running then s.poisonIndex t d else s
    let s := s.modMed t fun a => { a with evacDies := if a.evacDies.contains d then a.evacDies else d :: a.evacDies }
    let s := (s.redirect t c d).evacEnds t
    if 256 ≤ s.lostCap t then s.readOnlyTile t 2 else s

/-! ### Levelling (R204) -/

/-- A die whose spread exceeds 4,096 cycles raises a levelling request: it names the slab number on the lowest-count assigned physical
slab (R204). -/
def State.levelling (s : State) (t : TileId) (c d : Nat) : State :=
  let x := s.die t c d
  let r := x.last
  if r.lost ∨ x.levelReq.isSome ∨ r.spread ≤ 4096 then s
  else
    match (List.range 65536).foldl (fun (b : Option Nat) l => match b with
        | none => some l
        | some q => if r.count (r.phys l) < r.count (r.phys q) then some l else b) none with
    | none => s
    | some l => s.modDie t c d fun x => { x with levelReq := some (l, s.sf) }

/-! ### Retirement (R196 to R198) -/

/-- A retirement counts: RETIRE, and the retirements of the die in the epoch (R200). -/
def State.countRetired (s : State) (t : TileId) (c d : Nat) : State :=
  (s.modDie t c d fun x => { x with
    retCount := if x.retEpoch = s.epoch then x.retCount + 1 else 1, retEpoch := s.epoch }).medCcnt t c 2
/-- What a retirement entails: the pool's size, the wear of the slabs that are left, 64 retirements within an epoch (R198, R200, R204). -/
def State.retireEnds (s : State) (t : TileId) (c d : Nat) : State :=
  let s := (s.poolCheck t c d).levelling t c d
  if 64 ≤ (s.die t c d).retCount ∧ (s.die t c d).retEpoch = s.epoch then s.loseDie t c d 2 else s

/-- A physical slab is retired, and its slab number takes `dest`; with no replacement its stratum is sealed as it stands and withdrawn at its
erase. `failed`: the page position that goes back to the tile with the change (R197). -/
def State.retire (s : State) (t : TileId) (c d slab : Nat) (dest : Option Nat) (failed : Option Prog := none) : State :=
  let s := s.change t c d (fun r => match dest with
    | some y => r.replace slab y
    | none => { r with bad := r.phys slab :: r.bad }) failed
  let s := (s.countRetired t c d).modDie t c d fun x => { x with
    levelReq := if x.levelReq.map Prod.fst = some slab then none else x.levelReq }
  let n0 := d * 65536 + slab
  let s : State := match dest with
    | some _ => s
    | none => (if (s.stratum t n0).st = .opened then s.sealStratum t n0 else s).modStratum t n0 fun g => { g with doomed := true }
  s.retireEnds t c d

/-- A failure that a repeated step has recovered counts in the slab's life (Table 7.2). -/
def State.countFail (s : State) (t : TileId) (c d slab : Nat) : State :=
  s.change t c d fun r => { r with fails := Tab.upd 0 r.fails (r.phys slab) (· + 1) }

/-- A slab is retired whose page position has failed: the positions before it are carried over first (R195, R197). -/
def State.beginCarry (s : State) (t : TileId) (c d : Nat) (g : Prog) : State :=
  let x := s.die t c d
  match x.last.youngest x.spares with
  | none => s.retire t c d (g.stratum % 65536) none (some g)
  | some y =>
    if g.pos = 0 then s.retire t c d (g.stratum % 65536) (some y) (some g)
    else
      let cws := (List.range g.pos).flatMap fun p => (List.range 4).flatMap fun pl =>
        (List.range 16).map (cwAddr (pageAddr g.stratum c p pl))
      let s := s.modDie t c d fun x => { x with carry := some { failed := g, dest := y, left := cws } }
      cws.foldl (fun s a => s.bgFetch t a (.carry (8 * c + d))) s

/-- An erase step reports failure (R196): recovered by a repeated step, it is counted; else the slab number takes an erased replacement, so
that its erase is done. -/
def State.eraseFailed (s : State) (t : TileId) (c d : Nat) (recovered : Bool) : State :=
  match (s.die t c d).erase with
  | none => s
  | some (n, k, at_, o) =>
    let s := s.medCcnt t c 1
    if recovered then
      (s.modDie t c d fun x => { x with erase := some (n, k - 1, at_, o) }).countFail t c d (n % 65536)
    else
      let x := s.die t c d
      let s := s.modDie t c d fun x => { x with erase := none }
      let s := s.modStratum t n fun g => { g with
        erased := if g.erased.contains c then g.erased else c :: g.erased, spared := if g.spared.contains c then g.spared else c :: g.spared }
      s.retire t c d (n % 65536) (x.last.youngest x.spares)

/-- A record of a die's remap area has been programmed: the table in SRAM changes, and a failed page position is programmed again on the
replacement (R195, R197). -/
def State.applyChange (s : State) (t : TileId) (c d : Nat) : State :=
  match (s.die t c d).changes with
  | [] => s
  | h :: r =>
    if h.steps < 12 then s
    else
      let s := s.modDie t c d fun x => { x with recs := h.recs, changes := r.map fun k => { k with at_ := s.now } }
      let s := s.modMedium t fun m => { m with remaps := Tab.put {} m.remaps (8 * c + d) h.recs }
      match h.failed with
      | none => s
      | some g =>
        let s := g.pages.foldl (fun s j => s.requeue t j) s
        s.modStratum t g.stratum fun q => { q with next := Tab.put 0 q.next c g.pos }

/-- A program of the drain into the cairn has ended on a die, or has failed: what it held is programmed again at the next cairn page
position, and the slab is retired at start-up (R337). -/
def State.cairnProgram (s : State) (t : TileId) (c d : Nat) (ok : Bool) : State :=
  let p := Tab.get 0 (s.tile t).ctl.cairnPos (8 * c + d)
  if (s.tile t).ctl.cairnLeft = 0 ∨ (s.die t c d).recs.lost = true ∨ 256 ≤ p then s
  else
    let s := s.modCtl t fun a => { a with
      cairnPos := Tab.put 0 a.cairnPos (8 * c + d) (p + 1), cairnLeft := if ok then a.cairnLeft - 1 else a.cairnLeft }
    if ok then s
    else (s.medCcnt t c 0).modMedium t fun m =>
      let e := (8 * c + d, cairnSlab + p / 64)
      { m with cairnBad := if m.cairnBad.contains e then m.cairnBad else m.cairnBad ++ [e] }

/-- A program step reports failure (R172, R183, R196, R197). Recovered by a repeated step, it is counted; else the slab is retired. A
replacement that fails itself goes to the bad list, and another takes its place. A tile that is being drained programs its cairn. -/
def State.progFail (s : State) (t : TileId) (c d : Nat) (recovered : Bool) : State :=
  match (s.die t c d).prog with
  | none =>
    if (s.tile t).ctl.draining = false then s
    else if recovered then (if (s.tile t).ctl.cairnLeft = 0 then s else s.medCcnt t c 0)
    else s.cairnProgram t c d false
  | some g =>
    if g.steps = 0 then s
    else
      let s := s.medCcnt t c 0
      if recovered then
        (s.modDie t c d fun x => { x with prog := some { g with steps := g.steps - 1 } }).countFail t c d (g.stratum % 65536)
      else
        let s := s.modDie t c d fun x => { x with prog := none }
        match (if g.carried then (s.die t c d).carry else none) with
        | some k =>
          let s := ((s.change t c d fun r => { r.take k.dest with bad := k.dest :: r.bad }).countRetired t c d).retireEnds t c d
          if (s.die t c d).recs.lost then s
          else
            let s := s.dropFetches t fun f => decide (f.owner = .carry (8 * c + d))
            (s.modDie t c d fun x => { x with carry := none }).beginCarry t c d k.failed
        | none =>
          let s := if g.pages.any fun j => j.gc then s.xltCnt t 8 else s
          s.beginCarry t c d g

/-- PROGRAM_COMPLETE: the program of a page position has ended, or that of a record of the remap area. -/
def State.programmed (s : State) (t : TileId) (c d : Nat) : State :=
  match (s.die t c d).prog with
  | none => if (s.tile t).ctl.draining then s.cairnProgram t c d true else s.applyChange t c d
  | some g =>
    if g.steps < 12 then s
    else
      let s := s.progDone t c d g
      match (if g.carried then (s.die t c d).carry else none) with
      | none => s
      | some k =>
        let s := s.medCcnt t c 3
        if g.pos + 1 = k.failed.pos then
          (s.modDie t c d fun x => { x with carry := none }).retire t c d (g.stratum % 65536) (some k.dest) (some k.failed)
        else s

/-! ### Erase and wear (R181, R182, R203, R204) -/

/-- A stratum begins its erase once no read granted to a location in it is outstanding, one that waits for its retry, for its rebuild or
for the counters of its lines included (R182). -/
def State.eraseStart (s : State) (t : TileId) (n : Nat) : State :=
  let busy := ((s.tile t).sch.fetches.any fun e => match e.2 with
      | some f => (f.flying || f.seen || decide (f.stage ≠ .first)) && decide (cwaStratum f.cwa = n)
      | none => false) ||
    (s.tile t).adm.cells.any fun e => e.2.phase.any fun p => match p.2 with
      | .counter _ cwa _ _ => decide (cwaStratum cwa = n)
      | _ => false
  if (s.stratum t n).st = .pendErase ∧ busy = false ∧ ((s.tile t).sch.erases.contains n) = false then
    s.modSch t fun a => { a with erases := a.erases ++ [n] }
  else s

/-- The erase of one slab has ended: its count rises, and it is exchanged or retired (R196, R203, R204). -/
def State.slabErased (s : State) (t : TileId) (c n : Nat) : State :=
  let d := n / 65536
  let slab := n % 65536
  let p := (s.die t c d).last.phys slab
  let s := s.change t c d fun r => { r with wear := Tab.put 0 r.wear p (r.count p + 1) }
  let x := s.die t c d
  let r := x.last
  let named := decide (x.levelReq.map Prod.fst = some slab)
  if (s.stratum t n).weak.contains c ∨ 16 ≤ Tab.get 0 r.fails p then s.retire t c d slab (r.youngest x.spares)
  else
    let s := if named then s.modDie t c d fun x => { x with levelReq := none } else s
    match (if named then r.oldest x.spares else r.youngest x.spares) with
    | some y => if named = true ∨ r.count y + 64 ≤ r.count p then (s.change t c d fun r => r.exchange slab y).medCcnt t c 7 else s
    | none => s

/-- Every slab of a stratum has had its last erase step: the wear exchanges, and the FREED record (R181, R201). -/
def State.eraseDone (s : State) (t : TileId) (n : Nat) : State :=
  let d := n / 65536
  let g := s.stratum t n
  let chans := (List.range 8).filter fun c => !(s.die t c d).recs.lost && decide (g.narrow.map Fin.val ≠ some c)
  let ok := chans.all fun c => g.erased.contains c || (match (s.die t c d).erase with
    | some (m, k, _, _) => decide (m = n ∧ k = 704)
    | none => false)
  if g.st = .pendErase ∧ (s.tile t).sch.erases.contains n = true ∧ ok = true then
    let s := chans.foldl (fun s c => match (s.die t c d).erase with
      | some (m, _, _, _) => if m = n then s.endErase t c d else s
      | none => s) s
    let wear := (s.wearStrata t).contains n
    let s := chans.foldl (fun s c => if g.spared.contains c then s else s.slabErased t c n) s
    let s := chans.foldl (fun s c => s.levelling t c d) s
    let s := s.modMedium t fun m => { m with cws := Tab.keep (fun k => decide (k / 32768 ≠ n)) m.cws }
    let s := s.modMed t fun a => { a with fixed := Tab.keep (fun k => decide (k / 32768 ≠ n)) a.fixed }
    let s := if g.refresh || decide (11 ≤ g.bucket.toNat) then s.medTcnt t 5 else s
    let s := if wear then s.medTcnt t 7 else s
    let lost := s.lostChans t d
    let s := s.modStratum t n fun g => { g with
      erased := [], spared := [], weak := [], holes := []
      narrow := (match lost with | c :: _ => some ⟨c % 8, Nat.mod_lt _ (by decide)⟩ | [] => g.narrow)
      doomed := g.doomed || decide (2 ≤ lost.length) }
    let s := s.modSch t fun a => { a with erases := a.erases.filter fun k => decide (k ≠ n) }
    s.journal t [.freed n]
  else s

/-! ### Drift (R206 to R210) -/

/-- Width of a drift bucket in units of the drift clock (Table 7.5): 16,000 units to a reference second. -/
def bucketWidth (b : Nat) : Nat := 16000 * match b with
  | 0 => 64
  | 1 => 192
  | 2 => 768
  | 3 => 3072
  | 4 => 12288
  | 5 => 49152
  | 6 => 196608
  | 7 => 262144
  | 8 => 524288
  | 9 => 1048576
  | 10 => 1048576
  | 11 => 1048576
  | 12 => 1048576
  | 13 => 1048576
  | _ => 1572864

/-- DC advances by `w` units, and with it the counted age of every sealed stratum (R206, R207). -/
def State.drift (s : State) (t : TileId) (w : Nat) : State :=
  let s := s.modMed t fun a => { a with dc := a.dc + BitVec.ofNat 64 w }
  s.modXlt t fun a => { a with strata := a.strata.map fun e =>
    (e.1, if e.2.st = .closed ∨ e.2.st = .pendErase then { e.2 with progress := e.2.progress + w } else e.2) }

/-- The weight of a diode reading, in quarters of a degree (R206). -/
def State.weight (s : State) (t : TileId) (quarters : Int) : Nat :=
  (Tab.get 0 (s.tile t).med.weights (min 63 (quarters.toNat / 8))).toNat

/-- A finding makes a stratum a refresh victim (R211). -/
def State.toRefresh (s : State) (t : TileId) (n : Nat) : State := s.modStratum t n fun g => { g with refresh := true }

/-- A stratum takes a bucket; entry to bucket 13 or a later one raises the refresh-late event (R210). -/
def State.setBucket (s : State) (t : TileId) (n b progress : Nat) : State :=
  let old := (s.stratum t n).bucket.toNat
  let s := s.modStratum t n fun g => { g with bucket := BitVec.ofNat 4 b, progress }
  if old < 13 ∧ 13 ≤ b then s.raise (tsrc t 13) (fld 0 n) else s

/-- A stratum's counted age has passed the width of its bucket (R207, R210): it is a refresh victim from bucket 11 on. One that waits for
its erase goes on ageing (Table 8.6). -/
def State.bucketEntry (s : State) (t : TileId) (n : Nat) : State :=
  let g := s.stratum t n
  let b := g.bucket.toNat
  if (g.st = .closed ∨ g.st = .pendErase) ∧ b < 15 ∧ bucketWidth b ≤ g.progress then s.setBucket t n (b + 1) (g.progress - bucketWidth b)
  else s

/-- Some run or program carries a page of a stratum. -/
def State.stratumBusy (s : State) (t : TileId) (n : Nat) : Bool :=
  ((s.tile t).med.dies.any fun e => match e.2.prog with | some g => decide (g.stratum = n) | none => false) ||
  ((s.tile t).sch.runs.any fun e => match e.2 with
    | some r => (match r.page with | some g => decide (g.stratum = n) | none => false)
    | none => false)

/-- Filler on every position of a data channel from `p` on. -/
def fillCws (m : Tab (BitVec 2304)) (n c p : Nat) : Tab (BitVec 2304) :=
  (List.range (64 - p)).foldl (fun m i => (List.range 4).foldl (fun m pl => (List.range 16).foldl (fun m j =>
    Tab.ins (cwAddr (pageAddr n c (p + i) pl) j).toNat 0 m) m) m) m

/-- A stratum OPEN for 16 reference seconds is filled and sealed (R208); the filler programs are taken whole (log 21). -/
def State.pad (s : State) (t : TileId) (n : Nat) : State :=
  let g := s.stratum t n
  if g.st = .opened ∧ 256000 ≤ (s.tile t).med.dc.toNat - g.openedDc ∧ s.stratumBusy t n = false then
    let ch := s.dataChans t n
    let s := s.modMedium t fun m => { m with cws := ch.foldl (fun m c => fillCws m n c (Tab.get 0 g.done c)) m.cws }
    let s := s.modStratum t n fun g => { g with
      next := ch.foldl (fun m c => Tab.put 0 m c 64) g.next, done := ch.foldl (fun m c => Tab.put 0 m c 64) g.done }
    (s.sealIfFull t n).medTcnt t 6
  else s

/-! ### Patrol and survey (R211 to R216) -/

/-- Programmed codewords of a stratum on dies that are not lost, from `lo` on: the first. -/
def State.nextCw (s : State) (t : TileId) (n lo : Nat) : Option (BitVec 34) :=
  ((s.medium t).cws.find? fun e => decide (lo ≤ e.1 ∧ e.1 / 32768 = n) && !s.dieLost t (BitVec.ofNat 34 e.1)).map fun e => BitVec.ofNat 34 e.1

/-- The strata that a pass reads, in order: SEALED ones; for a survey those that are age-uncertain (R211, R215). -/
def State.passStrata (s : State) (t : TileId) : List Nat :=
  ((s.tile t).xlt.strata.filter fun e => decide (e.2.st = .closed) && (e.2.uncertain || !(s.tile t).med.ageUnknown)).map fun e => e.1

/-- The pass goes on to the first stratum from `n` on that it reads and that has a codeword to be read; without one the pass has reached
every stratum. -/
def State.passFrom (s : State) (t : TileId) (n : Nat) : State :=
  match (s.passStrata t).findSome? fun k => if n ≤ k then (s.nextCw t k (k * 32768)).map fun c => (k, c) else none with
  | some (k, c) => s.modMed t fun a => { a with ppos := k, pnext := some c, psums := [] }
  | none => s.modMed t fun a => { a with
      pnext := none, passDone := true, passes := if a.ageUnknown then a.passes else min (a.passes + 1) 65535 }

/-- A new pass begins when the length of the last one has passed, a survey at once (R211, R215; log 136). -/
def State.passStart (s : State) (t : TileId) : State :=
  let a := (s.tile t).med
  if a.passDone ∧ (a.ageUnknown = true ∧ s.passStrata t ≠ [] ∨ a.ageUnknown = false ∧ a.epochs.toNat * 4096 ≤ s.sf.toNat - a.passSf.toNat) then
    (s.modMed t fun a => { a with passDone := false, reached := 0, passSf := s.sf }).passFrom t 0
  else if a.passDone = false ∧ a.pnext = none then s.passFrom t 0
  else s

/-- Advances of DC that fell due in a reset are applied as the tile leaves it (R206; log 64). -/
def State.driftDue (s : State) (t : TileId) : State :=
  (s.drift t (s.tile t).med.dcDue).modMed t fun a => { a with dcDue := 0 }

/-- The set that corrects the fewest bits over a stratum; a codeword that a set does not decode counts 2^20 bits for it (log 137). -/
def bestSet (sums : List Nat) : Nat :=
  ((List.range 16).foldl (fun (b : Nat × Nat) i => if sums.getD i 0 < b.2 then (i, sums.getD i 0) else b) (0, sums.getD 0 0)).1
def addSums (sums : List Nat) (bits : List (Option Nat)) : List Nat :=
  (List.range 16).map fun i => sums.getD i 0 + ((bits.getD i none).getD (2 ^ 20))

/-- The fewest bits that a survey's sets corrected in a codeword, `none` where none of them decodes it (log 137). -/
def fewest (sets : List (Option Nat)) : Option Nat := sets.foldl (fun b x => match b, x with
  | some k, some n => some (min k n)
  | none, x => x
  | b, none => b) none

/-- A codeword as its reads found it (Table 7.7). `first`: the bits corrected under the set it is read with first, `none` where
it does not decode; `next`: what gives it then. -/
def State.finding (s : State) (t : TileId) (cwa : BitVec 34) (first : Option Nat) (next : Recourse) : State :=
  let n := cwaStratum cwa
  let c := (cwaChan cwa).val
  let g := s.stratum t n
  match first, next with
  | some k, _ =>
    if k < 120 then s.medTcnt t 0
    else ((s.medTcnt t 1).modStratum t n fun g => { g with weak := if g.weak.contains c then g.weak else c :: g.weak }).toRefresh t n
  | none, .retried =>
    ((s.medTcnt t 2).setBucket t n (min (g.bucket.toNat + 1) 15) 0).toRefresh t n
  | none, .rebuilt => (s.medTcnt t 3).toRefresh t n
  | none, .lost =>
    if g.stream = .map ∨ g.stream = .counters then s.mapUnreadable t cwa else s.poisonCw t cwa 0

/-- The last codeword of a stratum has been read: a surveyed stratum takes the bucket whose set corrects the fewest bits, and is a refresh
victim in bucket 11 or older; the pass has reached the stratum (R211, R215). -/
def State.reached (s : State) (t : TileId) (n : Nat) : State :=
  let s := if (s.stratum t n).uncertain then
      let b := bestSet (s.tile t).med.psums
      (s.setBucket t n b 0).modStratum t n fun g => { g with uncertain := false }
    else s
  (s.modMed t fun a => { a with reached := a.reached + 1 }).passFrom t (n + 1)

/-- The pass goes on in a stratum behind a codeword. -/
def State.passOn (s : State) (t : TileId) (n : Nat) (cwa : BitVec 34) : State := match s.nextCw t n (cwa.toNat + 1) with
  | some c => s.modMed t fun a => { a with pnext := some c }
  | none => s.reached t n

/-- The calibration reads of the next codeword of the pass are linked (R188, R211, R215): one under its bucket's set, in a survey one under
each of the sixteen sets. -/
def State.patrol (s : State) (t : TileId) : State :=
  let s := s.passStart t
  if s.reading t .patrol ∨ (s.tile t).med.pfound.isSome = true then s
  else match (s.tile t).med.pnext with
    | none => s
    | some c =>
      let n := cwaStratum c
      if (s.stratum t n).st ≠ .closed then s.passFrom t (n + 1)
      else if s.dieLost t c then s.passOn t n c
      else if (s.stratum t n).uncertain then
        (List.range 16).foldl (fun s k => s.newFetch t { cwa := c, owner := .patrol, since := s.now, bucket := k }) s
      else s.bgFetch t c .patrol

/-- The calibration reads of a codeword that patrol or survey is at, each of which has been issued. -/
def State.patrolled (s : State) (t : TileId) (cwa : BitVec 34) : List (Nat × Fetch) :=
  let l := (s.tile t).sch.fetches.filterMap fun e => match e.2 with
    | some f => if f.owner = .patrol ∧ f.cwa = cwa then some (e.1, f) else none
    | none => none
  if l.all fun e => e.2.flying && decide (e.2.stage = .first) then l else []

/-- PATROL_FINDING: the calibration reads of the codeword that the pass is at have ended (Table 7.7, R215). `first`: the bits corrected under
its bucket's set; `sets`: those under each of the sixteen sets, which a survey adds up. A codeword that does not decode is read again and
rebuilt as any other, and `next` names what that has given. -/
def State.found (s : State) (t : TileId) (cwa : BitVec 34) (first : Option Nat) (next : Recourse) (sets : List (Option Nat)) : State :=
  let n := cwaStratum cwa
  match s.patrolled t cwa with
  | _ :: _ =>
    let survey := (s.stratum t n).uncertain
    let got := if survey then fewest sets else first
    let s0 := s.dropFetches t fun f => decide (f.owner = .patrol)
    if (s.stratum t n).st ≠ .closed then s0.passFrom t (n + 1)
    else
      let add := fun (s : State) => if survey then s.modMed t fun a => { a with psums := addSums a.psums sets } else s
      match got with
      | some k => ((add s0).finding t cwa (some k) next).passOn t n cwa
      | none => if survey then (add s0).rebuildNow t cwa .patrol else s
  | [] =>
    if first = none ∧ (s.tile t).med.pfound = some next ∧ (s.tile t).med.pnext = some cwa then
      let s := s.modMed t fun a => { a with pfound := none }
      if (s.stratum t n).st ≠ .closed then s.passFrom t (n + 1) else (s.finding t cwa none next).passOn t n cwa
    else s

/-- The tile enters AGE_UNKNOWN (R214 to R216). -/
def State.enterUnknown (s : State) (t : TileId) : State :=
  let s := s.modXlt t fun a => { a with strata := a.strata.map fun e =>
    (e.1, if e.2.st = .closed ∨ e.2.st = .pendErase then { e.2 with uncertain := true } else e.2) }
  let s := s.modMed t fun a => { a with ageUnknown := true, pnext := none, pfound := none, passDone := true }
  s.raise (tsrc t 14) 0

/-- Strata still age-uncertain (MED_SURVEY). -/
def State.surveyLeft (s : State) (t : TileId) : Nat :=
  ((s.tile t).xlt.strata.filter fun e => e.2.uncertain && decide (e.2.st = .closed)).length

/-- The survey has covered every stratum (R215). -/
def State.surveyDone (s : State) (t : TileId) : State :=
  if (s.tile t).med.ageUnknown ∧ s.surveyLeft t = 0 then
    (s.modMed t fun a => { a with ageUnknown := false }).raise (tsrc t 14) 1 false
  else s

/-- A command of a die has not been acknowledged within 1 µs; four in a row lose the die (R200). -/
def State.dieTimeout (s : State) (t : TileId) (c d : Nat) : State :=
  let x := s.die t c d
  if x.recs.lost ∨ x.asked = false then s
  else if 3 ≤ x.timeouts then s.loseDie t c d 0
  else s.modDie t c d fun x => { x with timeouts := x.timeouts + 1, asked := false }

/-- The die indices under evacuation, as the lost dies and the stratum table show them (R201). -/
def State.evacSync (s : State) (t : TileId) : State :=
  (s.modMed t fun a => { a with evacDies := (List.range 8).filter fun d => decide (s.lostChans t d ≠ []) }).evacEnds t

/-- Medium initialisation (R194, R198, R200, R214): the remap areas are read and, after a cold reset, the witness. DC goes on from the
value that the witness records; with no witness read, OPEN strata count their time from here (log 138). -/
def State.initMedium (s : State) (t : TileId) (m : MedInit) : State :=
  let s := if (s.tile t).med.remapRead then s else
    let area := (s.medium t).remaps
    s.modMed t fun a => { a with remapRead := true, dies := (List.range 64).foldl (fun d i => Tab.upd {} d i fun x =>
      { x with recs := Tab.get {} area i, changes := [] }) a.dies }
  let s := (List.range 64).foldl (fun s i => if m.unreadable.getLsbD i then s.loseDie t (i / 8) (i % 8) 3 else s) s
  let s := (List.range 64).foldl (fun s i => if (s.die t (i / 8) (i % 8)).recs.lost then s
    else (s.poolCheck t (i / 8) (i % 8)).levelling t (i / 8) (i % 8)) s
  -- slabs of the cairn that failed in a drain are retired now (R337)
  let s := (s.medium t).cairnBad.foldl (fun s e => if (s.die t (e.1 / 8) (e.1 % 8)).recs.lost then s
    else s.retire t (e.1 / 8) (e.1 % 8) e.2 ((s.die t (e.1 / 8) (e.1 % 8)).last.youngest (s.die t (e.1 / 8) (e.1 % 8)).spares)) s
  let s := s.modMedium t fun m => { m with cairnBad := [] }
  let s := s.evacSync t
  let s :=
    if (s.tile t).med.dcRead then s
    else
      let s := match m.witness with
        | some (b0, b1) =>
          let s := s.modMed t fun a => { a with dc := (s.medium t).witness }
          if b0 ≤ b1 then s else s.enterUnknown t
        | none =>
          let s := s.modXlt t fun a => { a with strata := a.strata.map fun (e : Nat × Stratum) => (e.1, { e.2 with openedDc := 0 }) }
          s.enterUnknown t
      s.modMed t fun a => { a with dcRead := true }
  s.modCtl t fun a => { a with medInit := true }

end Sys2Proof.Machine
end

