-- ==== Sys2Proof/Machine/Session.lean ====
section
/-! DEFINITION. Sessions: their end and closing, enrollment, stranger frames, keep-alive, gaps and timers (R54 to R66, R74
to R94, R111, R427, R428). -/

namespace Sys2Proof.Machine

/-! ### Strangers (R93, R94) -/

/-- A stranger frame of class `i` of Table 3.7 on a link. -/
def State.stranger (s : State) (p : PortId) (j : LinkId) (i : Nat) (sa : BitVec 48) : State :=
  let s := s.modStrg p j fun g => { cnt := Tab.bump g.cnt i, last := sa }
  s.raise 15 (fld 0 (4 * p.val + j.val) ||| fld 32 1) true fun d =>
    fld 0 (4 * p.val + j.val) ||| fld 32 (min (d.toNat / 2 ^ 32 + 1) 0xFFFFFFFF)

/-! ### The end of a session (R91, R92, R111) -/

/-- A lease breaks (R120): the journal of the lock is to be resolved. -/
def State.breakLease (s : State) (r : RegionId) (cause : BitVec 2) : State :=
  s.modRgn r fun g => if g.held ∧ g.resolving = none then { g with resolving := some cause, expiry := none } else g

/-- A LIVE session ends for a cause of Table 3.6, and becomes CLOSING. Its leases are broken. DESIGN CHOICE (log 160): with the cause of
a session's end, also where a re-enrollment ends it. -/
def State.endSession (s : State) (x : SessId) (cause : BitVec 3) : State :=
  let S := s.ses x
  if S.st = .live then
    let s := s.modSes x fun S =>
      { st := .closing, port := S.port, link := S.link, v1 := S.v1, steward := S.steward, lastEnd := cause, epoch := S.epoch
        mac := S.mac, sci := S.sci, exch := S.exch, fin := S.fin, finAck := S.finAck, ka := S.ka, dseq := S.dseq, e := S.e
        acked := S.acked, hi := S.hi, pcp := S.pcp, txAt := S.txAt, rxAt := S.rxAt, rtoAt := S.rtoAt }
    let s := s.voidArms x
    let s := (List.finRange 8).foldl (fun s t =>
      if (s.tile t).ctl.st = .faultReset ∨ (s.tile t).ctl.st = .replay then s
      else (s.queue t x).foldl (fun s id => s.endCell t id) s) s
    let s := (List.finRange 16).foldl (fun s r =>
      if (s.rgn r).held ∧ (s.rgn r).holder = x then s.breakLease r 2 else s) s
    s.raise 13 (fld 0 x.val ||| fld 8 cause.toNat ||| fld 16 S.epoch.toNat)
  else s

/-- A session that is ENROLLING or LIVE ends at a steward's word (R91): ENROLLING returns to IDLE at once. -/
def State.killSession (s : State) (x : SessId) (cause : BitVec 3) : State :=
  match (s.ses x).st with
  | .enrolling => s.modSes x fun S => { S with st := .idle, exch := none, fin := none }
  | .live => s.endSession x cause
  | _ => s

/-- Sessions bound to a link end with cause 0b011 (R91, R427). -/
def State.endLink (s : State) (p : PortId) (j : LinkId) : State :=
  (List.finRange 64).foldl (fun s x =>
    if (s.ses x).port = p ∧ (s.ses x).link = j then s.endSession x 3 else s) s

/-- The device reaches the end of a packet number space (R87). -/
def State.pnCheck (s : State) (x : SessId) : State :=
  let S := s.ses x
  let out := (match S.tx with | some a => decide (a.pn = 0) | none => false) || S.rx.any fun a => decide (a.pn = 0)
  if S.st = .live ∧ out = true then
    s.endSession x 7
  else s

/-! ### Enrollment (R80 to R83, R428) -/

/-- The epoch of the next enrollment: the next value, skipping 0 (R76). -/
def nextEpoch (e : BitVec 16) : BitVec 16 := if e = 0xFFFF then 1 else e + 1
/-- E of a session's next exchange; an enrollment that has verified already has one. -/
def Sess.newEpoch (S : Sess) : BitVec 16 := nextEpoch (match S.fin with | some o => o.e | none => S.epoch)

/-- Whether the device answers an ENROLL for session `x` on a link (R82). DESIGN CHOICE (log 110): the other sessions on the link are
the LIVE ones. -/
def State.enrollOk (s : State) (p : PortId) (j : LinkId) (r : Rq) : Bool :=
  let x := r.hdr.session
  s.sesCtl.getLsbD 0 && (s.cred x).enable &&
  (decide (r.hdr.version = 2) || (decide (r.hdr.version = 1) && (s.cred x).v1ok)) &&
  (List.finRange 64).all fun y => decide (y = x) || decide ((s.ses y).st ≠ .live) ||
    decide ((s.ses y).port ≠ p ∨ (s.ses y).link ≠ j) || decide ((s.ses y).sci ≠ enrSci r)

/-- An unprotected frame leaves a link (R44), under the PCP of the frame it answers (R42). A frame too short for the MAC is filled up,
with free bytes (log 1). -/
def State.emitEnr (s : State) (p : PortId) (j : LinkId) (mac : BitVec 48) (pcp : BitVec 3) (f : Frame) : State :=
  let b := s.unprotected p j mac pcp f
  let (pad, s) := if padOf b = 0 then (([] : List Byte), s) else
    let (v, s) := s.draw (8 * padOf b)
    (leBytes (padOf b) v.toNat, s)
  { s with out := { port := p, link := j, mac, sec := none, pcp, frame := f, wire := withFcs (b ++ pad) } :: s.out }

/-- The header of the ACK of an enrollment frame (Table 3.3). -/
def enrAckHdr (r : Rq) (st : Byte) (e : BitVec 16) (seq aux : Word) : Hdr :=
  { version := r.hdr.version, opcode := opAck, session := r.hdr.session, status := st, count := r.hdr.count, epoch := e, seq
    ack := r.hdr.seq, ref := r.hdr.seq, aux }

/-- The ACK of a pending ENROLL. -/
def Exch.ackFrame (o : Exch) : Frame :=
  { hdr := enrAckHdr o.rq stOk o.e o.d (BitVec.ofNat 32 o.ka), payload := o.ack }

/-- Whether an ENROLL_FINISH matches the pending exchange on its link (R82). -/
def Sess.finishMatches (S : Sess) (p : PortId) (j : LinkId) (r : Rq) : Bool :=
  match S.exch with
  | none => false
  | some o => decide (o.port = p ∧ o.link = j) && decide (r.hdr.seq = o.rq.hdr.seq + 1) && decide (r.hdr.epoch = o.e)

/-- Whether an ENROLL_FINISH repeats one already accepted. -/
def Sess.finishRepeats (S : Sess) (r : Rq) : Bool :=
  (S.finAck.any fun e => decide (e.1 = r)) || match S.fin with | some o => decide (o.finish = some r) | none => false

/-- An enrollment frame takes a place in the queue, or is dropped (R428). DESIGN CHOICE (log 111): a repeat that a stored ACK answers
takes a place as any other frame does. -/
def State.enqueueEnr (s : State) (q : Queued) : State :=
  let same := fun (o : Queued) => decide (q.frame.rq.hdr.opcode = opEnroll ∧ o.frame.rq.hdr.opcode = opEnroll ∧
    o.frame.rq.hdr.session = q.frame.rq.hdr.session)
  if s.enrQ.any same then { s with enrQ := s.enrQ.map fun o => if same o then q else o }
  else if s.enrQ.length < 256 then { s with enrQ := s.enrQ ++ [q] }
  else s.stranger q.port q.link 3 q.frame.sa

/-- An unprotected ENROLL arrives. -/
def State.enrollArrives (s : State) (p : PortId) (j : LinkId) (f : EnrFrame) : State :=
  if f.rq.payload.length ≠ 56 ∨ s.enrollOk p j f.rq = false then s.stranger p j 3 f.sa
  else s.enqueueEnr { port := p, link := j, frame := f }

/-- An unprotected ENROLL_FINISH arrives. -/
def State.finishArrives (s : State) (p : PortId) (j : LinkId) (f : EnrFrame) : State :=
  let S := s.ses f.rq.hdr.session
  if f.rq.payload.length ≠ 64 ∨ (S.finishMatches p j f.rq = false ∧ S.finishRepeats f.rq = false) then s.stranger p j 3 f.sa
  else s.enqueueEnr { port := p, link := j, frame := f }

/-- A pending exchange is discarded or expires: an ENROLLING session returns to IDLE (R82), unless an ENROLL_FINISH of it has
verified and its enrollment is completing (R83). -/
def Sess.exchGone (S : Sess) : Sess :=
  { S with exch := none, st := if S.st = .enrolling ∧ S.fin = none then .idle else S.st }

/-- A new ENROLL is answered, and replaces a pending exchange under the same E. -/
def State.answerEnroll (s : State) (q : Queued) (x : SessId) : State :=
  let r := q.frame.rq
  if s.enrollOk q.port q.link r then
    let S := s.ses x
    let (priv, s) := s.draw 256
    let (nonce, s) := s.draw 128
    let (d, s) := s.draw 32
    let e := S.newEpoch
    if enrZ r priv = 0 then s.emitEnr q.port q.link q.frame.sa q.frame.pcp { hdr := enrAckHdr r stDenied e d (BitVec.ofNat 32 s.kaLimit) }
    else
      let o := s.offer x r priv nonce d e q.port q.link q.frame.sa (decide (r.hdr.version = 1))
      let s := s.modSes x fun S => { S with exch := some o, st := if S.st = .idle then .enrolling else S.st }
      s.emitEnr q.port q.link q.frame.sa q.frame.pcp o.ackFrame
  else s.stranger q.port q.link 3 q.frame.sa

/-- An ENROLL_FINISH already accepted is answered with the identical ACK (R82): at once, or as the enrollment it verified is installed. -/
def State.finishAgain (s : State) (q : Queued) (x : SessId) : State :=
  let S := s.ses x
  let r := q.frame.rq
  match S.finAck.find? fun e => decide (e.1 = r) with
  | some (_, a) => s.emitEnr q.port q.link q.frame.sa q.frame.pcp a
  | none => match S.fin with
    | some o =>
      if o.finish = some r then
        s.modSes x fun S => { S with fin := some { o with repeats := o.repeats ++ [(q.port, q.link, q.frame.sa, q.frame.pcp)] } }
      else s.stranger q.port q.link 3 q.frame.sa
    | none => s.stranger q.port q.link 3 q.frame.sa

/-- The front of the queue is signed or verified, and answered (R82, R428). DESIGN CHOICE (log 112): a second ENROLL_FINISH that
verifies while a first verified enrollment waits for CLOSING to end takes its place. -/
def State.serveEnr (s : State) : State :=
  match s.enrQ with
  | [] => s
  | q :: rest =>
    let s := { s with enrQ := rest }
    let r := q.frame.rq
    let x := r.hdr.session
    let S := s.ses x
    if r.hdr.opcode = opEnroll then
      match S.exch with
      | some o =>
        if o.rq = r ∧ o.mac = q.frame.sa ∧ o.port = q.port ∧ o.link = q.link then
          s.emitEnr q.port q.link q.frame.sa q.frame.pcp o.ackFrame
        else s.answerEnroll q x
      | none => s.answerEnroll q x
    else if S.finishMatches q.port q.link r then
      match S.exch with
      | none => s
      | some o =>
        if o.verifies (s.cred x).key r.payload then
          s.modSes x fun S => { S with exch := none, fin := some { o with mac := q.frame.sa, pcp := q.frame.pcp, finish := some r } }
        else
          let a : Frame := { hdr := enrAckHdr r stDenied o.e (o.d + 1) 0 }
          let s := s.modSes x fun S => { S.exchGone with finAck := (r, a) :: S.finAck }
          s.emitEnr q.port q.link q.frame.sa q.frame.pcp a
    else s.finishAgain q x

/-- A verified enrollment is installed: the session becomes LIVE and its ACK is sent (R83). -/
def State.install (s : State) (x : SessId) (o : Exch) : State :=
  let a : Frame := { hdr := { enrAckHdr o.rq stOk o.e (o.d + 1) 0 with ack := o.rq.hdr.seq + 1, ref := o.rq.hdr.seq + 1 }
                     payload := o.confirm }
  let a : Frame := { a with hdr := { a.hdr with count := match o.finish with | some r => r.hdr.count | none => 0 } }
  let s := s.modSes x fun S =>
    { st := .live, port := o.port, link := o.link, v1 := o.v1, steward := (s.cred x).steward, lastEnd := S.lastEnd
      epoch := o.e, mac := o.mac, sci := enrSci o.rq, pcp := o.pcp, exch := S.exch
      finAck := (match o.finish with | some r => [(r, a)] | none => []) ++ S.finAck
      rx := [o.up 0], tx := some (o.down 0), ka := o.ka, e := o.rq.hdr.seq + 2, hi := o.rq.hdr.seq + 1
      dseq := o.d + 2, acked := o.d + 1, rtoAt := s.now, txAt := s.now, rxAt := s.now }
  let s := s.emitEnr o.port o.link o.mac o.pcp a
  let s := o.repeats.foldl (fun s e => s.emitEnr e.1 e.2.1 e.2.2.1 e.2.2.2 a) s
  s.raise 14 (fld 0 x.val ||| fld 8 o.port.val ||| fld 12 o.link.val ||| fld 16 o.e.toNat)

/-- A session has no cell on any tile and no message of it is on the mesh. -/
def MsgBody.sess : MsgBody → SessId
  | .claim x _ _ _ _ _ _ _ => x
  | .claimResult x _ _ _ => x
  | .arm x _ _ => x
  | .drop x _ => x
  | .rewind x => x
  | .completion x _ _ _ _ => x
def State.emptied (s : State) (x : SessId) : Bool :=
  ((List.finRange 8).all fun t => decide (s.queue t x = [])) && s.mesh.all fun m => decide (m.body.sess ≠ x)

/-- CLOSING ends when every tile has released the session's cells (R92). -/
def State.closeDone (s : State) (x : SessId) : State :=
  let S := s.ses x
  if S.st = .closing ∧ s.emptied x = true then
    match S.fin with
    | some o => s.install x o
    | none => s.modSes x fun S => { S with st := if S.exch = none then .idle else .enrolling }
  else s

/-- Enrollment on ports that go dark, or without the MESH domain, is given up: frames that wait, pending exchanges, and enrollments
not yet installed (R316). -/
def State.forgetEnr (s : State) (dark : PortId → Bool) : State :=
  let gone := fun (o : Option Exch) => match o with | some o => dark o.port | none => false
  (List.finRange 64).foldl (fun s x => s.modSes x fun S =>
    let S := { S with exch := if gone S.exch then none else S.exch, fin := if gone S.fin then none else S.fin }
    if S.st = .enrolling ∧ S.exch = none ∧ S.fin = none then { S with st := .idle } else S)
    { s with enrQ := s.enrQ.filter fun q => !dark q.port }

/-- A verified enrollment goes on (R83): the earlier binding ends; with nothing to close, the new one is installed. -/
def State.completeEnr (s : State) (x : SessId) : State :=
  match (s.ses x).fin with
  | none => s
  | some o => match (s.ses x).st with
    | .live => s.endSession x 5
    | .enrolling => s.install x o
    | _ => s

/-! ### Timers and gaps -/

/-- RTO of a session, in core cycles, for the resend that follows `n` fruitless ones (R64). -/
def State.rtoOf (s : State) (x : SessId) : Nat :=
  us (min 10000 (max 10 (s.port (s.ses x).port).rto.toNat)) * 2 ^ min (s.ses x).tries 4

/-- The retransmission timeout passes with no progress (R64). -/
def State.rtoExpires (s : State) (x : SessId) : State :=
  let S := s.ses x
  if S.st = .live then
    match S.retain with
    | [] => s
    | f :: _ =>
      let s := s.till (S.rtoAt + s.rtoOf x)
      if 16 ≤ S.tries then s.endSession x 2
      else (s.modSes x fun S => { S with tries := S.tries + 1, rtoAt := s.now }).resend x f
  else s

/-- A KEEPALIVE of the device. -/
def State.keepAlive (s : State) (x : SessId) : State := s.emitUnseq x { opcode := opKeepalive }

/-- A frame ahead of e opens a gap, or extends the one that is open (R58, R59). -/
def State.ahead (s : State) (x : SessId) (seq : Word) : State :=
  let S := s.ses x
  match S.gap with
  | none => s.gapNak x S.e (seq - 1)
  | some (t, aux) => s.modSes x fun S => { S with gap := some (t, if precedes aux (seq - 1) then seq - 1 else aux) }

/-- The highest host SEQ received (R104). -/
def Sess.seen (S : Sess) (seq : Word) : Sess := { S with hi := if precedes S.hi seq then seq else S.hi }

/-- A frame of an enrolled session passes MACsec: which association it used, and the time (R89, R90). -/
def State.heard (s : State) (x : SessId) (an : BitVec 2) (pn : Nat) (tag : Option CTag) : State :=
  s.modSes x fun S =>
    let rx := S.rx.map fun a => if a.an = an then { a with pn := BitVec.ofNat 64 (max a.pn.toNat (pn + 1)) } else a
    let new := decide (S.rx.length = 2) && (match S.rx with | a :: _ => decide (a.an = an) | [] => false)
    { S with
      rx := if new then rx.take 1 else rx, oldAt := if new then none else S.oldAt, rxAt := s.now
      pcp := match tag with | some c => c.pcp | none => S.pcp }

/-- A protected frame that passes R46; one that does not is dropped and counted. -/
def State.r46 (s : State) (x : SessId) (r : Rq) : Bool :=
  decide (r.hdr.version = (s.ses x).version) && decide (r.hdr.epoch = (s.ses x).epoch) && decide (r.hdr.session = x)

/-- Unsequenced frames from the host: NAK and KEEPALIVE (R54, R56, R58, R61). -/
def State.unseq (s : State) (x : SessId) (r : Rq) : State :=
  let s := s.readAck x r.hdr.ack
  let d := (r.hdr.seq - (s.ses x).e).toNat
  let s := if 1 ≤ d ∧ d < 4096 then s.ahead x r.hdr.seq else s
  if r.hdr.opcode = opNak ∧ r.hdr.status = stGap then
    let f := (s.ses x).retain.filter fun f => decide ((f.hdr.seq - r.hdr.ref).toNat ≤ (r.hdr.aux - r.hdr.ref).toNat)
    f.foldl (fun s f => s.resend x f) s
  else s

end Sys2Proof.Machine
end

