-- ==== Sys2Proof/Machine/Region.lean ====
section
/-! DEFINITION. Regions: state commands, locks and their journals, zeroizing, passes and lost ranges (R116 to R122, R264 to
R271, R283, R284, R290, R291). -/

namespace Sys2Proof.Machine

/-! ### Completions that waited for a commit -/

/-- A request of a session whose completion has not been formed, if the session is still the one that made it. -/
def State.reqOf (s : State) (x : SessId) (epoch : BitVec 16) (seq : Word) : Option Req :=
  let S := s.ses x
  if S.st = .live ∧ S.epoch = epoch ∧ (S.waitQ.any fun w => decide (w.rseq = some seq)) = false then S.reqs.find? fun q => decide (q.rq.hdr.seq = seq) else none

/-- The ACK of a request that waited. -/
def State.ackReq (s : State) (x : SessId) (epoch : BitVec 16) (seq : Word) (st : Byte := stOk) : State :=
  match s.reqOf x epoch seq with
  | some q => s.ack x q.rq st
  | none => s

/-- The ACK of a LOCK: the lease runs from the instant its device sequence number is assigned (R116, R120). -/
def State.ackLock (s : State) (x : SessId) (epoch : BitVec 16) (seq : Word) (r : RegionId) (lease : Nat) : State :=
  match s.reqOf x epoch seq with
  | some q => (s.wait x { hdr := { opcode := opAck, status := stOk, count := q.rq.hdr.count, ref := seq }
                          rseq := some seq, lease := some (r, lease) }).flush x
  | none => s

/-! ### Geometry on a tile -/

/-- An armed cell's part lies in region `r`. -/
def State.cellIn (s : State) (t : TileId) (c : Cell) (r : RegionId) : Bool :=
  decide (0 < c.n ∧ c.st ≠ .claimed) && (s.rgn r).covers (s.part.daOf t c.tla.toNat)

/-- An armed part of the region, or an armed write part of it, stands in some intake queue, or its ARM is on the mesh. -/
def State.partsIn (s : State) (r : RegionId) (writes : Bool) : Bool :=
  ((List.finRange 8).any fun t => (s.tile t).adm.cells.any fun e => s.cellIn t e.2 r && (!writes || isWrite e.2.op)) ||
  s.mesh.any fun m => match m.body with
    | .arm x seq _ => (s.ses x).reqs.any fun q => decide (q.rq.hdr.seq = seq) && (s.rgn r).covers q.rq.addr && (!writes || isWrite q.rq.hdr.opcode)
    | _ => false

/-- RGN_CTL.LOST: a lost range meets the region (R290). -/
def State.lostMeets (s : State) (r : RegionId) : Bool :=
  (List.finRange 8).any fun t => (s.tile t).sec.lost.any fun e => match e.2 with
    | some l => decide (l.inEffect ≠ []) && l.regions.getLsbD r.val
    | none => false

/-- RGN_CTL of an entry, with its LOST bit. -/
def Region.ctl (g : Region) (lost : Bool) : Word :=
  BitVec.ofNat 32 (bit 0 g.compact + g.st.code * 32 + bit 8 g.pendEn + bit 9 g.cur + bit 10 g.stalled + bit 11 lost)

/-- RGN_CTL of a region. -/
def State.rgnCtl (s : State) (r : RegionId) : Word := (s.rgn r).ctl (s.lostMeets r)

/-- A region's entry with every change that waits for its commit. -/
def State.rgnNext (s : State) (r : RegionId) : Region := match s.ldg.latest (baseRegion r.val) with
  | some b => (s.rgn r).recalled b
  | none => s.rgn r

/-! ### Zeroizing (R268) -/

/-- Lines of pages being formed or programmed that lie in a range of tracts are taken out of them; their frames go back. A journal page
holds records from before the UNMAP record, and takes effect before it. -/
def PageJob.scrub (inR : Nat → Bool) (j : PageJob) : PageJob × Nat := match j.content with
  | .log l => ({ j with content := .log (l.filter fun e => !inR (e.1 / 64)) }, (l.filter fun e => inR (e.1 / 64)).length)
  | .image tr ords _ => if inR tr then ({ j with content := .filler }, ords.length) else (j, 0)
  | .foldImage tr _ _ _ => (if inR tr then { j with content := .filler } else j, 0)
  | .copyImage tr _ => (if inR tr then { j with content := .filler } else j, 0)
  | .copyLog l => ({ j with content := .copyLog (l.map fun e => if inR (e.1 / 64) then (2 ^ 36, e.2) else e) }, 0)
  | _ => (j, 0)

/-- The same for records that wait: a line or tract of the range is no longer recorded. -/
def JRec.scrub (inR : Nat → Bool) : JRec → List JRec × Nat
  | .log p l => ([.log p (l.filter fun e => !inR (e.1 / 64))], (l.filter fun e => inR (e.1 / 64)).length)
  | .image tr a b c d e o f => if inR tr then ([], o.length) else ([.image tr a b c d e o f], 0)
  | .logMove l a b => (if inR (l / 64) then [] else [.logMove l a b], 0)
  | .imageMove tr a b => (if inR tr then [] else [.imageMove tr a b], 0)
  | .poison l a (.staging ord) => if inR (l / 64) then ([], 1) else ([.poison l a (.staging ord)], 0)
  | .poison l a (.medium cwa) => (if inR (l / 64) then [] else [.poison l a (.medium cwa)], 0)
  | r => ([r], 0)

/-- Pages of a program without the range. -/
def Prog.scrub (inR : Nat → Bool) (g : Prog) : Prog := { g with pages := g.pages.map fun j => (j.scrub inR).1 }

/-- Work in progress on the tracts of a range is dropped. -/
def State.scrub (s : State) (t : TileId) (lo n : Nat) : State :=
  let inR := fun (x : Nat) => decide (lo ≤ x ∧ x < lo + n)
  let T := s.tile t
  let pages := ((s.jobs t).map fun j => (j.scrub inR).2).sum
  let recs := (T.xlt.jbuf.map fun j => (j.scrub inR).2).sum
  let pulled := ((T.sec.rolling.filter fun e => inR e.1).map fun e => e.2.length).sum
  let rolled := ((T.sec.rollPages.filter fun e => inR e.1).map fun e => match e.2 with | some (_, l) => l.length | none => 0).sum
  let s := s.modMed t fun a => { a with dies := a.dies.map fun e => (e.1, { e.2 with
    prog := e.2.prog.map (Prog.scrub inR)
    changes := e.2.changes.map fun h => { h with failed := h.failed.map (Prog.scrub inR) }
    carry := e.2.carry.map fun k => { k with failed := k.failed.scrub inR } }) }
  let s := s.modSch t fun a => { a with runs := a.runs.map fun e =>
    (e.1, e.2.map fun r => { r with page := r.page.map (Prog.scrub inR) }) }
  let s := s.modXlt t fun a => { a with
    bgPages := a.bgPages.map fun j => (j.scrub inR).1
    mapPages := a.mapPages.map fun j => (j.scrub inR).1
    jbuf := a.jbuf.flatMap fun j => (j.scrub inR).1 }
  let s := s.dropFolds t inR
  let s := s.dropFetches t fun f => match f.owner with | .pull slot => inR slot | _ => false
  let s := s.modSec t fun a => { a with
    rolling := a.rolling.filter (fun e => !inR e.1), imaged := Tab.keep (fun k => !inR k) a.imaged
    rollPages := Tab.keep (fun k => !inR k) a.rollPages }
  s.modAdm t fun a => { a with stFree := a.stFree + pages + recs + pulled + rolled }

/-- Staged lines of a range are discarded; a frame being packed goes back with its page. -/
def State.dropStaged (s : State) (t : TileId) (lo n : Nat) : State :=
  s.modAdm t fun a =>
    let inR := fun (e : Nat × Staged) => decide (lo ≤ e.1 / 64 ∧ e.1 / 64 < lo + n)
    { a with
      stFree := a.stFree + (a.staged.filter fun e => inR e && !e.2.packing).length
      staged := a.staged.filter fun e => !inR e }

/-- What ZEROIZE and DISABLE do on one tile. -/
def State.zeroTile (s : State) (t : TileId) (r : RegionId) : State :=
  let (lo, n) := (s.rgn r).tracts s.part
  let s := s.dropStaged t lo n
  let s := s.scrub t lo n
  let s := s.modXlt t fun a => { a with
    unmaps := if n = 0 ∨ a.unmaps.contains (lo, n) = true then a.unmaps else a.unmaps ++ [(lo, n)]
    spans := Tab.keep (fun k => !decide (lo ≤ k * 16 ∧ k * 16 < lo + n)) a.spans }
  let inR := fun (x : Nat) => decide (lo ≤ x ∧ x < lo + n)
  let s := s.modSec t fun a => { a with ripe := a.ripe.filter (fun x => !inR x), stalled := a.stalled.filter fun x => !inR x }
  (s.tile t).sec.lost.foldl (fun s e => match e.2 with
    | some l =>
      if lo ≤ l.first.toNat ∧ l.first.toNat + l.width ≤ lo + n then
        s.commit (baseLost t.val e.1) (.lost l.first l.level l.cause false l.regions) [.lostFree t e.1]
      else s
    | none => s) s

/-- The tile's translation has been restored since its last start, so that it can take UNMAP records: what stands in its journal
buffer is programmed in turn (R359). -/
def State.journals (s : State) (t : TileId) : Bool :=
  let c := (s.tile t).ctl
  decide (c.st = .inService ∨ c.st = .replay ∨ c.st = .faultReset ∨ (c.st = .starting ∧ c.recovery ≠ 0) ∨ (c.st = .stopping ∧ c.draining = false))

/-- Every tile zeroizes the region, a tile that has yet to recover at the end of its recovery; a pass of it ends. -/
def State.zeroize (s : State) (r : RegionId) : State :=
  let s := s.modRgn r fun g => { g with pass := false, reached := [], stalled := false, lostCmd := 0, zeroed := [] }
  s.fitted.foldl (fun s t => if s.journals t then s.zeroTile t r else s) s

/-- The UNMAP records of the region have been programmed on every fitted tile (log 122). -/
def State.unmapped (s : State) (r : RegionId) : Bool :=
  let (lo, n) := (s.rgn r).tracts s.part
  s.fitted.all fun t => (s.rgn r).zeroed.contains t && !((s.tile t).xlt.unmaps.contains (lo, n)) && !((s.dueRecs t).contains (.unmap lo n))

/-! ### Lost ranges handled by a pass (R291) -/

/-- LOST_ZEROIZE and LOST_REKEY on one tile: the part of every lost range in the region is unmapped, and with it the lines that are not
resident, or all of them; its counters are handled once that has been recorded. Handling that a cold reset cuts short is to be commanded
again (log 141). -/
def State.lostTile (s : State) (t : TileId) (r : RegionId) (all : Bool) : State :=
  let (lo, n) := (s.rgn r).tracts s.part
  (s.tile t).sec.lost.foldl (fun s e => match e.2 with
    | none => s
    | some l =>
      let a := max lo l.first.toNat
      let b := min (lo + n) (l.first.toNat + l.width)
      if !l.live || decide (b ≤ a) then s
      else
        let s := if all then (s.dropStaged t a (b - a)).scrub t a (b - a)
          else s.dropFolds t fun x => decide (a ≤ x ∧ x < b)
        let s := s.modXlt t fun x => { x with
          unmaps := if x.unmaps.contains (a, b - a) then x.unmaps else x.unmaps ++ [(a, b - a)]
          spans := if all then Tab.keep (fun k => !decide (a ≤ k * 16 ∧ k * 16 + 16 ≤ b)) x.spans else x.spans }
        s.modSec t fun x => { x with lost := Tab.put none x.lost e.1 (some { l with doing := l.doing ||| (1#16 <<< r.val) }) }) s

/-- A pass of region `r` starts as its secret has been committed (R283). -/
def State.passStarts (s : State) (r : RegionId) (lost : Nat) : State :=
  let s := s.modRgn r fun g => { g with pass := true, reached := [], passSf := s.sf, lostCmd := lost }
  let s := (List.finRange 8).foldl (fun s t => s.modSec t fun a => { a with
    stallRaised := a.stallRaised.filter fun q => decide (q ≠ r.val) }) s
  let s := s.raise 18 (fld 0 r.val ||| fld 4 (bit 0 (s.rgn r).cur))
  if lost = 0 then s else s.fitted.foldl (fun s t => s.lostTile t r (decide (lost = 1))) s

/-- A pass ends when every tile has reached the end of its share: the old slot's secret is destroyed, and the next pass starts
if any group is stalled (R283, R284). -/
def State.passEnds (s : State) (r : RegionId) : State :=
  if (s.rgn r).pass ∧ s.passReached r = true then
    let g := s.rgn r
    let again := s.fitted.any fun t => decide (s.stalledIn t r ≠ [])
    let s := s.modRgn r fun g => { g with pass := false, reached := [], lostCmd := 0, stalled := again }
    let s := s.rgnCommit r [.secret (!g.cur) none, .stalled again]
    let s := s.raise 19 (fld 0 r.val)
    if again then s.beginPass r else s
  else s

/-! ### Journal heads (R116, R118) -/

/-- The head of a region's journal is committed. -/
def State.headCommit (s : State) (r : RegionId) (isOpen : Bool) (post : List Deferred) : State :=
  let g := s.rgn r
  s.commit (baseJhead r.val) (.jhead isOpen g.holder g.hepoch g.steps.length g.finished g.jid) post

/-- A step has been applied: the head that counts it is committed, and then its ACK is sent (R118). While a broken lease is
being resolved, and after the journal has been closed, the ACK does not wait for the head. -/
def State.stepDone (s : State) (r : RegionId) (k : Nat) (id : Word) : State :=
  let g := s.rgn r
  match g.acts.find? fun a => decide (a.k = k ∧ a.id = id) with
  | none => s
  | some a =>
    if a.done ∧ g.resolving = none then s
    else
      let s := s.modRgn r fun g => { g with acts := g.acts.map fun b => if b.k = k ∧ b.id = id then { b with done := true } else b }
      if g.held ∧ g.jid = id then
        let s := s.modRgn r fun g => { g with
          finished := if g.resolving.isSome then max g.finished (k + 1) else g.finished + 1 }
        s.headCommit r true (if g.resolving.isSome then [] else [.stepAck r k id])
      else
        let s := match a.req with | some (x, e, q) => s.ackReq x e q | none => s
        s.modRgn r fun g => { g with acts := g.acts.filter fun b => !decide (b.k = k ∧ b.id = id) }

/-- The head that counts a step has been committed: the step's ACK is sent. -/
def State.stepAcked (s : State) (r : RegionId) (k : Nat) (id : Word) : State :=
  match (s.rgn r).acts.find? fun a => decide (a.k = k ∧ a.id = id) with
  | none => s
  | some a =>
    let s := match a.req with | some (x, e, q) => s.ackReq x e q | none => s
    s.modRgn r fun g => { g with acts := g.acts.filter fun b => !decide (b.k = k ∧ b.id = id) }

/-- Steps that wait for a point of a shutdown and have reached it. -/
def State.doneActs (s : State) (r : RegionId) (cmds : List Nat) : List Deferred :=
  ((s.rgn r).acts.filter fun a => cmds.contains a.cmd && !a.done).map fun a => .stepDone r a.k a.id

/-! ### Shutdowns (R269) -/

/-- Some commit of the region's entry, or of a step, has not ended. -/
def State.rgnBusy (s : State) (r : RegionId) : Bool :=
  s.ldg.waits fun d => match d with
    | .rgnSet q _ => decide (q = r)
    | .stepApply q _ _ => decide (q = r)
    | _ => false

/-- READ_ONLY steps that have taken effect are applied when no write part of the region is left, whatever state it is in by
then (Table 10.2). -/
def State.roDone (s : State) (r : RegionId) : State :=
  if s.partsIn r true then s
  else ((s.rgn r).acts.filter fun a => decide (a.cmd = 3) && !a.done).foldl (fun s a => s.stepDone r a.k a.id) s

/-- A shutdown completes: STOPPING when no part of the region is left, ZEROIZING when its UNMAP records have been programmed
(R267, R268, R269). -/
def State.shutdown (s : State) (r : RegionId) : State :=
  if s.rgnBusy r then s
  else
    let s := s.roDone r
    let g := s.rgn r
    match g.st with
    | .stopping => if s.partsIn r false then s else s.rgnCommit r [.st .offline] (s.doneActs r [4])
    | .zeroizing =>
      if s.unmapped r = false then s
      else if g.disabling then
        s.rgnCommit r [.secret false none, .secret true none, .cur false, .st .disabled, .disabling false] (s.doneActs r [6])
      else
        let (k, s) := s.draw 256
        s.rgnCommit r [.secret false (some k), .secret true none, .cur false, .st .offline] (s.doneActs r [5])
    | _ => s

/-! ### Admin steps (R117, R118, R267) -/

/-- The values a step writes to RGN_BASE, RGN_SIZE and RGN_CTL, where it writes them. -/
structure Writes where
  base : Option Word := none
  size : Option Word := none
  ctl : Option Word := none
  deriving DecidableEq, Repr

/-- CMD of a step; 16 where it writes no RGN_CTL. -/
def Writes.cmd (w : Writes) : Nat := match w.ctl with
  | some v => v.toNat / 2 % 16
  | none => 16

/-- The changes a step makes to a DISABLED region's geometry and mode (R265, R267). -/
def Writes.upds (w : Writes) (g : Region) : List RgnUpd :=
  if g.st = .disabled then
    (match w.base with | some v => [.base (v.setWidth 15)] | none => []) ++
    (match w.size with | some v => [.size (v.setWidth 15)] | none => []) ++
    (match w.ctl with | some v => [.mode (v.getLsbD 0)] | none => [])
  else []

/-- Commands marked idempotent (Table 10.2). -/
def idempotent (cmd : Nat) : Bool := decide (5 ≤ cmd ∧ cmd ≤ 9)

/-- What a step makes of the entry, its secrets apart (Table 10.2): MODE and the geometry while DISABLED; a command that was accepted in
a state of a shutdown which has ended since takes effect as R269 gives, or does nothing more. -/
def Writes.effect (w : Writes) (g : Region) : List RgnUpd :=
  w.upds g ++ match w.cmd with
    | 1 => if g.st = .zeroizing then [.pendEn true] else if g.st = .disabled then [.st .online] else []
    | 2 => if g.st = .stopping then [.pendEn true] else if g.st = .disabled ∨ g.st = .zeroizing then [] else [.st .online]
    | 3 => if g.st = .online then [.st .readOnly] else []
    | 4 => if g.st = .stopping then [.pendEn false] else if g.st = .online ∨ g.st = .readOnly then [.st .stopping] else []
    | 5 => if g.st = .offline then [.disabling false, .st .zeroizing] else []
    | 6 => if g.st = .zeroizing then [.pendEn false] else if g.st = .offline then [.disabling true, .st .zeroizing] else []
    | _ => []

/-- What a recorded step writes. -/
def Step.writes (p : Step) : Writes :=
  { base := if p.written.getLsbD 0 then some (p.news.getD 0 0) else none
    size := if p.written.getLsbD 1 then some (p.news.getD 1 0) else none
    ctl := if p.written.getLsbD 2 then some (p.news.getD 2 0) else none }

/-- The entry a step meets: with the changes that wait for their commits and the steps that wait for theirs (log 121). -/
def State.planned (s : State) (r : RegionId) : Region :=
  ((s.rgn r).acts.filter fun a => !a.ran && !a.done).foldl (fun (g : Region) (a : Act) => match a.step with
    | some p => (p.writes.effect g).foldl Region.upd g
    | none => g) (s.rgnNext r)

/-- A pass of the region runs, waits for its secret, or has been journalled. -/
def State.passPlanned (s : State) (r : RegionId) : Bool :=
  s.passing r || (s.rgn r).acts.any fun a => !a.ran && !a.done && decide (7 ≤ a.cmd ∧ a.cmd ≤ 9)

/-- Whether a geometry is valid for region `r` (R25), every other region taken as planned. -/
def State.geometryFor (s : State) (r : RegionId) (g : Region) : Bool :=
  let s' := (List.finRange 16).foldl (fun (s' : State) q => s'.modRgn q fun _ => s.planned q) s
  State.geometryOk (s'.modRgn r fun _ => g) r

/-- The status of a step under R267 on the entry it meets; `none` where it passes. -/
def State.stepStatus (s : State) (r : RegionId) (w : Writes) : Option Byte :=
  let g := s.planned r
  let g' := (w.upds g).foldl Region.upd g
  let ok := match w.cmd with
    | 16 => true
    | 0 => true
    | 1 => (decide (g.st = .disabled) && s.geometryFor r g') || (decide (g.st = .zeroizing) && g.disabling)
    | 2 => decide (g.st = .readOnly ∨ g.st = .offline ∨ g.st = .stopping)
    | 3 => decide (g.st = .online)
    | 4 => decide (g.st = .online ∨ g.st = .readOnly) || (decide (g.st = .stopping) && g.pendEn)
    | 5 => decide (g.st = .offline)
    | 6 => decide (g.st = .offline) || (decide (g.st = .zeroizing) && g.disabling && g.pendEn)
    | 7 => decide (g.st = .online ∨ g.st = .readOnly ∨ g.st = .offline)
    | 8 => g.enabled && s.lostMeets r
    | 9 => g.enabled && s.lostMeets r
    | _ => false
  if ((w.base.isSome || w.size.isSome) && decide (g.st ≠ .disabled)) || !ok then some stRange
  else if 7 ≤ w.cmd ∧ w.cmd ≤ 9 then
    if s.passPlanned r then some stBusy
    else if s.fitted.any fun t => decide ((s.tile t).med.roCause ≠ 0) then some stReadOnly
    else none
  else none

/-- Changes of a region's entry have been committed and take effect, with the event of a change of state (R266, Table 11.3);
a command held pending takes effect when the shutdown has completed (R269). -/
def State.rgnSet (s : State) (r : RegionId) (us : List RgnUpd) : State :=
  let old := (s.rgn r).st
  let s := s.modRgn r fun g => us.foldl Region.upd g
  let new := (s.rgn r).st
  let s := if new = old then s else s.raise 17 (fld 0 r.val ||| fld 4 old.code ||| fld 8 new.code)
  let s := if new = .zeroizing ∧ old ≠ .zeroizing then s.zeroize r else s
  let s := if new ≠ old ∧ (s.rgn r).pendEn = true then
      if new = .offline then s.rgnCommit r [.pendEn false, .st .online]
      else if new = .disabled then
        if s.geometryFor r (s.rgn r) then
          let (k, s) := s.draw 256
          s.rgnCommit r [.pendEn false, .secret false (some k), .secret true none, .cur false, .st .online]
        else s.rgnCommit r [.pendEn false]
      else s
    else s
  s

/-- The step's record (R118). -/
def State.stepRecord (s : State) (r : RegionId) (w : Writes) (addr : Word) (count : Nat) : Step :=
  let g := s.planned r
  { addr, count, idem := idempotent w.cmd
    written := BitVec.ofNat 3 (bit 0 w.base.isSome + bit 1 w.size.isSome + bit 2 w.ctl.isSome)
    olds := [g.base.setWidth 32, g.size.setWidth 32, g.ctl (s.lostMeets r)]
    news := [w.base.getD 0, w.size.getD 0, w.ctl.getD 0] }

/-- An admin step by the holder of the lock, refused with a status or journalled (R117, R118). -/
def State.adminStep (s : State) (r : RegionId) (x : SessId) (w : Writes) (addr : Word) (count : Nat)
    (req : Option (SessId × BitVec 16 × Word)) : State × Option Byte :=
  let g := s.rgn r
  if g.held = false ∨ g.holder ≠ x ∨ g.resolving.isSome then (s, some stLocked)
  else match s.stepStatus r w with
    | some st => (s, some st)
    | none =>
      if 16 ≤ g.steps.length then (s, some stBusy)
      else
        let k := g.steps.length
        let p := s.stepRecord r w addr count
        let s := s.modRgn r fun g => { g with steps := g.steps ++ [p], acts := g.acts ++ [{ id := g.jid, k, cmd := w.cmd, step := some p, req }] }
        (s.commit (baseJstep r.val k) (.jstep p g.jid) [.stepApply r k g.jid], none)

/-- The effect of a command on the region's entry, with what the step's ACK waits for (Table 10.2). An ENABLE that was accepted during
a shutdown which has ended since finds its geometry checked again, and is dropped where it is no longer valid (R269). -/
def State.runStep (s : State) (r : RegionId) (w : Writes) (done : List Deferred) : State :=
  let g := s.rgnNext r
  let u := w.effect g
  match w.cmd with
  | 1 =>
    if g.st ≠ .disabled then s.rgnCommit r u done
    else if s.geometryFor r ((w.upds g).foldl Region.upd g) then
      let (k, s) := s.draw 256
      s.rgnCommit r (u ++ [.secret false (some k), .secret true none, .cur false]) done
    else s.rgnCommit r (w.upds g) done
  | 3 => s.rgnCommit r u
  | 4 => s.rgnCommit r u (if g.st = .offline then done else [])
  | 5 => s.rgnCommit r u
  | 6 => s.rgnCommit r u (if g.st = .zeroizing ∨ g.st = .offline then [] else done)
  | 7 => s.beginPass r 0 done
  | 8 => s.beginPass r 1 done
  | 9 => s.beginPass r 2 done
  | _ => s.rgnCommit r u done

/-- The record of a step has been committed: the step takes effect (R118), also where UNLOCK has closed its journal meanwhile (R119); a
step of a lease that is broken is left to its resolution (R121). -/
def State.stepApply (s : State) (r : RegionId) (k : Nat) (id : Word) : State :=
  let g := s.rgn r
  if g.jid = id ∧ g.resolving.isSome then s
  else match (g.acts.find? fun a => decide (a.k = k ∧ a.id = id)).bind fun a => a.step with
    | some p =>
      let s := s.modRgn r fun g => { g with acts := g.acts.map fun a => if a.k = k ∧ a.id = id then { a with ran := true } else a }
      s.runStep r p.writes [.stepDone r k id]
    | none => s

/-! ### Locks (R116, R119, Table 4.6) -/

/-- A LOCK of region `r`: a status at once, or the journal opened. -/
def State.lockReq (s : State) (x : SessId) (epoch : BitVec 16) (seq : Word) (r : RegionId) (lease : Nat) : State :=
  let g := s.rgn r
  if (g.held ∧ g.holder ≠ x) ∨ g.resolving.isSome then s.ackReq x epoch seq stLocked
  else if g.held then s.ackLock x epoch seq r lease
  else if (List.finRange 16).any fun q => decide (r.val < q.val) && (s.rgn q).held && decide ((s.rgn q).holder = x ∧ (s.rgn q).resolving = none) then
    s.ackReq x epoch seq stOrder
  else
    let id := (Tab.get {} s.ldg.insts (baseJhead r.val)).seq + 1
    let s := s.modRgn r fun g => { g with
      held := true, holder := x, hepoch := epoch, expiry := none, steps := [], finished := 0, jid := id }
    s.headCommit r true [.lockAck x epoch seq r lease]

/-- An UNLOCK of region `r`. -/
def State.unlockReq (s : State) (x : SessId) (epoch : BitVec 16) (seq : Word) (r : RegionId) : State :=
  let g := s.rgn r
  if g.resolving.isSome then s.ackReq x epoch seq stLocked
  else if g.held then
    if g.holder = x then
      let s := s.modRgn r fun g => { g with held := false, expiry := none, steps := [], finished := 0 }
      s.headCommit r false [.ackReq x epoch seq]
    else s.ackReq x epoch seq stLocked
  else s.ackReq x epoch seq stOk

/-! ### A broken lease (R120 to R122) -/

/-- Undoing a step from its old values, on a copy of the entry (R121, R267). Undoing ENABLE returns the region to DISABLED, also where the
step was pending and has taken effect since; undoing ONLINE takes the region back to what it was on its way to, by a shutdown. -/
def Region.undo (g : Region) (p : Step) : List RgnUpd :=
  let w := p.writes
  let old := p.olds.getD 2 0
  let oldSt := RgnSt.ofCode (old.toNat / 32 % 8)
  let geo := (if w.base.isSome then [.base ((p.olds.getD 0 0).setWidth 15)] else []) ++
    (if w.size.isSome then [.size ((p.olds.getD 1 0).setWidth 15)] else []) ++
    (if w.ctl.isSome ∧ oldSt = .disabled then [.mode (old.getLsbD 0)] else [])
  let cmd : List RgnUpd := match w.cmd with
    | 1 => if oldSt = .disabled ∨ g.st ≠ .zeroizing then
        (if g.enabled then [.secret false none, .secret true none, .cur false, .st .disabled] else [])
      else [.pendEn false]
    | 2 => if oldSt = .stopping then
        (if g.st = .stopping then [.pendEn false] else if g.st = .online then [.st .stopping] else [])
      else if g.st = .online then [.st oldSt] else []
    | 3 => if g.st = .readOnly then [.st oldSt] else []
    | 4 => if oldSt = .stopping then (if g.st = .stopping then [.pendEn true] else if g.st = .offline then [.st .online] else [])
      else if g.st = .stopping then [.pendEn true] else if g.st = .offline then [.st .online] else []
    | _ => []
  cmd ++ geo

/-- Undoing steps in turn: the changes, and the entry they lead to. -/
def Region.undoAll : Region → List Step → List RgnUpd
  | _, [] => []
  | g, p :: l =>
    let u := g.undo p
    u ++ Region.undoAll (u.foldl Region.upd g) l

/-- A broken lease's journal is resolved: unfinished idempotent steps are finished first; then every other unfinished step, and
every finished step that is not idempotent, is undone, the newest first; then the journal is closed (R121). -/
def State.resolveLease (s : State) (r : RegionId) : State :=
  let g := s.rgn r
  if g.resolving.isNone ∨ s.rgnBusy r = true ∨ s.ldg.waits (fun d => decide (d = .resolved r)) = true then s
  else
    let s := s.modRgn r fun g => { g with acts := g.acts.map fun a => if a.id = g.jid then { a with ran := true } else a }
    let ix := List.range g.steps.length
    let todo := ix.filter fun k => decide (g.finished ≤ k) && (match g.steps[k]? with | some p => p.idem | none => false)
    match todo with
    | k :: _ =>
      match g.steps[k]? with
      | none => s
      | some p =>
        let s := if g.acts.any fun a => decide (a.k = k ∧ a.id = g.jid) then s
          else s.modRgn r fun g => { g with acts := g.acts ++ [{ id := g.jid, k, cmd := p.writes.cmd, step := some p, ran := true }] }
        if (s.stepStatus r p.writes).isNone then s.runStep r p.writes [.stepDone r k g.jid]
        else if g.st = .zeroizing ∨ s.passing r = true then s
        else s.stepDone r k g.jid
    | [] =>
      let undo := (ix.reverse.filterMap fun k => g.steps[k]?).filter fun p => !p.idem
      let us := g.undoAll undo
      let s := if us = [] then s else s.rgnCommit r us
      s.headCommit r false [.resolved r]

/-- The closed head of a resolved journal has been committed: the lock is free, requests that waited complete, and the event is
raised (R121). -/
def State.resolved (s : State) (r : RegionId) : State :=
  let g := s.rgn r
  let cause := match g.resolving with | some c => c.toNat | none => 0
  let mine := g.acts.filter fun a => decide (a.id = g.jid)
  let s := s.modRgn r fun g => { g with
    held := false, resolving := none, expiry := none, steps := [], finished := 0
    acts := g.acts.filter fun a => decide (a.id ≠ g.jid) }
  let s := mine.foldl (fun s a => match a.req with
    | some (x, e, q) => s.ackReq x e q (if idempotent a.cmd then stOk else stLocked)
    | none => s) s
  s.raise 16 (fld 0 r.val ||| fld 4 g.holder.val ||| fld 12 cause)

/-- A lease expires (R120). -/
def State.leaseExpires (s : State) (r : RegionId) : State :=
  match (s.rgn r).expiry with
  | some n => (s.till n).breakLease r 0
  | none => s

/-- A command row: an admin step of the lock's holder; with no holder there is no step. -/
def State.holderStep (s : State) (r : RegionId) (w : Writes) (addr : Word) : State :=
  let g := s.rgn r
  if g.held ∧ s.rgnBusy r = false then (s.adminStep r g.holder w addr 0 none).1 else s

/-- Address of a region's register (RGN block). -/
def rgnAddr (r : RegionId) (o : Nat) : Word := BitVec.ofNat 32 (0x00110100 + 0x20 * r.val + o)

end Sys2Proof.Machine
end

