-- ==== Sys2Proof/Machine/Ledger.lean ====
section
/-! DEFINITION. The ledger's records as bytes, its window, and what recall makes of its copies (R372 to R379, R381). -/

namespace Sys2Proof.Machine

/-! ### Checks -/

/-- CRC-8 with polynomial 0x07 and initial value 0 (R377). -/
def crc8 (l : List Byte) : Byte :=
  l.foldl (fun c b => (List.range 8).foldl
    (fun c _ => if c.getLsbD 7 then (c <<< 1) ^^^ 0x07#8 else c <<< 1) (c ^^^ b)) 0

/-! ### Layout (Table 14.4) -/

/-- The base of the instance that holds a ledger offset; `none` in the reserved ranges and the user area. -/
def recBase (o : Nat) : Option Nat :=
  if o < 0x40 then some (o / 0x20 * 0x20)
  else if 0x100 ≤ o ∧ o < 0x200 then some 0x100
  else if 0x200 ≤ o ∧ o < 0x480 then some 0x200
  else if 0x800 ≤ o ∧ o < 0xC80 then some (o / 0x80 * 0x80)
  else if 0x1000 ≤ o ∧ o < 0x1800 then some (o / 0x100 * 0x100)
  else if 0x2000 ≤ o ∧ o < 0x6000 then some (o / 0x100 * 0x100)
  else if 0x6000 ≤ o ∧ o < 0x8000 then some (o / 0x200 * 0x200)
  else if 0x8000 ≤ o ∧ o < 0x18000 then (if o % 0x1000 < 0x880 then some (o / 0x80 * 0x80) else none)
  else if 0x18000 ≤ o ∧ o < 0x28000 then some (o / 0x80 * 0x80)
  else if 0x28000 ≤ o ∧ o < 0x2C800 then some (o / 0x200 * 0x200)
  else none

/-- TYPE, INDEX and LEN of the records of an instance (Tables 14.4 and 14.6). -/
def recHead (base : Nat) : Nat × Nat × Nat :=
  if base < 0x200 then (1, 0, 6)
  else if base < 0x800 then (2, 0, 20)
  else if base < 0xC00 then (3, (base - 0x800) / 0x80, 4)
  else if base < 0x1000 then (4, 0, 4)
  else if base < 0x2000 then (5, (base - 0x1000) / 0x100, 8)
  else if base < 0x6000 then (6, (base - 0x2000) / 0x100, 7)
  else if base < 0x8000 then (7, (base - 0x6000) / 0x200, 13)
  else if base < 0x18000 then
    (if base % 0x1000 = 0 then (8, (base - 0x8000) / 0x1000, 4)
     else (9, (base - 0x8000) / 0x1000 * 16 + (base % 0x1000 - 0x80) / 0x80, 7))
  else if base < 0x28000 then (10, (base - 0x18000) / 0x80, 3)
  else (11, (base - 0x28000) / 0x200, 14)

/-- A key slot in a record: wrapped, or 40 bytes of 0 (R271, Table 14.6). -/
def slotBytes (kek : BitVec 256) : Option (BitVec 256) → List Byte
  | some k => beBytes 40 (keyWrap kek k).toNat
  | none => List.replicate 40 0

/-- The body of a record, little-endian (Table 14.6). `kek`: the device wrapping key. -/
def Body.bytes (kek : BitVec 256) : Body → List Byte
  | .ikey h => leBytes 32 h.toNat
  | .identity priv wrapping tree =>
    leBytes 32 (ed25519Public priv).toNat ++ beBytes 40 (keyWrap wrapping priv).toNat ++
      leBytes 32 wrapping.toNat ++ beBytes 40 (keyWrap wrapping tree).toNat
  | .drain kind run sf => leBytes 4 kind.toNat ++ leBytes 8 run.toNat ++ leBytes 5 sf.toNat
  | .final cause st seen run sf lastUs =>
    [cause, st, seen, 0] ++ leBytes 8 run.toNat ++ leBytes 5 sf.toNat ++ leBytes 2 lastUs.toNat
  | .root jseq cs => leBytes 8 jseq.toNat ++ cs.flatMap fun c => leBytes 7 c.toNat
  | .cred en v1 rd wr key =>
    [BitVec.ofNat 8 (bit 0 en + bit 1 v1), 0] ++ leBytes 2 rd.toNat ++ leBytes 2 wr.toNat ++ [0, 0] ++ leBytes 32 key.toNat
  | .region base size compact st cur stalled pendEn s0 s1 =>
    leBytes 2 base.toNat ++ leBytes 2 size.toNat ++
      leBytes 2 (bit 0 compact + 2 * st.toNat + bit 4 cur + bit 5 stalled + bit 6 pendEn) ++ [0, 0] ++
      slotBytes kek s0 ++ slotBytes kek s1
  | .jhead op holder epoch steps fin _ =>
    [BitVec.ofNat 8 (bit 0 op), BitVec.ofNat 8 holder.val] ++ leBytes 2 epoch.toNat ++ leBytes 1 steps ++ leBytes 1 fin
  | .jstep p _ =>
    leBytes 4 p.addr.toNat ++ leBytes 1 p.count ++ [BitVec.ofNat 8 (bit 0 p.idem), p.written.setWidth 8, 0] ++
      (p.olds ++ p.news).flatMap fun v => leBytes 4 v.toNat
  | .lost first level cause valid rs =>
    leBytes 4 first.toNat ++ [BitVec.ofNat 8 (level.toNat + 16 * cause.toNat), BitVec.ofNat 8 (bit 0 valid)] ++ leBytes 2 rs.toNat
  | .trouble es => es.flatMap fun e =>
    leBytes 2 e.count ++ [BitVec.ofNat 8 (bit 0 e.set), 0] ++ leBytes 5 e.firstSf.toNat ++ leBytes 2 e.boot.toNat ++ [0]
  | .counter v => leBytes 8 v.toNat
  | .user vs => vs.flatMap fun v => leBytes 4 v.toNat

/-- Bytes cut or filled with 0 to `n`. -/
def fitTo (n : Nat) (l : List Byte) : List Byte := (l ++ List.replicate (n - l.length) 0).take n

/-- A whole copy of a record at an instance (R374, R377). -/
def copyBytes (kek : BitVec 256) (base : Nat) (seq : Word) (b : Body) : List Byte :=
  match b with
  | .counter v => fitTo 16 (leBytes 8 v.toNat ++ [crc8 (leBytes 8 v.toNat)])
  | .user _ => b.bytes kek
  | _ =>
    let (ty, ix, len) := recHead base
    let l := fitTo (8 * len - 4) ([BitVec.ofNat 8 ty, BitVec.ofNat 8 len] ++ leBytes 2 ix ++ leBytes 4 seq.toNat ++ b.bytes kek)
    fitTo (recSize base) (l ++ leBytes 4 (crc32 l).toNat)

/-- Whether the window shows a byte of a copy as 0 (R381): IDENTITY, and the wrapped slots of REGION. -/
def hidden (base i : Nat) : Bool :=
  decide (0x200 ≤ base ∧ base < 0x800) || (decide (0x6000 ≤ base ∧ base < 0x8000) && decide (16 ≤ i ∧ i < 96))

/-- The device wrapping key. -/
def Ledger.kek (l : Ledger) : BitVec 256 := match l.ident with | some (_, w, _) => w | none => 0

/-- The word at byte `i` of a torn copy: what the cells hold is a free value, and reads the same until the copy is written again. -/
def tornWord (n i : Nat) : Word := (Config.freeValue 1280 n >>> (8 * i)).setWidth 32

/-- The 32-bit word at window offset `o` (R381). -/
def Ledger.word (l : Ledger) (o : Nat) : Word := match recBase o with
  | none => match Tab.get .empty l.cells o with | .ok _ (.user [v]) => v | .torn n => tornWord n 0 | _ => 0
  | some base =>
    let off := base + (o - base) / recSize base * recSize base
    match Tab.get .empty l.cells off with
    | .ok seq b => if hidden base (o - off) then 0 else BitVec.ofNat 32 (ofLe (slice (copyBytes l.kek base seq b) (o - off) 4))
    | .torn n => if hidden base (o - off) then 0 else tornWord n (o - off)
    | .empty => 0

/-! ### Recall (R376, R377, R379) -/

/-- A copy that fails its check (R374). -/
def Copy.isTorn : Copy → Bool
  | .torn _ => true
  | _ => false

/-- r(g) of a generation, and whether its copies tie. -/
def resolveGen : Copy → Copy → Option (Word × Body) × Bool
  | .ok sa a, .ok sb b =>
    if sa = sb then (some (sa, a), decide (a ≠ b))
    else if precedes sb sa then (some (sa, a), false) else (some (sb, b), false)
  | .ok sa a, _ => (some (sa, a), false)
  | _, .ok sb b => (some (sb, b), false)
  | _, _ => (none, false)

/-- The rewrite of a copy that failed or that differs from what its generation resolved to; an empty copy of a generation that
resolved to none stays. -/
def rewrite (base off : Nat) (r : Option (Word × Body)) (c : Copy) : List CopyWrite :=
  let want := match r with | some (q, b) => Copy.ok q b | none => .empty
  if c = want then [] else [{ base, off, size := recSize base, copy := want, first := false, only := true }]

/-- What recall finds of one instance: the instance, copies to rewrite, the winning offsets of ties, the torn offsets. -/
def Ledger.resolve (l : Ledger) (base : Nat) : Inst × List CopyWrite × List Nat × List Nat :=
  let sz := recSize base
  let at_ := fun (i : Nat) => Tab.get .empty l.cells (base + i * sz)
  let n := if recPair base then 2 else 4
  let torn := ((List.range n).filter fun i => (at_ i).isTorn).map fun i => base + i * sz
  let (r0, t0) := resolveGen (at_ 0) (at_ 1)
  let w0 := rewrite base base r0 (at_ 0) ++ rewrite base (base + sz) r0 (at_ 1)
  if recPair base then
    ({ seq := match r0 with | some (q, _) => q | none => 0, val := r0.map fun e => e.2 }, w0, if t0 then [base] else [], torn)
  else
    let (r1, t1) := resolveGen (at_ 2) (at_ 3)
    let w1 := rewrite base (base + 2 * sz) r1 (at_ 2) ++ rewrite base (base + 3 * sz) r1 (at_ 3)
    let i : Inst := match r0, r1 with
      | some (q0, b0), some (q1, b1) => if precedes q0 q1 then { seq := q1, gen := true, val := some b1 }
        else { seq := q0, gen := false, val := some b0 }
      | some (q0, b0), none => { seq := q0, gen := false, val := some b0 }
      | none, some (q1, b1) => { seq := q1, gen := true, val := some b1 }
      | none, none => {}
    (i, w0 ++ w1, (if t0 then [base] else []) ++ (if t1 then [base + 2 * sz] else []), torn)

/-- A counter at recall: its value, and whether copy B is to be rewritten; `none` where it is lost. An empty copy holds 0, and
passes. -/
def Ledger.counterAt (l : Ledger) (base : Nat) : Option (BitVec 64) :=
  let val := fun (c : Copy) => match c with | .ok _ (.counter v) => some v | .empty => some 0 | _ => none
  match val (Tab.get .empty l.cells base) with
  | some v => some v
  | none => val (Tab.get .empty l.cells (base + 16))

/-- Copies of a counter to be rewritten, where one fails or differs from what the counter resolved to (R377). -/
def Ledger.counterFix (l : Ledger) (base : Nat) (v : BitVec 64) : List CopyWrite :=
  [base, base + 16].filterMap fun off =>
    let same := match Tab.get .empty l.cells off with | .ok _ (.counter x) => decide (x = v) | .empty => decide (v = 0) | _ => false
    if same then none else some { base, off, size := recSize base, copy := .ok 0 (.counter v), first := false, only := true }

/-- The instances of the cells, apart from the counters and the user area. -/
def Ledger.bases (l : Ledger) : List Nat :=
  (l.cells.filterMap fun e => if 0x100 ≤ e.1 then recBase e.1 else none).dedup

/-- The greatest RUN in any DRAIN record (R379). -/
def Ledger.greatestRun (l : Ledger) : Option (BitVec 64) :=
  l.cells.foldl (fun m e => match e.2 with
    | .ok _ (.drain _ run _) => some (match m with | some x => if x.toNat < run.toNat then run else x | none => run)
    | _ => m) none

/-- The value an instance resolved to. -/
def Ledger.value (l : Ledger) (base : Nat) : Option Body := (Tab.get {} l.insts base).val

/-- The current DRAIN record of a tile (R379): its kind. -/
def Ledger.drainOf (l : Ledger) (t : TileId) : Option (BitVec 2) := match l.value (baseDrain t.val) with
  | some (.drain kind run _) =>
    if l.lostNow = false ∧ l.served.toNat ≤ run.toNat ∧ l.unread.contains t = false then some kind else none
  | _ => none

/-- KIND of a tile's DRAIN record, current or not. -/
def Ledger.drainKind (l : Ledger) (t : TileId) : Option (BitVec 2) := match l.value (baseDrain t.val) with
  | some (.drain kind _ _) => some kind
  | _ => none

/-- SUP_DRAIN.DONE (R379). -/
def Ledger.done (l : Ledger) : Byte := BitVec.ofNat 8 (((List.finRange 8).map fun t =>
  bit t.val (decide (l.drainOf t = some 1) || decide (l.drainOf t = some 2))).sum)

/-- Whether the records that stand are of a clean stop (R329). -/
def State.stopClean (s : State) : Bool :=
  let ks := (s.fitted.filterMap fun t => s.ldg.drainOf t).filter fun k => decide (k = 1 ∨ k = 2)
  decide (ks ≠ []) && ks.all fun k => decide (k = 2)

/-- Any record of a tile's stop, current or not. -/
def Ledger.anyDrain (l : Ledger) : Bool := (List.finRange 8).any fun t => (l.value (baseDrain t.val)).isSome

/-- The lower counter's and the upper counter's values after a loss (R379). -/
def Ledger.lostValue (l : Ledger) : BitVec 64 :=
  let m := fun (a b : Option (BitVec 64)) => match a, b with
    | some x, some y => some (if x.toNat < y.toNat then y else x)
    | some x, none => some x
    | none, y => y
  (m (m l.greatestRun (l.counterAt baseStart)) (l.counterAt baseServed)).getD 0

/-- Recall of the ledger at a cold reset: every record and counter is resolved, and what failed or differs is to be rewritten
(R372, R376, R377, R379). -/
def State.recall (s : State) : State :=
  if s.ldg.recalling = false then s
  else
    let l := s.ldg
    let found := l.bases.map fun b => (b, l.resolve b)
    let lost := (l.counterAt baseStart).isNone || (l.counterAt baseServed).isNone
    let insts := found.foldl (fun (m : Tab Inst) e => Tab.put {} m e.1 e.2.1) []
    let ties := found.flatMap fun e => e.2.2.2.1
    let torn := found.flatMap fun e => e.2.2.2.2
    let start := if lost then l.lostValue else (l.counterAt baseStart).getD 0
    let served := if lost then l.lostValue else (l.counterAt baseServed).getD 0
    let fix := (if lost then [] else l.counterFix baseStart start ++ l.counterFix baseServed served) ++ found.flatMap fun e => e.2.2.1
    -- a rewrite is a commit of its instance, and a later one waits for it (R375, R376)
    let insts := fix.foldl (fun (m : Tab Inst) w => Tab.upd {} m w.base fun i => { i with busy := true }) insts
    let l1 : Ledger := { l with
      insts, recalling := false, ctrLost := lost, lostNow := lost, tie := l.tie || decide (ties ≠ []), torn := l.torn || decide (torn ≠ []) || lost
      start, served }
    let l1 := fix.foldl Ledger.push l1
    let l2 : Ledger := { l1 with
      ikey := match l1.value baseIkey with | some (.ikey h) => h | _ => 0
      keySet := match l1.value baseIkey with | some (.ikey _) => true | _ => false
      ident := match l1.value baseIdentity with | some (.identity p w t) => some (p, w, t) | _ => none }
    let s : State := { s with ldg := l2.kick }
    let s := ties.foldl (fun s o => s.raise 10 (fld 0 o)) s
    let s := torn.foldl (fun s o => s.raise 9 (fld 0 o)) s
    let s := [baseStart, baseServed].foldl (fun s b => if (l.counterAt b).isNone then s.raise 9 (fld 0 b) else s) s
    let s := [(baseStart, l2.start), (baseServed, l2.served)].foldl (fun s e => if lost then s.commit e.1 (.counter e.2) [] else s) s
    -- the device's identity, at the first cold reset
    let s := if s.ldg.ident.isNone ∧ s.ldg.start = 0 then
        let (p, s) := s.draw 256
        let (w, s) := s.draw 256
        let (t, s) := s.draw 256
        (s.modLdg fun l => { l with ident := some (p, w, t) }).commit baseIdentity (.identity p w t) []
      else s
    { s with
      sup := { s.sup with
        clean := s.stopClean
        lastUs := match s.ldg.value baseFinal with | some (.final _ _ _ _ _ u) => u.toNat | _ => 0 }
      boot := { s.boot with recalled := true, firstStart := !lost && decide (s.ldg.start = 0) && !s.ldg.anyDrain } }

/-! ### The end of a commit -/

/-- Copies and commits that wait go on while the queue has room and the ledger is open (R375, R380). -/
def Ledger.pump (l : Ledger) : Ledger :=
  let l := l.late.foldl Ledger.push { l with late := [] }
  (l.insts.foldl (fun (l : Ledger) e => match (Tab.get {} l.insts e.1).next with
    | some (b, post) => if l.holdsBack e.1 b then l else l.startRec e.1 b post
    | none => l) l).kick

/-- What the cells hold after a copy has been written: a write of the user area fills a word each. -/
def CopyWrite.store (w : CopyWrite) (cells : Tab Copy) : Tab Copy := match w.copy with
  | .ok q (.user vs) => vs.zipIdx.foldl (fun (m : Tab Copy) e => Tab.put .empty m (w.off + 4 * e.2) (.ok q (.user [e.1]))) cells
  | c => Tab.put .empty cells w.off c

/-- The cells take a copy. With copy A the record is committed; copy B waits its turn, and the instance is free again after it, or after
the last of its rewrites (R375, R376). -/
def Ledger.landed (l : Ledger) (w : CopyWrite) : Ledger :=
  let l := { l with cells := w.store l.cells }
  let idle := fun (l : Ledger) => { l with insts := Tab.upd {} l.insts w.base fun i => { i with busy := false } }
  if w.only then (if (l.queue ++ l.late).any fun v => decide (v.base = w.base) && v.only then l else idle l)
  else if w.first then
    let l := { l with insts := Tab.upd {} l.insts w.base fun i =>
      { i with val := match w.copy with | .ok _ b => some b | _ => i.val, flying := none } }
    if recUser w.base then idle l else l.push { w with off := w.off + w.size, first := false, post := [] }
  else idle l

/-- A copy whose commit is cut short is torn: a copy of a record as a whole, in the user area each word. -/
def State.tear (s : State) (w : CopyWrite) : State :=
  let offs := match w.copy with | .ok _ (.user vs) => (List.range vs.length).map fun j => w.off + 4 * j | _ => [w.off]
  offs.foldl (fun (s : State) o =>
    ({ s with free := s.free + 1 } : State).modLdg fun l => { l with cells := Tab.put .empty l.cells o (.torn s.free) }) s

/-- A commit cut short (R375): each copy it was writing may be torn, or written, or as before; nothing that waited is
written. -/
def State.cutCommit (s : State) : State :=
  let s := s.ldg.flight.foldl (fun (s : State) w =>
    let (a, s) := s.drawBool
    let (b, s) := s.drawBool
    if a then s.tear w
    else if b then s.modLdg fun l => { l with cells := w.store l.cells }
    else s) s
  s.modLdg fun l => { l with flight := [], queue := [], late := [] }

end Sys2Proof.Machine
end

