-- ==== Sys2Proof/Machine/Port.lean ====
section
/-! DEFINITION. Ports and their links: start, stop, reset, training and loss (R36, R74, R150, R356, R427), and the milestones of
start-up (CLK_TL). -/

namespace Sys2Proof.Machine

/-- A milestone of start-up is reached: microseconds from the last reset's release, of the last tile where each tile reaches it (CLK_TL). -/
def State.mile (s : State) (m : Nat) : State :=
  if (3 ≤ m ∧ m ≤ 5) ∨ Tab.get 0xFFFFFFFF s.clk.tl m = 0xFFFFFFFF then
    s.modClk fun c => { c with tl := Tab.put 0xFFFFFFFF c.tl m (BitVec.ofNat 32 (min ((s.now - c.t0) / 2000) 0xFFFFFFFE)) }
  else s

/-- Fields of PORT_CTL. -/
def Port.enable (p : Port) : Bool := p.ctl.getLsbD 0
def Port.pendEn (p : Port) : Bool := p.ctl.getLsbD 1
def Port.mode (p : Port) : BitVec 2 := p.ctl.extractLsb' 2 2
/-- A field set to a value. -/
def setBits (w : Word) (o n v : Nat) : Word :=
  BitVec.ofNat 32 (w.toNat - (w.toNat / 2 ^ o % 2 ^ n) * 2 ^ o + (v % 2 ^ n) * 2 ^ o)
def Port.setEnable (p : Port) (b : Bool) : Port := { p with ctl := setBits p.ctl 0 1 (bit 0 b) }
def Port.setPend (p : Port) (b : Bool) : Port := { p with ctl := setBits p.ctl 1 1 (bit 0 b) }
/-- The writable fields apart from ENABLE; MODE 0b11 is ignored (Table 2.1). -/
def Port.writeFields (p : Port) (v : Word) : Port :=
  let mode := if v.extractLsb' 2 2 = 3#2 then p.mode else v.extractLsb' 2 2
  { p with ctl := (p.ctl &&& 0x3#32) ||| (v &&& 0x000FFF70#32) ||| (mode.setWidth 32 <<< 2) }

/-- Links of a mode (Table 2.1). -/
def modeLinks (m : BitVec 2) : Nat := if m = 0 then 1 else if m = 1 then 2 else 4

/-- State of link `j`. -/
def State.link (s : State) (p : PortId) (j : LinkId) : LinkSt := Tab.get .down (s.port p).links j.val

/-- A link changes state: its event, and the end of its sessions where it leaves `UP` (R427). DESIGN CHOICE (log 106): the event is
raised before the sessions end. -/
def State.setLink (s : State) (p : PortId) (j : LinkId) (st : LinkSt) : State :=
  let old := s.link p j
  if old = st then s
  else
    let s := s.modPort p fun q => { q with links := Tab.put .down q.links j.val st }
    let s := s.raise (tsrc (portTile p) (22 + p.val % 2)) (fld 0 j.val ||| fld 8 st.code)
    if old = .up then s.endLink p j else s

/-- Some link of the port is stopping. -/
def State.portStopping (s : State) (p : PortId) : Bool := (List.finRange 4).any fun j => decide (s.link p j = .stopping)

/-- Whether a port's circuits may run: TILE_PORT is on, its tile has reached step 10 and is not being stopped (R316, R357,
Table 13.7). -/
def State.portMay (s : State) (p : PortId) : Bool :=
  let t := portTile p
  s.hasPort p && s.portOn t && (s.tile t).ctl.portsGo

/-- Every link of the port is down: it is neither running nor stopping. -/
def State.portDown (s : State) (p : PortId) : Bool := (List.finRange 4).all fun j => decide (s.link p j = .down)

/-- A port that is down starts: the links of its mode train (R36, R427); one that runs already goes on as it is. -/
def State.portStart (s : State) (p : PortId) : State :=
  if s.portMay p && (s.port p).enable && s.portDown p then
    let s := s.modPort p fun q => { q with run := q.mode, rxOff := false }
    let n := modeLinks (s.port p).run
    (List.finRange 4).foldl (fun s j => s.setLink p j (if j.val < n then .training else .down)) s
  else s

/-- The port's links stop (R74); a port that is down has nothing to stop. -/
def State.portStop (s : State) (p : PortId) : State :=
  if s.portDown p then s.modPort p fun q => { q with rxOff := true }
  else (List.finRange 4).foldl (fun s j => if s.link p j = .down then s else s.setLink p j .stopping) s

/-- A port goes dark at once, as its domain does (R316). -/
def State.portDark (s : State) (p : PortId) : State :=
  let s := (List.finRange 4).foldl (fun s j => s.setLink p j .down) s
  s.modPort p fun q => { q with rstPend := false }

/-- A write of PORT_CTL with ENABLE = 1 (R74). -/
def State.portOn1 (s : State) (p : PortId) (v : Word) : State :=
  let was := (s.port p).enable
  let s := s.modPort p fun q => { (q.writeFields v).setEnable true with rxOff := q.rxOff && was }
  if s.portStopping p then s.modPort p fun q => q.setPend true
  else if was then s else s.portStart p

/-- A write of PORT_CTL with ENABLE = 0 (R74). -/
def State.portOff1 (s : State) (p : PortId) (v : Word) : State :=
  let s := s.modPort p fun q => ((q.writeFields v).setEnable false).setPend false
  s.portStop p

/-- A management access pending in a clock domain that is reset is to be completed without effect (R351). -/
def State.hitPends (s : State) (p : Nat → Bool) : State :=
  let f := fun (q : Option Pend) => q.map fun d => if p d.dom then { d with due := true } else d
  s.modClk fun c => { c with smb := f c.smb, ib := f c.ib }
/-- The clock domains of tile `t` that a tile fault reset covers, and those of port `p` (Table 13.2). -/
def tileDom (t : TileId) (i : Nat) : Bool :=
  decide (2 + 29 * t.val ≤ i ∧ i < 2 + 29 * t.val + 28 ∧ (i - 2 - 29 * t.val < 9 ∨ i - 2 - 29 * t.val = 27))
def portDom (p : PortId) (i : Nat) : Bool :=
  let j := i - (2 + 29 * (p.val / 2))
  decide (2 + 29 * (p.val / 2) ≤ i ∧ (9 + 8 * (p.val % 2) ≤ j ∧ j < 17 + 8 * (p.val % 2) ∨ j = 25 + p.val % 2))

/-- A port reset takes effect: its links and sessions end at once, its counters clear, and it trains again if enabled (R356).
DESIGN CHOICE (log 107): that start adopts the MODE present at the moment, as every start does. -/
def State.portClear (s : State) (p : PortId) : State :=
  let s := (List.finRange 4).foldl (fun s j => s.setLink p j .down) s
  let s := s.modPort p fun q => { q with cnt := [], rstPend := false }
  (s.hitPends (portDom p)).portStart p

/-- A port reset; one that finds the port stopping waits for the stop. -/
def State.portRst (s : State) (p : PortId) : State :=
  if s.portStopping p then s.modPort p fun q => { q with rstPend := true } else s.portClear p

/-- A port's stop completes; a pending reset or enable takes effect. -/
def State.portStopped (s : State) (p : PortId) : State :=
  if s.portStopping p then
    let s := (List.finRange 4).foldl (fun s j => s.setLink p j .down) s
    let s := s.modPort p fun q => { q with rxOff := true }
    let s := if (s.port p).rstPend then s.portClear p else s
    let s := s.modPort p fun q => q.setPend false
    s.portStart p
  else s

/-- A port that may run and is enabled has a link `UP`. -/
def State.portReady (s : State) (p : PortId) : Bool := (List.finRange 4).any fun j => decide (s.link p j = .up)

/-- A link's training completes. -/
def State.trained (s : State) (p : PortId) (j : LinkId) : State :=
  if s.link p j = .training then
    let s := s.setLink p j .up
    let s := s.mile 6
    if (List.finRange 16).all fun q => !(s.portMay q && (s.port q).enable) || s.portReady q then s.mile 7 else s
  else s

/-- A link loses its partner. -/
def State.lostLink (s : State) (p : PortId) (j : LinkId) : State :=
  if s.link p j = .up then s.setLink p j .training else s

end Sys2Proof.Machine
end

