-- ==== Sys2Proof/Machine/Life.lean ====
section
/-! DEFINITION. The life of a tile: fault reset and replay, stop and start, drain, recovery, opening of admission (R150, R151,
R154, R184, R214, R245, R292, R329, R337, R341, R354 to R359). -/

namespace Sys2Proof.Machine

/-- The two ports of a tile (R18). -/
def tilePorts (t : TileId) : List PortId := (List.finRange 16).filter fun p => decide (portTile p = t)

/-- The tile's token key is replaced (R168). -/
def State.rollToken (s : State) (t : TileId) : State :=
  let (k, s) := s.draw 128
  s.modXlt t fun a => { a with tokenKey := k }

/-! ### Work in progress -/

/-- What the dies and channels of a tile are doing ends (R190, R245): a program all of whose steps have been issued completes, another is
abandoned, and a record of a remap area is programmed anew; an erase that has had its last step is done, another begins again from its
first; a run loses its page. -/
def State.quiesce (s : State) (t : TileId) : State :=
  let s := (List.range 64).foldl (fun s i =>
    let c := i / 8
    let d := i % 8
    let s := match (s.die t c d).prog with
      | some g => if g.steps = 12 then s.programmed t c d else (s.modDie t c d fun x => { x with prog := none }).abandon t c g
      | none => s.applyChange t c d
    (s.endErase t c d).modDie t c d fun x => { x with
      erase := none, timeouts := 0, asked := false, changes := x.changes.map fun h => { h with steps := 0 } }) s
  let s := (List.range 8).foldl (fun s c => match Tab.get none (s.tile t).sch.runs c with
    | some r => match r.page with | some g => s.unbind t c g | none => s
    | none => s) s
  s.modSch t fun a => { a with run := false, runs := [] }

/-- Strata that hold pages whose records are not durable (R184). -/
def State.orphanStrata (s : State) (t : TileId) : List Nat :=
  ((s.dueRecs t).filterMap fun r => match r with
    | .log p _ => some (pageStratum p)
    | .image _ loc _ _ _ _ _ _ => some (pageStratum loc)
    | .logMove _ _ new => some (lineStratum new)
    | .imageMove _ _ new => some (pageStratum new)
    | .mapPage _ loc _ _ => some (pageStratum loc)
    | _ => none) ++
  (s.tile t).sec.rollPages.filterMap fun e => e.2.map fun p => pageStratum p.1

/-- Page positions that were bound and have not programmed are cut short (R190, R192). -/
def Stratum.cut (g : Stratum) : Stratum :=
  if g.st = .opened then { g with
    done := g.next
    holes := g.holes ++ g.next.flatMap fun e => (List.range e.2).filterMap fun p =>
      if Tab.get 0 g.done e.1 ≤ p ∧ ¬ g.holes.contains (e.1, p) then some (e.1, p) else none }
  else g

/-- Translation after a loss of what was not durable: records and pages that waited are gone, copies without records are
orphans, a stratum with no valid line that was a victim waits for its erase (R184, Table 6.8). Entries that wait for a place in the overlay
have durable records: they stay, and their frames are resident again. Map pages that the journal has changed
since their last write-back are dirty in the cache. -/
def Xlt.settle (a : Xlt) (orphans : List Nat) : Xlt :=
  { a with
    jbuf := [], bgPages := [], mapPages := [], folds := [], fetching := []
    displaced := a.displaced.map fun e => (e.1, match e.2 with
      | .inl (la, _) => .inl (la, none)
      | .inr (.staging _) => .inr .record
      | w => w)
    cache := a.cache.filter fun e => e.2.dirty
    victim := none, gcPhase := 0, gcLeft := [], orphaned := (a.orphaned ++ orphans).dedup, ckptRun := none
    strata := a.strata.map fun e => (e.1,
      let g := { e.2.cut with erased := [], spared := [] }
      if a.victim = some e.1 ∧ g.valid = 0 ∧ g.st = .closed then { g with st := .pendErase } else g) }

/-- Staged lines as they stand when packing in progress is given up: resident, none pulled. -/
def Adm.resettle (a : Adm) : Tab Staged :=
  (a.staged.filter fun e => !e.2.pulled).map fun e => (e.1, { e.2 with packing := false, older := 0 })

/-- Intake and staging with the cells gone (Table 13.5): what is drained of staging stays. -/
def Adm.clearCells (a : Adm) (staged : Tab Staged) : Adm :=
  { staged, stFree := 1572864 - staged.length, ord := a.ord, scfg := a.scfg, rate := a.rate, depth := a.depth, level := a.depth }

/-- Counters and the tree without the work in progress; dirty objects stay. -/
def Sec.settle (a : Sec) : Sec :=
  { a with cached := a.cached.filter (fun e => decide (e.2 = some true)), fetching := [], arrived := [], rolling := [], imaged := []
           rollPages := [], stallRaised := [] }

/-- Channel SRAM without what was not durable: changes of the records, and what they were for (R195). -/
def Die.settle (x : Die) : Die := { x with prog := none, erase := none, carry := none, changes := [] }

/-- What was not durable on a tile is lost, or given up. -/
def State.settleTile (s : State) (t : TileId) : State :=
  let o := s.orphanStrata t
  s.modTile t fun T => { T with
    xlt := T.xlt.settle o, sec := T.sec.settle
    med := { T.med with dies := T.med.dies.map fun e => (e.1, e.2.settle) } }

/-! ### Tile fault reset (R150, R245, R356) -/

/-- The tile's engine runs, or starts at the next superframe boundary, and is not to halt there. -/
def State.resumes (s : State) (t : TileId) : Bool := ((s.tile t).sch.run && !(s.tile t).sch.haltDue) || (s.tile t).sch.startDue

/-- A tile fault reset of tile `t` with a cause of Table 13.6; one that finds another running is merged into it (R355). -/
def State.tileFault (s : State) (t : TileId) (cause : Byte) : State :=
  if (s.tile t).ctl.st = .faultReset then s.hitPends (tileDom t) else
  let s := s.raise (tsrc t 0) (fld 0 cause.toNat)
  let resumes := s.resumes t
  let s := s.modCtl t fun c => { c with
    cause, count := min (c.count + 1) 65535, fsf := s.sf, admDue := false
    recovery := if c.st = .starting then 0 else c.recovery, recRead := false
    told := c.told || (decide (c.st = .starting) && decide (c.recovery = 5))
    st := if c.st = .inService ∨ c.st = .replay then .faultReset else c.st
    replayDue := c.replayDue || decide (c.st = .inService ∨ c.st = .stopping) }
  let s := (s.quiesce t).dropLogic t
  let s := s.modSch t fun a => { a with
    startDue := resumes, haltDue := false
    gale := false, galeFrames := 0, galeLongDone := false }
  let s := s.modAdm t fun a => { a with used := [], becalmed := [], rr := [] }
  let s := s.modTile t fun T => { T with pmc := {} }
  let s := (tilePorts t).foldl (fun s p => s.portRst p) s
  (s.failPending t).hitPends (tileDom t)

/-- Replay ends: the walk has acted on every cell, and the tile is in service again (R150). -/
def State.replayed (s : State) (t : TileId) : State :=
  if (s.tile t).ctl.replayDue ∧ (s.tile t).sch.run = true then
    ((s.replayTile t).modCtl t fun c => { c with replayDue := false, st := if c.st = .replay then .inService else c.st }).serveWaiting t
  else s

/-! ### Stops (R329, R337, R357, R388) -/

/-- The tile's ports stop and stay down. -/
def State.stopPorts (s : State) (t : TileId) : State :=
  let s := (tilePorts t).foldl (fun s p => s.portStop p) s
  s.modCtl t fun c => { c with portsGo := false }

/-- The tile leaves service to be packed (R329, R357). -/
def State.packTile (s : State) (t : TileId) (cause : BitVec 4) : State :=
  s.modCtl t fun c => { c with st := .stopping, stopCause := cause, packing := true, recReq := false, lastCkpt := 0, admDue := false }

/-- TCTL_CTL.ENABLE = 0. -/
def State.tileStop (s : State) (t : TileId) : State :=
  let c := (s.tile t).ctl
  let s := s.modCtl t fun c => { c with enable := false, pendEn := false }
  if c.st = .inService ∨ c.st = .replay ∨ c.st = .faultReset then (s.packTile t 1).stopPorts t else s

/-- Page positions that a drain programs into the cairn: staging lines, the tables of 6,400 pages, dirty map pages and counter objects, root,
ripe table, lost ranges and DC, and the parity that goes with seven of them each (R337; log 152). -/
def State.cairnPositions (s : State) (t : TileId) : Nat :=
  let T := s.tile t
  let objs := (T.sec.cached.filter fun e => decide (e.2 = some true)).length
  let pages := (T.adm.staged.length + 63) / 64 + tablePages + T.xlt.dirty + (objs + 63) / 64 + 1 + (T.sec.ripe.length + 511) / 512
  let data := (pages + 3) / 4
  data + (data + 6) / 7

/-- A tile makes the drain of R337: admission is closed, what is in flight is discarded, the engine stops. -/
def State.beginDrain (s : State) (t : TileId) : State :=
  if (s.tile t).ctl.draining then s
  else
    let s := s.modCtl t fun c => { c with
      st := .stopping, draining := true, packing := false, recReq := false, replayDue := false, lastCkpt := 0, admDue := false }
    let s := (s.stopPorts t).quiesce t
    let s := (s.dropLogic t).modSch t fun a => { a with startDue := false, haltDue := false, fetches := [] }
    let s := (s.modAdm t fun a => a.clearCells a.resettle).settleTile t
    s.modCtl t fun c => { c with cairnLeft := s.cairnPositions t, cairnPos := [] }

/-- The drain's sequence number: the SEQ of the record that completes it (R271, R339; log 142). -/
def State.drainSeq (s : State) (t : TileId) : Word := (Tab.get {} s.ldg.insts (baseDrain t.val)).seq + 1

/-- What the drain programs into the cairn (Table 5.9, R337), staging lines encrypted (R271), with the witness page. The directory, overlay
and stratum table that go with it stand in the tile's own tables (log 80). -/
def State.writeCairn (s : State) (t : TileId) : State :=
  let T := s.tile t
  let n := s.drainSeq t
  let dirty := T.sec.cached.filter fun e => decide (e.2 = some true)
  s.modMedium t fun m => { m with
    cairn := T.adm.staged.map fun e => (e.1, (e.2.data ^^^ cairnStream (s.cairnKey t) n e.1, e.2.poison))
    cairnNonce := n, cairnSpans := T.xlt.spans, cairnPages := T.xlt.dirtyList
    cairnObjs := dirty.map fun e => (e.1, s.objBits t e.1)
    cairnRoot := T.sec.rootVal, cairnRipe := T.sec.ripe, witness := T.med.dc }

/-- A tile being packed holds nothing more: no part armed, no line in staging, no program in progress. -/
def State.packed (s : State) (t : TileId) : Bool :=
  let T := s.tile t
  !T.ctl.replayDue && (T.adm.cells.all fun e => decide (e.2.st = .claimed) || e.2.reported) && decide (T.adm.staged = []) &&
  decide (T.xlt.displaced = []) && (T.med.dies.all fun e => e.2.prog.isNone) && (T.sch.runs.all fun e => match e.2 with | some r => r.page.isNone | none => true)

/-- A drain-completion record of a tile is requested (R339, Table 14.6). -/
def State.drainRecord (s : State) (t : TileId) (kind : BitVec 2) (run : BitVec 64) : State :=
  let s := s.modLdg fun l => { l with unread := l.unread.filter fun u => decide (u ≠ t) }
  (s.modCtl t fun c => { c with recReq := true }).commit (baseDrain t.val) (.drain kind run s.sf) [.drainDone t kind]

/-- The tile's last cairn program has completed, or its packing and the checkpoint after it: the record is requested (R329, R337). -/
def State.requestRecord (s : State) (t : TileId) : State :=
  let c := (s.tile t).ctl
  if c.recReq then s
  else if c.draining then (if c.cairnLeft = 0 then (s.writeCairn t).drainRecord t 1 s.ldg.start else s)
  else if c.packing ∧ s.packed t = true then
    if c.lastCkpt = 2 then s.drainRecord t 2 s.ldg.start
    else if c.lastCkpt = 0 then s.lastCheckpoint t
    else s
  else s

/-- A stop during which a reading was invalid is over: the tile's age is unknown (R216, R390). -/
def State.ageLost (s : State) (t : TileId) : State :=
  if (s.thmT t).badHold then (s.enterUnknown t).modThm t fun h => { h with badHold := false } else s

/-- A stopped tile begins again: it recovers by its record, its engine starts at the next superframe boundary (R357). -/
def State.restartTile (s : State) (t : TileId) : State :=
  let s := (s.ageLost t).modCtl t fun c => { c with
    st := .starting, pendEn := false, stopCause := 0, recovery := 0, keep := false, consReq := false, consumed := false, portsGo := false, recRead := false
    draining := false, packing := false, recReq := false, admDue := false, lastCkpt := 0 }
  s.modSch t fun a => { a with startDue := true, haltDue := false }

/-- TCTL_CTL.ENABLE = 1 (R334, R357): a tile that holds a thermal stop stays stopped. -/
def State.tileStart (s : State) (t : TileId) : State :=
  let c := (s.tile t).ctl
  let s := s.modCtl t fun c => { c with enable := true }
  match c.st with
  | .stopping => s.modCtl t fun c => { c with pendEn := true }
  | .stopped => if (s.thmT t).hold then s else s.restartTile t
  | _ => s

/-- The record of a tile that stops alone has been committed: the tile is stopped, and a pending enable takes effect. -/
def State.tileStopped (s : State) (t : TileId) : State :=
  let c := (s.tile t).ctl
  let s := s.modCtl t fun c => { c with
    st := if c.st = .stopping then .stopped else c.st, draining := false, packing := false, recReq := false, lastCkpt := 0 }
  let s := s.modSch t fun a => { a with haltDue := a.run }
  if c.st = .stopping ∧ c.pendEn = true ∧ (s.thmT t).hold = false then s.restartTile t else s

/-! ### Domains (R316, Table 13.5) -/

/-- The housekeeping domain of a tile has stopped: no reading, and every run of readings starts afresh (R383). -/
def Thm.blind (h : Thm) : Thm :=
  { h with valid := false, st := if h.hold then .tooHot else .normal, last := [], valids := [], hotRun := 0, badRun := 0 }

/-- The engine stands still with its domains; one that ran begins again at a superframe boundary once they are back (R245, R356). -/
def State.engineDark (s : State) (t : TileId) : State :=
  let r := s.resumes t
  (s.quiesce t).modSch t fun a => { a with startDue := r, haltDue := false }

/-- TILE_SRAM goes off, or VSRAM has faulted: staging, cells and every table in it are lost (R316, R327). -/
def State.sramLost (s : State) (t : TileId) : State :=
  ((s.engineDark t).settleTile t).modTile t fun T => { T with
    adm := T.adm.clearCells [], xlt := { T.xlt with spans := [] }, sec := { T.sec with cached := [] }
    ctl := { T.ctl with keep := false, sramBad := true, loaded := false } }

/-- TILE_MIO or TILE_CORE goes off: what the medium and the logic were doing is cut short. -/
def State.logicLost (s : State) (t : TileId) : State := (s.engineDark t).dropLogic t

/-! ### Recovery (R184, R292, R341, R359) -/

/-- Written spans after a replay of the journal: those of the checkpoint and those of every mapped line. -/
def State.replaySpans (s : State) (t : TileId) : Tab Bool :=
  let a := (s.tile t).xlt
  let m := (a.ovl.map Prod.fst ++ a.displaced.map Prod.fst).foldl (fun (m : Tab Bool) line => Tab.put false m (line / 1024) true)
    (s.medium t).ckptSpans
  a.te.foldl (fun m e => if e.2.image then Tab.put false m (e.1 / 16) true else m) m

/-- The choice of Table 13.8. A tile that restarts from a stop goes by the record it committed then (R357, R390; log 99). -/
def State.choice (s : State) (t : TileId) : BitVec 3 :=
  if s.boot.firstStart && !s.ldg.anyDrain then 6
  else if (s.tile t).ctl.keep then 1
  else match (if (s.tile t).ctl.ownRec then s.ldg.drainKind t else s.ldg.drainOf t) with
    | some 1 => 2
    | some 2 => 3
    | some 3 => 4
    | _ => 5

/-- Staging as a cairn holds it, decrypted, in address order (R154, R271). -/
def reload (key : BitVec 256) (nonce : Word) (cairn : Tab (Line × Bool)) : Tab Staged :=
  cairn.zipIdx.map fun e =>
    (e.1.1, { data := if e.1.2.2 then 0 else e.1.2.1 ^^^ cairnStream key nonce e.1.1, poison := e.1.2.2, ord := e.2 })

/-! ### Counter recovery (R292) -/

/-- A slot's counter block as its counter page on the medium holds it; zero where the page has never been written. -/
def State.durableCtr (s : State) (t : TileId) (slot : Nat) : Ctr :=
  if (s.dirAt t (ctrPage slot)).isEmpty then {}
  else match (if (s.tile t).ctl.recBad.contains (s.ctrCwa t slot) then none else s.objOnMedium t (treeKey 0 slot)) with
    | some (b, _) => Ctr.ofBits b (s.compactAt t (slot * 64))
    | none => {}

/-- The counters (slot, major, minor) that a line can have reached by at most `n` records from its durable ones, the nearest first: each
record advances the minor, or packs the line in a rollover image, which takes the next major, or the new key slot while a pass runs
(R273, R280, R283; log 140). -/
def Ctr.reach (c : Ctr) (last minor n : Nat) (cur : Bool) : List (Bool × BitVec 56 × Nat) :=
  ((List.range (n + 1)).flatMap fun a =>
    (if minor + a ≤ last then [(c.epoch, c.major, minor + a)] else []) ++
    ((List.range a).filterMap fun j => if a - (j + 1) ≤ last then some (c.epoch, c.major + BitVec.ofNat 56 (j + 1), a - (j + 1)) else none) ++
    (if c.epoch = cur then [] else ((List.range a).filterMap fun j => if a - j ≤ last then some (cur, BitVec.ofNat 56 j, a - j) else none) ++
      (List.range a).filterMap fun j => if a - 1 - j ≤ last then some (cur, BitVec.ofNat 56 j, a - 1 - j) else none)).dedup

/-- The counters of one line: those of the first candidate under which its tag verifies; a line that is not on the medium has no tag to be
tried, and takes the furthest minor (log 140). -/
def State.tryLine (s : State) (t : TileId) (c : Ctr) (line n : Nat) : Option (Bool × BitVec 56 × Nat) :=
  let comp := s.compactAt t line
  let m := Tab.get 0 c.minor (lineIn comp line)
  let la := match Tab.get none (s.tile t).xlt.ovl line with
    | some (some la) => some la
    | some none => none
    | none => if (s.teAt t (line / 64)).image then some ((s.teAt t (line / 64)).loc.toNat * 64 + line % 64) else none
  match la with
  | none => some (c.epoch, c.major, min (m + n) (lastMinor comp))
  | some la => match (if (s.tile t).ctl.recBad.contains (BitVec.ofNat 34 (la / 4)) then none else s.storedLine t la) with
    | none => none
    | some (x, tag) =>
      let cur := match s.rgnOfLine t line with | some r => (s.rgn r).cur | none => c.epoch
      (c.reach (lastMinor comp) m n cur).find? fun k => s.tagUnder t line x tag k

/-- One counter group is restored. -/
def State.resyncSlot (s : State) (t : TileId) (slot : Nat) : State :=
  let comp := s.compactAt t (slot * 64)
  let c := s.durableCtr t slot
  let lines := ((s.tile t).sec.packs.filter fun e => decide (slotOf comp e.1 = slot)).map fun e => (e.1, s.tryLine t c e.1 e.2)
  let found := lines.filterMap fun e => e.2.map fun k => (lineIn comp e.1, k)
  let cur := match s.rgnOfLine t (slot * 64) with | some r => (s.rgn r).cur | none => c.epoch
  let best := found.foldl (fun (b : Bool × BitVec 56) e =>
    if e.2.1 ≠ b.1 then (if e.2.1 = cur then (e.2.1, e.2.2.1) else b) else if b.2 < e.2.2.1 then (b.1, e.2.2.1) else b) (c.epoch, c.major)
  let old := if best = (c.epoch, c.major) then c.minor else []
  let minor := found.foldl (fun (m : Tab Nat) e => if (e.2.1, e.2.2.1) = best then Tab.put 0 m e.1 e.2.2.2 else m) old
  let s := s.modSec t fun a =>
    let a := if lines = [] then a else a.hold slot true
    { a with
      ctrs := Tab.put {} a.ctrs slot { epoch := best.1, major := best.2, minor }
      ripe := if minor.any fun e => decide (e.2 = lastMinor comp) then (if a.ripe.contains slot then a.ripe else a.ripe ++ [slot])
        else a.ripe.filter fun x => decide (x ≠ slot)
      cnt := Tab.bump a.cnt 7 lines.length }
  if lines.any fun e => e.2.isNone then s.addLost t slot 0 4 else s

/-- Counter recovery of a tile whose drain-completion record is not valid: every block that the medium does not hold as it stood. -/
def State.resync (s : State) (t : TileId) : State :=
  let a := (s.tile t).sec
  let slots := ((a.ctrs.map fun e => e.1) ++ a.packs.map fun e => s.slotAt t e.1).dedup
  slots.foldl (fun s q => s.resyncSlot t q) s

/-! ### The choice and its recovery -/

/-- SUP_UNCLEAN_STOP: one event for every tile of this start-up that has no record (R339, R359). -/
def State.tellUnclean (s : State) (t : TileId) : State :=
  let others := s.fitted.filter fun u =>
    decide (u ≠ t) && decide ((s.tile u).ctl.st = .starting ∧ (s.tile u).ctl.recovery = 0 ∧ s.choice u = 5) && !(s.tile u).ctl.told
  let s := others.foldl (fun s u => s.modCtl u fun c => { c with told := true }) s
  let mask := BitVec.ofNat 8 (((t :: others).map fun u => bit u.val true).sum)
  (s.modSup fun u => { u with unclean := u.unclean ||| mask }).raise 3 (fld 0 mask.toNat)

/-- The root that the ledger holds; none where its record cannot be had (R278, R292, Table 14.6; log 92). -/
def State.takeRoot (s : State) (t : TileId) : State := match s.ldg.latest (baseRoot t.val) with
  | some (.root _ l) => s.modSec t fun a => a.setRoot l
  | _ => s.addLost t 0 10 5

/-- What the drain wrote to the cairn is taken up again: staging, spans, dirty map pages and counter objects, root and ripe table (R154,
R184, R337). -/
def State.takeCairn (s : State) (t : TileId) : State :=
  let m := s.medium t
  let lines := reload (s.cairnKey t) m.cairnNonce m.cairn
  let s := s.modTile t fun T => { T with
    adm := { T.adm.clearCells lines with ord := lines.length }
    xlt := { T.xlt with spans := m.cairnSpans, cache := m.cairnPages.map fun p => (p, { dirty := true }) }
    sec := { T.sec.setRoot m.cairnRoot with ripe := m.cairnRipe, cached := m.cairnObjs.map fun e => (e.1, some true) } }
  m.cairnObjs.foldl (fun s e => s.modSec t fun a =>
    if keyLevel e.1 = 0 then { a with ctrs := Tab.put {} a.ctrs (keyIndex e.1) (Ctr.ofBits e.2 (s.compactAt t (keyIndex e.1 * 64))) }
    else { a with versions := (List.range 8).foldl (fun (v : Tab Nat) j =>
      Tab.put 0 v (treeKey (keyLevel e.1 - 1) (8 * keyIndex e.1 + j)) (e.2.extractLsb' (56 * j) 56).toNat) a.versions }) s

/-- The checkpoint and the journal are taken up (R184); what was in staging is gone. -/
def State.takeCheckpoint (s : State) (t : TileId) : State :=
  let sp := s.replaySpans t
  (s.modTile t fun T => { T with
    adm := T.adm.clearCells [], xlt := { T.xlt with spans := sp }, sec := { T.sec with cached := [] } }).takeRoot t

/-- The recovery chosen is performed: the tables are settled, and the pinned levels stand in the cache (R184, R277). -/
def State.performRecovery (s : State) (t : TileId) (r : BitVec 3) : State :=
  let told := (s.tile t).ctl.told
  let s := s.modCtl t fun c => { c with
    recovery := r, consReq := false, consumed := false, ownRec := false, told := false, lastCkpt := 0, recRead := false }
  let s := s.modXlt t fun a => { a with orphans := a.orphaned.length, orphaned := [] }
  let s := match r.toNat with
    | 6 =>
      s.modTile t fun T => { T with
        adm := T.adm.clearCells []
        xlt := { tokenKey := T.xlt.tokenKey, gccfg := T.xlt.gccfg, hostLn := T.xlt.hostLn, medLn := T.xlt.medLn, cnt := T.xlt.cnt }
        sec := { cnt := T.sec.cnt } }
    | 1 => s
    | 2 => s.takeCairn t
    | 5 => let s := (s.takeCheckpoint t).resync t; if told then s else s.tellUnclean t
    | _ => s.takeCheckpoint t
  s.modSec t fun a => a.pin

/-- A tile that is stopped before it has chosen its recovery first takes up what it recovers from, so that its drain or its packing loses
nothing (R336, R391; log 154). -/
def State.takeUp (s : State) (t : TileId) : State :=
  let c := (s.tile t).ctl
  if c.st = .starting ∧ c.recovery = 0 ∧ c.keep = false then s.performRecovery t (s.choice t) else s

/-- A tile that is starting makes a drain or a packing once its tables can be taken up: its keys and the root stand (log 154). -/
def State.mayTakeUp (s : State) (t : TileId) : Bool :=
  let c := (s.tile t).ctl
  !(decide (c.st = .starting ∧ c.recovery = 0) && !c.keep && !s.boot.tables)

/-- The drain of a tile (R337), of what it holds or would have taken up. -/
def State.drainTile (s : State) (t : TileId) : State := (s.takeUp t).beginDrain t

/-- The pages that a recovery needs: the newest checkpoint and the journal from there on, where it goes by them (R184, R213). -/
def State.recPages (s : State) (t : TileId) (r : BitVec 3) : List (BitVec 30) := if r = 3 ∨ r = 4 ∨ r = 5 then s.neededPages t else []
/-- The codewords that a recovery reads: those of its pages; counter recovery reads the counter blocks of the groups that it restores, and
the lines whose tags it tries (R217, R292). -/
def State.recCws (s : State) (t : TileId) (r : BitVec 3) : List (BitVec 34) :=
  let packs := (s.tile t).sec.packs.map Prod.fst
  (((s.recPages t r).flatMap fun p => (List.range 16).map (cwAddr p)) ++
    (if r = 5 then packs.filterMap (s.placeOf t) ++
      (((packs.map (s.slotAt t)).dedup.filter fun q => !(s.dirAt t (ctrPage q)).isEmpty).map (s.ctrCwa t)) else [])).dedup
/-- A page that recovery needs and that has been neither read, under its recorded bucket and each older one, nor rebuilt (R213, R217). -/
def State.unreadable (s : State) (t : TileId) (r : BitVec 3) : Option (BitVec 30) :=
  (s.recPages t r).find? fun p => (s.tile t).ctl.recBad.any fun a => decide (BitVec.ofNat 30 (a.toNat / 16) = p)

/-- RUN of a tile's record. -/
def State.runOf (s : State) (t : TileId) : BitVec 64 := match s.ldg.value (baseDrain t.val) with
  | some (.drain _ run _) => run
  | _ => s.ldg.start

/-- A journal that a reset left open has yet to be resolved (Table 13.7, step 5). Recovery does not wait for one whose ZEROIZE or
DISABLE is being finished, since that needs the tiles (log 120). -/
def State.unresolved (s : State) : Bool :=
  (List.finRange 16).any fun r => decide ((s.rgn r).resolving = some 3 ∧ (s.rgn r).st ≠ .zeroizing)

/-- One call of step 9 on a tile: the choice, the reads that its recovery needs (R217, R246), and once they have ended the recovery; after a reload, once everything reloaded has been packed, the
checkpoint and the record that marks the drain consumed (R341); after counter recovery the checkpoint that writes the objects back (R292). -/
def State.recoverTile (s : State) (t : TileId) : State :=
  let T := s.tile t
  let c := T.ctl
  if c.st ≠ .starting ∨ s.boot.tables = false ∨ s.unresolved = true ∨ T.sch.run = false then s
  else if let some page := T.med.mapLost then
    -- an item of the MAP stream that recovery needs is unreadable at every start-up (R213)
    (s.modCtl t fun c => { c with st := .out, stopCause := 4 }).raise (tsrc t 12) (fld 0 page.toNat)
  else if c.recovery = 0 then
    let r := s.choice t
    if c.recRead = false ∧ s.recCws t r ≠ [] then
      (s.recCws t r).foldl (fun s a => s.bgFetch t a .recovery) (s.modCtl t fun c => { c with recRead := true, recBad := [] })
    else if s.reading t .recovery then s
    else match s.unreadable t r with
    | some page => s.mapLost t page
    | none =>
      let s := s.performRecovery t r
      -- a region that was being zeroized goes on (R268)
      (List.finRange 16).foldl (fun s q => if (s.rgn q).st = .zeroizing then s.zeroTile t q else s) s
  else if c.consReq ∨ (c.recovery ≠ 1 ∧ c.recovery ≠ 2 ∧ c.recovery ≠ 5) ∨ s.packed t = false then s
  else if c.lastCkpt = 0 then s.lastCheckpoint t
  else if c.lastCkpt = 1 then s
  else if c.recovery = 2 then
    (s.modCtl t fun c => { c with consReq := true }).commit (baseDrain t.val) (.drain 3 (s.runOf t) s.sf) [.drainDone t 3]
  else s.modCtl t fun c => { c with consReq := true, consumed := true }

/-- Recovery on the tile has ended. -/
def State.recovered (s : State) (t : TileId) : Bool :=
  let c := (s.tile t).ctl
  decide (c.recovery ≠ 0) && decide ((s.tile t).xlt.displaced = []) && (c.consumed || decide (c.recovery ≠ 1 ∧ c.recovery ≠ 2 ∧ c.recovery ≠ 5))

/-- Admission opens on the tile, and its ports begin training (Table 13.7). -/
def State.openTile (s : State) (t : TileId) : State :=
  let s := s.modMedium t fun m => if (s.tile t).ctl.recovery = 2 then { m with
    cairn := [], cairnNonce := 0, cairnSpans := [], cairnPages := [], cairnObjs := [], cairnRoot := [], cairnRipe := [] } else m
  let s := s.modCtl t fun c => { c with st := .inService, portsGo := true, admDue := false, draining := false, packing := false }
  let s := s.mile 5
  let s := (tilePorts t).foldl (fun s p => s.portStart p) s
  if (s.tile t).ctl.enable then s else (s.packTile t 1).stopPorts t

/-- Step 10 on a tile: SERVED is committed first (R378). A tile whose domains are not all on stays out of service, but its
ports train (R316). -/
def State.admitTile (s : State) (t : TileId) : State :=
  let c := (s.tile t).ctl
  if c.st ≠ .starting ∨ s.boot.tables = false ∨ s.hasTile t = false ∨ s.sup.goesDown = true then s
  else if s.boot.onProg ∧ ¬(s.coreOn t ∧ s.sramOn t ∧ s.mioOn t) then
    let s := s.modCtl t fun c => { c with portsGo := true }
    (tilePorts t).foldl (fun s p => s.portStart p) s
  else if s.recovered t = false ∨ ((List.finRange 16).any fun r => (s.rgn r).resolving.isSome) = true ∨ s.ldg.waits (fun d => match d with | .ikeySet _ => true | _ => false) = true then s
  else if s.boot.served then s.openTile t
  else
    let s := s.modCtl t fun c => { c with admDue := true }
    let asked := s.ldg.waits fun d => decide (d = .served)
    if asked then s
    else (s.modLdg fun l => { l with served := l.start }).commit baseServed (.counter s.ldg.start) [.served]

end Sys2Proof.Machine
end

