-- ==== Sys2Proof/Machine/Supervisor.lean ====
section
/-! DEFINITION. The supervisor (chapter 12): rails and domains, the sequencer, running faults and their actions, off and on
requests, power loss. -/

namespace Sys2Proof.Machine

/-! ### Rails and domains (R313 to R316) -/

def Sup.rail (u : Sup) (x : RailId) : Rail := Tab.get {} u.rails x.val
def Sup.modRail (u : Sup) (x : RailId) (f : Rail → Rail) : Sup := { u with rails := Tab.upd {} u.rails x.val f }
def Sup.dom (u : Sup) (d : DomainId) : Dom := Tab.get {} u.doms d.val
def Sup.modDom (u : Sup) (d : DomainId) (f : Dom → Dom) : Sup := { u with doms := Tab.upd {} u.doms d.val f }
def State.modRail (s : State) (x : RailId) (f : Rail → Rail) : State := s.modSup fun u => u.modRail x f
def State.modDom (s : State) (d : DomainId) (f : Dom → Dom) : State := s.modSup fun u => u.modDom d f

/-- Rail `y` is in the dependency mask of rail `x` (R313). -/
def Sup.needs (u : Sup) (x y : RailId) : Bool := (u.rail x).cfg.getLsbD y.val
/-- Every rail of a rail's mask is on. -/
def Sup.depsOn (u : Sup) (x : RailId) : Bool :=
  (List.finRange 8).all fun y => !u.needs x y || decide ((u.rail y).st = .on)
/-- A rail's dependants, taken repeatedly (R313). -/
def Sup.dependants (u : Sup) (x : RailId) : List RailId :=
  (List.range 8).foldl (fun (l : List RailId) _ =>
    (List.finRange 8).filter fun y => l.contains y || u.needs y x || l.any fun z => u.needs y z) []
/-- Rails a domain needs (Table 12.2). -/
def domRails (d : DomainId) : List RailId :=
  if d.val = 0 then [0] else if d.val = 1 then [2, 3]
  else match (d.val - 2) % 4 with | 0 => [2] | 1 => [3] | 2 => [2, 4, 5] | _ => [2, 6, 7]
/-- The tile and kind of a tile domain. -/
def domTile (d : DomainId) : TileId := ⟨(d.val - 2) / 4 % 8, Nat.mod_lt _ (by decide)⟩
def domKind (d : DomainId) : Nat := (d.val - 2) % 4
/-- The domain is one the part has. -/
def State.hasDom (s : State) (d : DomainId) : Bool := decide (d.val < 2) || s.hasTile (domTile d)
/-- ACTION and TRIES of a rail (SUP_RCFG); TRIES 0 acts as 1. -/
def Rail.action (r : Rail) : Nat := r.cfg.toNat / 256 % 4
def Rail.maxTries (r : Rail) : Nat := max 1 (r.cfg.toNat / 1024 % 8)
def Rail.timeout (r : Rail) : Nat := r.cfg.toNat / 65536 % 16384
/-- Fields of SUP_CFG; 0 acts as 1. -/
def Sup.dwell (u : Sup) : Nat := max 1 (u.cfg.toNat % 1024)
def Sup.filt (u : Sup) : Nat := max 1 (u.cfg.toNat / 1024 % 16)
def Sup.autoOn (u : Sup) : Bool := u.cfg.getLsbD 14
def Sup.retryOff (u : Sup) : Nat := max 1 (u.cfg.toNat / 65536)

/-- GROUP is allowed for the rail (Table 12.1). -/
def groupAllowed (x : RailId) : Bool := decide (4 ≤ x.val)

/-! ### Instructions (Table 12.3) -/

/-- The instruction at PC. -/
def Sup.word (u : Sup) : Word := (if u.progOff then u.poff else u.pon).getD u.pc 0
def seqOp (w : Word) : Nat := w.toNat / 2 ^ 28
/-- TARGET of an ENABLE or DISABLE. -/
def seqTarget (w : Word) : Nat := w.toNat / 2 ^ 26 % 4
/-- A rail or a domain that an ENABLE or DISABLE names; tiles that are not fitted are no-ops. -/
def seqRail (w : Word) (x : RailId) : Bool := decide (seqTarget w = 0) && w.getLsbD x.val
def State.seqDom (s : State) (w : Word) (d : DomainId) : Bool :=
  (decide (seqTarget w = 1 ∧ 2 ≤ d.val) && decide (domKind d = w.toNat / 256 % 4) && w.getLsbD (domTile d).val && s.hasDom d) ||
  decide (seqTarget w = 2 ∧ d.val = 1)
/-- CHECK: its rail, LOW, DWELL and TIMEOUT. -/
def chkRail (w : Word) : RailId := ⟨w.toNat % 8, Nat.mod_lt _ (by decide)⟩
def chkLow (w : Word) : Bool := w.getLsbD 3
def chkDwell (w : Word) (u : Sup) : Nat := let d := w.toNat / 16 % 1024; if d = 0 then u.dwell else d
def chkTimeout (w : Word) : Nat := w.toNat / 2 ^ 14 % 16384

/-- A rail or domain belongs to the programme's run: every one, but in a run over a subset (R319). -/
def Sup.inRail (u : Sup) (x : RailId) : Bool := match u.subset with | none => true | some (l, _) => l.contains x
def Sup.inDom (u : Sup) (d : DomainId) : Bool := match u.subset with | none => true | some (_, l) => l.contains d

/-- A programme begins. -/
def Sup.begin (u : Sup) (off : Bool) : Sup := { u with running := true, progOff := off, pc := 0, busy := false }

/-- The off programme runs over everything that is on, on the way to OFF_WAIT (R331, R329, R336). -/
def Sup.powerDown (u : Sup) : Sup :=
  { u.begin true with st := .poweringDown, subset := none, resume := none, failed := [], heldOff := false, passed := [], action := none, waiting := [] }

/-- The instruction at PC has completed; an off request that was held abandons the on programme (R331). -/
def Sup.advance (u : Sup) : Sup :=
  let u := { u with pc := u.pc + 1, busy := false }
  if u.heldOff ∧ u.progOff = false ∧ u.st = .poweringUp then u.powerDown else u

/-- The programme runs, and the instruction at PC is `op` and not yet begun. -/
def Sup.at_ (u : Sup) (op : Nat) : Bool := u.running && !u.busy && decide (seqOp u.word = op)

/-! ### What becomes of a domain (R316, R330, R334, Table 12.6) -/

/-- A domain is no longer ON (R316): without MESH no session exists and no enrollment goes on, a tile's ports are dark without its
TILE_PORT, and the logic in TILE_CORE or TILE_MIO stands still. -/
def State.domDark (s : State) (d : DomainId) : State :=
  if d.val = 0 then s
  else if d.val = 1 then
    let s := (List.finRange 64).foldl (fun s x => s.endSession x 3) (s.forgetEnr fun _ => true)
    { s with mesh := [] }
  else match domKind d with
    | 0 => (s.modThm (domTile d) Thm.blind).logicLost (domTile d)
    | 1 => s
    | 2 => ((tilePorts (domTile d)).foldl (fun s p => s.portDark p) s).forgetEnr fun p => decide (portTile p = domTile d)
    | _ => s.logicLost (domTile d)

/-- A domain is off: what lived in it is gone. -/
def State.domLost (s : State) (d : DomainId) : State :=
  let st := (s.sup.dom d).st
  let s := s.modDom d fun x => { x with st := .off }
  let s := if st = .stopping then s else s.domDark d
  if 2 ≤ d.val ∧ domKind d = 1 then s.sramLost (domTile d) else s

/-- A domain has started. After the first on programme it begins as after its own loss: a port reset, or a tile fault reset. -/
def State.domStarted (s : State) (d : DomainId) : State :=
  let s := s.modDom d fun x => { x with st := .on }
  if s.boot.onProg = false ∨ d.val < 2 then s
  else match domKind d with
    | 1 => s
    | 2 => (tilePorts (domTile d)).foldl (fun s p => s.portRst p) s
    | _ => s.tileFault (domTile d) (if s.sup.running && !s.sup.progOff then 6 else 5)

/-- A domain is started where its rails are on (R315, R319); one that is stopping starts once it has stopped (R334); one that has
FAILED stays OFF until the next on programme (R316). -/
def Sup.startDom (u : Sup) (d : DomainId) : Sup :=
  if (domRails d).all fun x => decide ((u.rail x).st = .on) then
    match (u.dom d).st with
    | .off => if (u.dom d).failed then u else u.modDom d fun x => { x with st := .starting }
    | .stopping => u.modDom d fun x => { x with pendEn := true }
    | _ => u
  else u
/-- A domain is stopped: it isolates its outputs at once (R316). -/
def State.stopDom (s : State) (d : DomainId) : State := match (s.sup.dom d).st with
  | .on => (s.modDom d fun x => { x with st := .stopping }).domDark d
  | .starting => s.modDom d fun x => { x with st := .stopping }
  | _ => s.modDom d fun x => { x with pendEn := false }

/-- The ENABLE or DISABLE at PC has completed: no domain it names is on its way. -/
def State.seqDone (s : State) : Bool :=
  let w := s.sup.word
  (List.finRange 34).all fun d => !s.seqDom w d || !s.sup.inDom d ||
    (if seqOp w = 1 then decide ((s.sup.dom d).st ≠ .starting) && !(s.sup.dom d).pendEn else decide ((s.sup.dom d).st ≠ .stopping))
/-- The programme goes on where an ENABLE or DISABLE has completed. -/
def State.seqGoOn (s : State) : State :=
  if s.sup.running && s.sup.busy && (decide (seqOp s.sup.word = 1) || decide (seqOp s.sup.word = 2)) && s.seqDone then
    s.modSup Sup.advance
  else s

/-! ### ENABLE, DISABLE, WAIT, CHECK, JUMP, MARK -/

/-- ENABLE (R319). -/
def State.seqEnable (s : State) : State :=
  if s.sup.at_ 1 then
    let w := s.sup.word
    let u := (List.finRange 8).foldl (fun (u : Sup) x =>
      let r := u.rail x
      let dead := decide (r.st = .failed) || (List.finRange 8).any fun y => decide ((u.rail y).st = .failed) && (u.dependants y).contains x
      if seqRail w x && u.inRail x && decide (r.st ≠ .on) && u.depsOn x && !dead then
        u.modRail x fun r => { r with en := true, st := .checking }
      else u) s.sup
    let u := (List.finRange 34).foldl (fun (u : Sup) d => if s.seqDom w d && u.inDom d then u.startDom d else u) u
    ({ s with sup := { u with busy := true, since := s.now } }).seqGoOn
  else s

/-- A rail goes down: its EN is deasserted, and domains it still feeds go off with it (R315). -/
def State.railDown (s : State) (x : RailId) : State :=
  let s := s.modRail x fun r => { r with en := false, st := .off }
  (List.finRange 34).foldl (fun s d =>
    if (domRails d).contains x && decide ((s.sup.dom d).st ≠ .off) then
      (s.domLost d).modDom d fun y => { y with pendEn := false }
    else s) s

/-- DISABLE (R319). -/
def State.seqDisable (s : State) : State :=
  if s.sup.at_ 2 then
    let w := s.sup.word
    let s := (List.finRange 8).foldl (fun (s : State) x =>
      if seqRail w x && s.sup.inRail x && ((s.sup.rail x).en || decide ((s.sup.rail x).st = .on)) then s.railDown x else s) s
    let s := (List.finRange 34).foldl (fun (s : State) d =>
      if s.seqDom w d && s.sup.inDom d && decide ((s.sup.dom d).st ≠ .off) then s.stopDom d else s) s
    (s.modSup fun u => { u with busy := true, since := s.now }).seqGoOn
  else s

/-- WAIT begins; and ends. -/
def State.seqWait (s : State) : State :=
  if s.sup.at_ 3 then s.modSup fun u => { u with busy := true, since := s.now } else s
def State.waitEnds (s : State) : State :=
  if s.sup.running && s.sup.busy && decide (seqOp s.sup.word = 3) then
    (s.till (s.sup.since + aon (s.sup.word.toNat % 2 ^ 24))).modSup Sup.advance
  else s

/-- CHECK begins: of a rail outside the run it passes, of a rail that a no-op left off it fails, at once (R319). -/
def State.seqCheck (s : State) : State :=
  if s.sup.at_ 4 then
    let w := s.sup.word
    let x := chkRail w
    if s.sup.inRail x = false ∨ (chkLow w = false ∧ (s.sup.rail x).en = false) then s.modSup Sup.advance
    else (s.modSup fun u => { u with busy := true, since := s.now }).modRail x fun r => { r with trans := 0 }
  else s

/-- JUMP (Table 12.3). -/
def State.seqJump (s : State) : State :=
  if s.sup.at_ 5 then
    let w := s.sup.word
    let arg := w.toNat / 4096 % 8
    let rail : RailId := ⟨arg % 8, Nat.mod_lt _ (by decide)⟩
    let on := decide ((s.sup.rail rail).st = .on)
    let fit := decide (arg < s.part.tiles)
    let take := match w.toNat / 256 % 16 with
      | 0 => true | 1 => on | 2 => !on | 3 => fit | 4 => !fit | _ => false
    if take then s.modSup fun u => { u with pc := w.toNat % 64 - 1 }.advance else s.modSup Sup.advance
  else s

/-- MARK. -/
def State.seqMark (s : State) : State :=
  if s.sup.at_ 6 then s.modSup fun u => ({ u with mark := BitVec.ofNat 16 u.word.toNat }).advance else s

/-! ### Faults of running rails (R324 to R327) -/

/-- The rails and domains of a GROUP. -/
def Sup.groupOf (u : Sup) (xs : List RailId) : List RailId × List DomainId :=
  let rs := (xs ++ xs.flatMap fun x => u.dependants x).dedup
  (rs, (List.finRange 34).filter fun d => (domRails d).any fun y => rs.contains y)

/-- A RETRY goes on once the domains that the rail feeds have stopped: its EN is deasserted, and RETRY_OFF begins (Table 12.6). -/
def State.retryFalls (s : State) : State := match s.sup.action with
  | some (.retry x) =>
    if (s.sup.rail x).retrying && decide ((s.sup.rail x).st ≠ .checking) && !(s.sup.rail x).forced &&
        (List.finRange 34).all fun d => !(domRails d).contains x || decide ((s.sup.dom d).st = .off) then
      ((s.railDown x).modRail x fun r => { r with forced := true }).modSup fun u => { u with since := s.now }
    else s
  | _ => s

/-- A RETRY begins: the domains that the rail feeds stop, and then the rail alone goes down (Table 12.6). -/
def State.retryDown (s : State) (x : RailId) : State :=
  let fed := (List.finRange 34).filter fun d => (domRails d).contains x && decide ((s.sup.dom d).st ≠ .off)
  let s := s.modRail x fun r => { r with forced := false, retrying := true, tries := r.tries + 1 }
  let s := s.modSup fun u => { u with action := some (.retry x), retryDoms := u.retryDoms ++ fed }
  (fed.foldl (fun s d => s.stopDom d) s).retryFalls

/-- An action begins (Table 12.6). A SYSTEM action ends in OFF where an off request has been held, or where a stop was in progress
(R324, Table 12.9). -/
def State.beginAction (s : State) (a : Action) : State := match a with
  | .retry x => s.retryDown x
  | .group xs =>
    let (rs, ds) := s.sup.groupOf xs
    let s := rs.foldl (fun s x => s.modRail x fun r => { r with forced := true }) s
    s.modSup fun u => { u.begin true with action := some (.group xs), subset := some (rs, ds), resume := none }
  | .system x => s.modSup fun u => { u with
    action := some (.system x), sysPhase := 0, retryDoms := [], held := []
    sysOff := u.sysOff || decide (u.back = .stopping) || u.held.contains false }

/-- A rail is off or held down. -/
def Sup.lacking (u : Sup) : Bool := (List.finRange 8).any fun x => (u.rail x).forced || decide ((u.rail x).st = .failed)

/-- The next action: a SYSTEM action, then GROUP actions merged, then RETRY actions in order (R326). A rail that the GROUP takes
down needs no RETRY of its own. -/
def Sup.nextAction (u : Sup) : Option Action × List Action :=
  match u.waiting.find? fun a => match a with | .system _ => true | _ => false with
  | some a => (some a, u.waiting.filter fun b => decide (b ≠ a))
  | none =>
    let gs := u.waiting.flatMap fun a => match a with | .group xs => xs | _ => []
    if gs = [] then match u.waiting with | a :: l => (some a, l) | [] => (none, [])
    else (some (.group gs), u.waiting.filter fun a => match a with
      | .group _ => false | .retry x => !(u.groupOf gs).1.contains x | _ => true)

/-! ### Requests (R328 to R332, Table 12.9) -/

/-- A warm reset is requested (R307, R353): its cause waits until it takes hold. -/
def State.askWarm (s : State) (cause : BitVec 4) : State :=
  if s.clk.warmReq.isSome then s
  else
    let s := s.modClk fun c => { c with warmReq := some cause, warmSram := s.fitted.filter fun t => s.sramOn t }
    if cause = 3 ∨ s.meshOn = false ∨ s.evt.loaded = false then s
    else
      let fr := (Tab.get {} s.evt.route 12).frame
      (List.finRange 64).foldl (fun s x =>
        let S := s.ses x
        if S.st = .live ∧ (fr = 2#2 ∨ (fr = 1#2 ∧ S.steward = true)) then
          s.emit x { hdr := S.stamp x (eventHdr 12) S.dseq, payload := eventRecord 12 s.sf 1 (fld 0 cause.toNat) }
        else s) s

/-- The domains that a drain of tile `t` needs are ON (R336). -/
def State.fullyOn (s : State) (t : TileId) : Bool := s.hasTile t && s.coreOn t && s.sramOn t && s.mioOn t

/-- Whether tile `t` takes part in a drain (R336, R341): its domains are on, it has no record of this stop, and the next start does
not reload what it holds from a cairn that stands. -/
def State.drains (s : State) (t : TileId) : Bool :=
  let c := (s.tile t).ctl
  s.fullyOn t && !s.sup.drainSeen.contains t && decide (c.st ≠ .stopped) && s.mayTakeUp t &&
  !(decide (c.st = .starting) && (decide (c.recovery = 2) || (decide (c.recovery = 0) && decide (s.choice t = 2))))

/-- Tiles that are stopped and whose record of this start stands: a stop of the device has their records already (R336). -/
def State.seenTiles (s : State) : List TileId :=
  s.fitted.filter fun t => decide ((s.tile t).ctl.st = .stopped) && decide (s.ldg.drainOf t = some 1 ∨ s.ldg.drainOf t = some 2)

/-- Every tile has its record: the off programme ends the clean stop (R329). -/
def State.stopEnds (s : State) : State := s.modSup fun u => { u.powerDown with clean := s.stopClean }

/-- The drain is signalled to every tile that takes part (R336, R337). -/
def State.signalDrain (s : State) : State :=
  let ts := s.fitted.filter fun t => s.drains t
  let s := s.modSup fun u => { u with drainTiles := (u.drainTiles.filter fun t => u.drainSeen.contains t) ++ ts, drainAt := s.now }
  ts.foldl (fun s t => s.drainTile t) s

/-- Every tile that was signalled has committed its record. -/
def Sup.drained (u : Sup) : Bool := u.drainTiles.all fun t => u.drainSeen.contains t

/-- A clean stop begins (R329): every tile leaves service and is packed; one that has yet to recover takes up first what it recovers
from. -/
def State.cleanStop (s : State) : State :=
  let ts := s.fitted.filter fun t =>
    s.fullyOn t && s.mayTakeUp t && decide ((s.tile t).ctl.st ≠ .stopped ∧ (s.tile t).ctl.st ≠ .out)
  let s := s.modSup fun u => { u with
    st := .stopping, drainTiles := ts, drainSeen := s.seenTiles, drainAt := s.now, clean := false, byPwrfail := false }
  let s := ts.foldl (fun s t => match (s.tile t).ctl.st with
    | .stopping => s
    | _ => (s.takeUp t).packTile t 0) s
  if ts = [] then s.stopEnds else s

/-- An on programme over what is off (R330). -/
def State.powerUp (s : State) : State :=
  s.modSup fun u => { u.begin false with
    st := .poweringUp, subset := none, resume := none, passed := [], failed := [], heldOff := false, byPwrfail := false
    finalReq := u.finalReq && decide (u.finalCause ≠ 0), finalDone := false
    rails := u.rails.map fun e =>
      (e.1, if e.2.st = .failed ∨ e.2.forced = true then { e.2 with st := .off, forced := false, retrying := false, tries := 0 }
        else { e.2 with retrying := false })
    doms := u.doms.map fun e => (e.1, { e.2 with failed := false }) }

/-- An off request (Table 12.9). -/
def State.offReq (s : State) : State := match s.sup.st with
  | .standby => s
  | .poweringUp => if s.sup.busy ∨ s.sup.progOff = true then s.modSup fun u => { u with heldOff := true } else s.modSup Sup.powerDown
  | .on => s.cleanStop
  | .degraded => s.cleanStop
  | .recovering => match s.sup.action with
    | some (.system _) => s.modSup fun u => { u with sysOff := true, pendOn := false }
    | _ => s.modSup fun u => { u with held := u.held ++ [false], pendOn := false }
  | _ => s.modSup fun u => { u with pendOn := false }

/-- An on request (Table 12.9). -/
def State.onReq (s : State) : State := match s.sup.st with
  | .standby => s
  | .poweringUp => s
  | .on => s
  | .degraded => if s.sup.lacking then s.powerUp else s
  | .recovering => match s.sup.action with
    | some (.system _) => s
    | _ => s.modSup fun u => { u with held := u.held ++ [true] }
  | .off => s.askWarm 6
  | _ => s.modSup fun u => { u with pendOn := true }

/-- A fault action ends: a waiting one begins, or the supervisor leaves RECOVERING and requests that were held act (R326,
Table 12.9). -/
def State.actionEnds (s : State) : State :=
  let s := s.modSup fun u => { u with action := none, running := false, busy := false, subset := none, retryDoms := [] }
  match s.sup.nextAction with
  | (some a, l) => (s.modSup fun u => { u with waiting := l }).beginAction a
  | (none, _) =>
    let s := s.modSup fun u => { u with
      st := if u.back = .stopping then .stopping else if u.lacking then .degraded else .on }
    let s := if s.sup.st = .stopping ∧ s.sup.drained = true then s.stopEnds else s
    let h := s.sup.held
    h.foldl (fun s on => if on then s.onReq else s.offReq) (s.modSup fun u => { u with held := [] })

/-- A fall of PG of an on rail is counted by its length (R324). -/
def Rail.counted (r : Rail) (long : Bool) : Rail :=
  if long then { r with faults := min (r.faults + 1) 65535 } else { r with glitch := min (r.glitch + 1) 65535 }

/-- The action a fault of rail `x` takes now: 0 IGNORE, 1 RETRY, 2 GROUP, 3 SYSTEM (R325). -/
def State.faultAction (s : State) (x : RailId) : Nat :=
  let r := s.sup.rail x
  if r.action = 1 ∧ r.maxTries ≤ r.tries then (if groupAllowed x then 2 else 3) else r.action

/-- A running fault of rail `x` takes its action (R324 to R326). -/
def State.railFault (s : State) (x : RailId) : State :=
  let fresh := match (s.sup.rail x).retryAt with | some n => decide (n + ms 1000 < s.now) | none => true
  let s := s.modRail x fun r => { r.counted true with pg := false, tries := if fresh then 0 else r.tries }
  -- with VSRAM every staged line is lost (R327)
  let s := if x.val = 3 then s.fitted.foldl (fun s t => s.sramLost t) s else s
  let a := s.faultAction x
  let s := s.raise 1 (fld 0 x.val ||| fld 4 a)
  let covered := match s.sup.action with
    | some (.group xs) => (s.sup.groupOf xs).1.contains x
    | some (.retry y) => decide (y = x) && (s.sup.rail x).retrying
    | _ => false
  let act : Option Action := match a with
    | 1 => some (.retry x) | 2 => some (.group [x]) | 3 => some (.system x) | _ => none
  match act with
  | none => s
  | some a =>
    if covered then s
    else if s.sup.st = .recovering then s.modSup fun u => { u with waiting := u.waiting ++ [a] }
    else
      let s := s.modSup fun u => { u with back := u.st, st := .recovering, sysOff := false }
      s.beginAction a

/-- A rail fails to come up (R323): its EN is deasserted, the domains it feeds go off with it (R315), and the off programme runs over
its dependants that are on and over the domains that need it or a dependant. -/
def State.comeUpFails (s : State) (x : RailId) (n : Byte) (next : Nat) : State :=
  let s := (s.railDown x).modRail x fun r => { r with st := .failed, trans := n, pg := false }
  let rs := (s.sup.dependants x).filter fun y => decide ((s.sup.rail y).st = .on)
  let ds := (s.sup.groupOf [x]).2
  s.modSup fun u =>
    let more := match u.subset with | some (a, b) => (a ++ rs, b ++ ds) | none => (rs, ds)
    { u.begin true with subset := some more, resume := some (u.resume.getD next), failed := u.failed ++ [(x, n)] }

/-- PG of a rail falls, for as long as the filter asks or for less (R314, R324). VAON's loss is an event of its own (R375). -/
def State.pgFalls (s : State) (x : RailId) (long : Bool) : State :=
  let s := if long && decide (x.val ≠ 0) then s.modRail x fun r => { r with pg := false } else s
  let r := s.sup.rail x
  if r.st ≠ .on ∨ x.val = 0 then s
  else match s.sup.st with
    | .poweringUp =>
      if s.sup.passed.contains x then s.comeUpFails x r.trans s.sup.pc else s
    | .standby => s
    | .off => s
    | .poweringDown => s.modRail x fun r => r.counted long
    | .offWait => s.modRail x fun r => r.counted long
    | .draining => s.modRail x fun r => r.counted long
    | _ => if long then s.railFault x else s.modRail x fun r => r.counted long

/-- PG of a rail falls for `clocks` AON clocks and is high again; after a fall that did not end, 0 clocks: PG rises (R314). A rail whose EN
is low is not in regulation (log 155). -/
def State.pgPulse (s : State) (x : RailId) (clocks : Nat) : State :=
  let s := if clocks = 0 then s else s.pgFalls x (decide (s.sup.filt ≤ clocks))
  if x.val = 0 then s else s.modRail x fun r => { r with pg := r.en }

/-- RETRY_OFF has passed: the rail is enabled again and checked (Table 12.6). -/
def State.retryAgain (s : State) (x : RailId) : State :=
  if s.sup.action = some (.retry x) ∧ (s.sup.rail x).en = false then
    let s := s.till (s.sup.since + ms s.sup.retryOff)
    (s.modRail x fun r => { r with en := true, st := .checking, trans := 0 }).modSup fun u => { u with since := s.now }
  else s

/-- The rail that a RETRY is checking. -/
def Sup.retryCheck (u : Sup) : Option RailId := match u.action with
  | some (.retry x) => if (u.rail x).en ∧ (u.rail x).st = .checking then some x else none
  | _ => none

/-- A RETRY ends once the domains that stopped with the rail are ON again, or FAILED. -/
def State.retryEnds (s : State) : State := match s.sup.action with
  | some (.retry x) =>
    if (s.sup.rail x).st = .on ∧ (s.sup.rail x).retrying = false ∧ (s.sup.retryDoms.all fun d => decide ((s.sup.dom d).st ≠ .starting)) = true then s.actionEnds else s
  | _ => s

/-- A retried rail passes its check: the domains that stopped with it start. -/
def State.retryPasses (s : State) (x : RailId) (n : Byte) : State :=
  let s := s.till (s.sup.since + aon s.sup.dwell)
  let s := s.modRail x fun r => { r with
    st := .on, pg := true, forced := false, retrying := false, trans := n, retryAt := some s.now }
  let s := if n ≠ 0 then s.raise 2 (fld 0 x.val ||| fld 8 n.toNat) else s
  (s.modSup fun u => { u.retryDoms.foldl (fun (u : Sup) d => u.startDom d) u with since := s.now }).retryEnds

/-- A retried rail fails its check: a further try, or the action of a rail whose tries are used up (R325). -/
def State.retryFails (s : State) (x : RailId) (n : Byte) : State :=
  let s := s.till (s.sup.since + us (s.sup.rail x).timeout)
  let s := s.modRail x fun r => { r with en := false, st := .off, trans := n, pg := false }
  match s.faultAction x with
  | 1 => s.retryDown x
  | 2 => s.beginAction (.group [x])
  | _ => s.beginAction (.system x)

/-- PG_VGPIO is being checked by the prelude, and no programme runs. -/
def Sup.preludeCheck (u : Sup) : Bool := u.prelude && !u.running

/-- VGPIO is up: step 3 begins with the discovery of the flash (R362), START_COUNT is raised (R378; log 169), and SMB_ADDR is sampled (R397). -/
def State.vgpioUp (s : State) : State :=
  let s := s.modLdg fun l => { l with start := l.start + 1 }
  let s := s.commit baseStart (.counter s.ldg.start) []
  { s with
    boot := { s.boot with vgpio := true }, cfg := { s.cfg with st := .discovery }, smb := { s.smb with addr := s.smb.pins } }

/-- The prelude's check passes (R317, R322). -/
def State.preludePasses (s : State) (n : Byte) : State :=
  let s := s.till (s.sup.preludeAt + aon s.sup.dwell)
  let s := (s.modSup fun u => { u with prelude := false }).modRail 1 fun r => { r with
    pg := true, st := .on, forced := false, retrying := false, trans := n }
  let s := if n ≠ 0 then s.raise 2 (fld 0 1 ||| fld 8 n.toNat) else s
  s.vgpioUp

/-- The prelude's check fails after 10 ms: EN_VGPIO goes low, and the supervisor stays in STANDBY (R317, R325). It raises no event of its
own (log 146). -/
def State.preludeFails (s : State) (n : Byte) : State :=
  let s := s.till (s.sup.preludeAt + ms 10)
  (s.modRail 1 fun r => { r with en := false, pg := false, st := .failed, trans := n }).modSup fun u =>
    { u with prelude := false, preludeFail := true, st := .standby }

/-- A CHECK passes (R322). -/
def State.checkPasses (s : State) (n : Byte) : State := if s.sup.preludeCheck then s.preludePasses n else match s.sup.retryCheck with
  | some x => s.retryPasses x n
  | none =>
    let w := s.sup.word
    if s.sup.running && s.sup.busy && decide (seqOp w = 4) then
      let x := chkRail w
      let s := s.till (s.sup.since + aon (chkDwell w s.sup))
      let s := s.modRail x fun r =>
        if chkLow w then { r with trans := n, pg := false } else { r with trans := n, pg := true, st := .on }
      let s := if n ≠ 0 then s.raise 2 (fld 0 x.val ||| fld 8 n.toNat) else s
      s.modSup fun u => ({ u with passed := if chkLow w then u.passed else x :: u.passed }).advance
    else s

/-- A CHECK's TIMEOUT expires without a complete dwell (R323). -/
def State.checkFails (s : State) (n : Byte) : State := if s.sup.preludeCheck then s.preludeFails n else match s.sup.retryCheck with
  | some x => s.retryFails x n
  | none =>
    let w := s.sup.word
    if s.sup.running && s.sup.busy && decide (seqOp w = 4) then
      let x := chkRail w
      let s := s.till (s.sup.since + us (chkTimeout w))
      if chkLow w then
        (s.modRail x fun r => { r with trans := n, faults := min (r.faults + 1) 65535 }).modSup Sup.advance
      else s.comeUpFails x n (s.sup.pc + 1)
    else s

/-! ### SYSTEM actions (R327) -/

/-- The off programme of a SYSTEM action, over every rail but VAON and VGPIO; where no drain ran, VSRAM stays on. -/
def State.systemDown (s : State) (drained : Bool) : State :=
  let keep := fun (x : RailId) => decide (2 ≤ x.val) && (drained || decide (x.val ≠ 3))
  let keepD := fun (d : DomainId) => decide (1 ≤ d.val) && (drained || decide (d.val = 1 ∨ domKind d ≠ 1))
  let rs := (List.finRange 8).filter keep
  let s := rs.foldl (fun s x => s.modRail x fun r => { r with forced := true }) s
  s.modSup fun u => { u.begin true with
    sysPhase := 2, subset := some (rs, (List.finRange 34).filter keepD), resume := none }

/-- A SYSTEM action begins: the drain, where the rails it needs are in regulation. -/
def State.systemBegins (s : State) : State := match s.sup.action with
  | some (.system _) =>
    if s.sup.sysPhase ≠ 0 then s
    else
      let ok := [2, 3, 6, 7].all fun (y : RailId) => (s.sup.rail y).pg && decide ((s.sup.rail y).st = .on)
      if ok then
        let keep := s.seenTiles
        let s := s.modSup fun u => { u with sysPhase := 1, drainSeen := keep, drainTiles := keep, clean := false }
        let s := s.signalDrain
        if s.sup.drained then s.systemDown true else s
      else s.systemDown false
  | _ => s

/-- A tile whose drain was not done in time counts as having no record (R327, R339): its drain is given up. -/
def State.dropDrain (s : State) (t : TileId) : State :=
  let f := fun (w : CopyWrite) => { w with post := w.post.filter fun d => match d with | .drainDone u _ => decide (u ≠ t) | _ => true }
  let s := s.modLdg fun l => { l with
    unread := l.unread ++ [t], queue := l.queue.map f, flight := l.flight.map f
    insts := l.insts.map fun e => (e.1, { e.2 with next := e.2.next.map fun n =>
      (n.1, n.2.filter fun d => match d with | .drainDone u _ => decide (u ≠ t) | _ => true) }) }
  s.modCtl t fun c => { c with st := .stopped, draining := false, packing := false, recReq := false }

/-- 1.50 ms after a SYSTEM drain began. -/
def State.systemTimeout (s : State) : State :=
  match s.sup.action with
  | some (.system _) =>
    if s.sup.sysPhase = 1 then
      let s := s.till (s.sup.drainAt + us 1500)
      ((s.sup.drainTiles.filter fun t => !s.sup.drainSeen.contains t).foldl (fun s t => s.dropDrain t) s).systemDown true
    else s
  | _ => s

/-- The rails that a SYSTEM action holds down are off as an off request asked. -/
def Sup.unforced (u : Sup) : Tab Rail := u.rails.map fun e => (e.1, { e.2 with forced := false })

/-! ### The end of a programme -/

/-- END. -/
def State.seqEnd (s : State) : State :=
  if s.sup.at_ 0 then
    if s.sup.progOff then
      match s.sup.resume with
      | some n =>
        let l := s.sup.failed
        let s := s.modSup fun u => { u with progOff := false, pc := n, busy := false, subset := none, resume := none, failed := [] }
        let s := l.foldl (fun s e => s.raise 0 (fld 0 e.1.val ||| fld 8 e.2.toNat)) s
        if s.sup.heldOff then s.modSup Sup.powerDown else s
      | none => match s.sup.action with
        | some (.system _) =>
          s.modSup fun u =>
            let stop := u.sysOff && decide (u.back = .stopping)
            { u with
              running := false, subset := none, sysPhase := 3, offAt := s.now, st := if stop then .offWait else u.st
              rails := if stop then u.unforced else u.rails }
        | some _ => s.actionEnds
        | none => s.modSup fun u => { u with running := false, subset := none, st := .offWait, offAt := s.now }
    else
      let s := s.modSup fun u => { u with running := false, st := if u.lacking then .degraded else .on, passed := [] }
      -- step 4 of start-up follows step 3; an on programme of a request before it is none of its steps (R330, R358)
      if s.boot.config && !s.boot.onProg then
        let s := s.mile 2
        { s with boot := { s.boot with onProg := true } }
      else s
  else s

/-- The minimum off time has passed (R331, R332, R327). -/
def State.offTimeEnds (s : State) : State :=
  let due := s.sup.offAt + ms 50
  match s.sup.st with
  | .offWait =>
    let s := s.till due
    let s := s.modSup fun u => { u with st := .off, action := none, waiting := [], sysPhase := 0, sysOff := false }
    let high := !s.sup.pwrfail && (match s.sup.pwrHighAt with | some n => decide (n + ms 10 ≤ s.now) | none => true)
    if s.sup.pendOn ∧ high = true then (s.modSup fun u => { u with pendOn := false }).askWarm 6 else s
  | .recovering => match s.sup.action with
    | some (.system _) =>
      if s.sup.sysPhase = 3 then
        let s := s.till due
        let off := s.sup.sysOff
        let s := s.modSup fun u => { u with
          action := none, waiting := [], sysPhase := 0, sysOff := false, st := if off then .off else u.st
          rails := if off then u.unforced else u.rails }
        if off then s else s.askWarm 5
      else s
    | _ => s
  | _ => s

/-! ### Power loss (R336 to R341) -/

/-- A rail that the off programme takes down, or a domain, is not off. -/
def Sup.anyOn (u : Sup) : Bool :=
  ((List.finRange 8).any fun x => decide (2 ≤ x.val) && (u.rail x).en) ||
  (List.finRange 34).any fun d => decide (1 ≤ d.val) && decide ((u.dom d).st ≠ .off)

/-- PWRFAIL_N counts as low. -/
def State.pwrfailFalls (s : State) (clocks : Nat) : State :=
  if clocks < 4 ∨ s.sup.pwrfail = true then s
  else
    let st := s.sup.st
    let s := s.modSup fun u =>
      if st = .draining then { u with pwrfail := true, pwrHighAt := none }
      else { u with pwrfail := true, pwrHighAt := none, fellIn := st, finalReq := false, finalDone := false }
    let s := s.modLdg fun l => { l with closeAt := some (s.now + us 10) }
    let drain := decide (st = .on ∨ st = .degraded ∨ st = .recovering ∨ st = .stopping)
    if drain then
      -- a PWRFAIL_N while REFCLK is lost makes no drain (R348)
      let keep := s.seenTiles
      let s := s.modSup fun u => { u with
        st := .draining, finalCause := 1, byPwrfail := true, running := false, busy := false, subset := none, resume := none
        action := none, waiting := [], sysPhase := 0, held := [], heldOff := false, drainSeen := keep, drainTiles := keep
        retryDoms := [], clean := false }
      if s.clk.refHold then s else s.signalDrain
    else
      match st with
      | .draining => s
      | .standby => if s.sup.anyOn then s.modSup fun u => { u.powerDown with finalCause := 3, byPwrfail := true }
        else s.modSup fun u => { u with finalCause := 3 }
      | .poweringUp => s.modSup fun u => { u.powerDown with finalCause := 3, byPwrfail := true }
      | .poweringDown => s.modSup fun u => { u.powerDown with finalCause := 3, byPwrfail := true }
      | _ => s.modSup fun u => { u with finalCause := 3 }

/-- PWRFAIL_N rises. -/
def State.pwrfailRises (s : State) : State :=
  if s.sup.pwrfail then
    let s := s.modSup fun u => { u with pwrfail := false, pwrHighAt := some s.now }
    if s.sup.st = .standby then s.modLdg fun l => ({ l with closed := l.warned, closeAt := none }).pump else s
  else s

/-- The supervisor's final record is requested (R339): after every tile's record, or at the VAON warning. -/
def State.finalRecord (s : State) : State :=
  let u := s.sup
  if u.finalCause = 0 ∨ u.finalReq = true ∨ (u.finalCause = 1 ∧ u.drained = false) then s
  else
    let s := s.modSup fun u => { u with finalReq := true }
    let seen := BitVec.ofNat 8 ((u.drainSeen.map fun t => bit t.val true).sum)
    let b := Body.final u.finalCause (BitVec.ofNat 8 u.fellIn.code) seen s.ldg.start s.sf (BitVec.ofNat 16 u.lastUs)
    let s := s.commit baseFinal b [.finalDone]
    if s.ldg.warned then s.modLdg Ledger.finalFirst else s

/-- VAON falls below its warning level (R339). -/
def State.vaonWarns (s : State) : State :=
  let s := s.modLdg fun l => ({ l with closed := true, warned := true } : Ledger).finalFirst
  if s.sup.finalReq then s
  else
    let s := s.modSup fun u => { u with finalCause := 2, fellIn := if u.pwrfail then u.fellIn else u.st }
    s.finalRecord

/-- A drain that PWRFAIL_N started is over: the off programme begins (R338, R340). -/
def State.drainOver (s : State) : State :=
  if s.sup.st = .draining ∧ s.sup.finalDone = true ∧ s.sup.drained = true then s.modSup Sup.powerDown else s

/-- A tile's record has been committed: what waited for it goes on. -/
def State.recordSeen (s : State) (t : TileId) (kind : BitVec 2) : State :=
  if kind = 3 then s.modCtl t fun c => { c with consumed := true }
  -- a stop has turned the clean stop into a drain: its record is still to come (R391)
  else if kind = 2 ∧ (s.tile t).ctl.draining = true then s
  else
    let us := min 4095 ((s.now - s.sup.drainAt) / 2000)
    -- the enable of a tile that a stop of the device takes down does not wait (R334)
    let held := s.sup.drainTiles.contains t && decide (s.sup.st = .stopping ∨ s.sup.st = .draining ∨ s.sup.st = .recovering)
    let s := if held then s.modCtl t fun c => { c with pendEn := false } else s
    let s := s.modSup fun u => { u with
      drainSeen := if u.drainSeen.contains t then u.drainSeen else u.drainSeen ++ [t]
      lastUs := if kind = 1 ∧ u.st = .draining then us else u.lastUs }
    let s := (s.modCtl t fun c => { c with ownRec := true }).tileStopped t
    let s := if s.sup.st = .stopping ∧ s.sup.drained = true then s.stopEnds else s
    let s := match s.sup.action with
      | some (.system _) => if s.sup.sysPhase = 1 ∧ s.sup.drained = true then s.systemDown true else s
      | _ => s
    s.drainOver

/-- A tile has not committed its record 1 s after the off request (R329). -/
def State.cleanStopLate (s : State) (t : TileId) : State :=
  if s.sup.st = .stopping ∧ s.sup.drainTiles.contains t = true ∧ s.sup.drainSeen.contains t = false then
    (s.till (s.sup.drainAt + ms 1000)).drainTile t
  else s

/-- PWRFAIL_N has been high for 10 ms, or has not been low. -/
def State.pwrSettled (s : State) : Bool :=
  !s.sup.pwrfail && (match s.sup.pwrHighAt with | some n => decide (n + ms 10 ≤ s.now) | none => true)

/-- The on programme of start-up begins, or waits for PWRFAIL_N (R336, R358). -/
def State.startOn (s : State) : State :=
  if s.pwrSettled then (s.modSup fun u => { u with onDue := false }).powerUp else s.modSup fun u => { u with onDue := true }

/-- PWRFAIL_N has been high for 10 ms: an on programme that was held back begins, and a waiting on request acts (R332, R336). -/
def State.onBegins (s : State) : State := match s.sup.pwrHighAt with
  | none => s
  | some n =>
    if s.sup.pwrfail then s
    else
      let s := s.till (n + ms 10)
      if s.sup.startsUp = true ∧ s.sup.onDue = true then s.startOn
      else if s.sup.st = .off ∧ s.sup.pendOn = true then (s.modSup fun u => { u with pendOn := false }).askWarm 6
      else s

/-- AUTO_ON (R340). -/
def State.autoOns (s : State) : State := match s.sup.pwrHighAt with
  | some n =>
    if s.sup.st = .off ∧ s.sup.autoOn = true ∧ s.sup.byPwrfail = true ∧ s.sup.pwrfail = false then
      ((s.till (n + ms 10)).modSup fun u => { u with byPwrfail := false }).onReq
    else s
  | none => s

/-! ### The prelude (R317) -/

/-- The VGPIO prelude begins: EN_VGPIO is asserted, and PG_VGPIO is checked under R322; after a warm reset the rail is on already (R358).
The strap pins of the VGPIO bank stand as the board sets them (log 168). -/
def State.prelude_ (s : State) (p : Prelude) : State :=
  if s.sup.startsUp = false ∨ s.boot.recalled = false ∨ s.boot.vgpio = true ∨ s.sup.preludeFail = true ∨ s.sup.prelude = true ∨
      s.clk.refHold = true then s
  else
    let s := { s with dbg := { s.dbg with en := p.dbgEn }, smb := { s.smb with pins := p.smbAddr } }
    (s.modRail 1 fun r => { r with en := true, st := if r.st = .on then .on else .checking, trans := 0 }).modSup fun u =>
      { u with prelude := true, preludeAt := s.now }

/-- The prelude is repeated every 1 s (R317). -/
def State.preludeAgain (s : State) : State :=
  if s.sup.preludeFail then
    (s.till (s.sup.preludeAt + ms 1000)).modSup fun u => ({ u with preludeFail := false }).modRail 1 fun r => { r with st := .off }
  else s

end Sys2Proof.Machine
end

