-- ==== Sys2Proof/Machine/Commit.lean ====
section
/-! DEFINITION. The end of a ledger commit and the effects that waited for it (R78, R118, R266, R290, R302, R303, R371, R375,
R378), and the trouble record's clear (R303). -/

namespace Sys2Proof.Machine

/-- Entries are asked to be cleared: the clear is committed first (R303). -/
def State.askClear (s : State) (srcs : List Nat) : State :=
  let k := (s.evt.clearing.map fun c => c.1 + 1).foldl max 0
  let s := s.modEvt fun e => { e with clearing := e.clearing ++ [(k, srcs, [])] }
  ((srcs.map fun n => n / 8).dedup).foldl (fun s j => s.commit (baseTrouble j) (s.evt.instBody j) [.trbClear k]) s

/-- The clear has been committed, and takes effect for all its entries in one step. -/
def State.trbCleared (s : State) (k : Nat) : State :=
  if s.ldg.waits fun d => decide (d = .trbClear k) then s
  else match s.evt.clearing.find? fun c => decide (c.1 = k) with
    | none => s
    | some (_, srcs, occs) => s.modEvt fun e => { e with
      trb := srcs.foldl (fun (t : Tab Trouble) n =>
        Tab.put {} t n (Trouble.ofOccs ((occs.filter fun o => decide (o.1 = n)).map fun o => o.2))) e.trb
      clearing := e.clearing.filter (fun c => decide (c.1 ≠ k)), dirty := e.dirty.filter fun n => !srcs.contains n }

/-- The last commit of a credential's ENABLE that was pending has taken effect. -/
def State.credDone (s : State) (x : SessId) : State :=
  if s.ldg.waits fun d => decide (d = .credSet x ∨ d = .credOff x) then s else s.modCred x fun c => { c with want := none }

/-- A credential is enabled, with the entry as it was committed: its fields have not changed since (R78). -/
def State.credSet (s : State) (x : SessId) : State := (s.modCred x fun c => { c with enable := true }).credDone x

/-- A credential is disabled (R78). -/
def State.credOff (s : State) (x : SessId) : State :=
  let s := (s.modCred x fun c => { c with enable := false }).credDone x
  let s := s.killSession x 6
  s.modSes x fun S => { S with exch := none, fin := none, finAck := [] }

/-- An effect that waited for a commit. -/
def State.runDeferred (s : State) : Deferred → State
  | .ackReq x e q => if s.ldg.waits fun d => decide (d = .ackReq x e q) then s else s.ackReq x e q
  | .lockAck x e q r lease => s.ackLock x e q r lease
  | .credSet x => s.credSet x
  | .credOff x => s.credOff x
  | .stepApply r k id => s.stepApply r k id
  | .stepDone r k id => s.stepDone r k id
  | .stepAck r k id => s.stepAcked r k id
  | .resolved r => s.resolved r
  | .rgnSet r us => s.rgnSet r us
  | .passStart r lost => s.passStarts r lost
  | .eventFrames n sf detail k => s.eventFrames n sf detail k
  | .trbClear k => s.trbCleared k
  | .lostSet t i =>
    if s.ldg.waits fun d => decide (d = .lostSet t i) then s
    else
      let s := s.modSec t fun a => match Tab.get none a.lost i with
        | some l => { a with lost := Tab.put none a.lost i (some { l with live := true, was := [] }) }
        | none => a
      -- folds skip the range from now on (R289)
      s.dropFolds t fun x => s.lostAt t (x * 64)
  | .lostFree t i => s.modSec t fun a => { a with lost := Tab.del i a.lost }
  | .drainDone t kind => s.recordSeen t kind
  | .finalDone => (s.modSup fun u => { u with finalDone := true, finalCause := 0 }).drainOver
  | .served =>
    let s := { (s.modLdg fun l => { l with lostNow := false }) with boot := { s.boot with served := true } }
    s.fitted.foldl (fun s t =>
      if (s.tile t).ctl.admDue && decide ((s.tile t).ctl.st = .starting) && s.recovered t then s.openTile t else s) s
  -- the SMBus write of the user area is acknowledged, where its transaction still stands (R381)
  | .smbAck =>
    if s.smb.stretch.isSome ∧ s.clk.smb = none then
      { s with smb := { s.smb with stretch := none, acked := true, reply := [], status := 0 } }
    else s
  | .ikeySet h => s.modLdg fun l => { l with ikey := h, keySet := true }

/-- A ledger commit of gathered copies completes (R372, R375, R380): the cells take the copies; the effects of records that are
committed now happen; the next commit begins. A commit takes 40 µs. -/
def State.commitDone (s : State) : State :=
  if s.ldg.flight = [] then s
  else
    let ws := s.ldg.flight
    let s := s.modLdg fun l => { (ws.foldl Ledger.landed l) with
      flight := [], commits := BitVec.ofNat 32 (min (l.commits.toNat + 1) 0xFFFFFFFF) }
    let s := (ws.flatMap fun w => w.post).foldl (fun s d => s.runDeferred d) s
    s.modLdg fun l => (l.shut s.now).pump

end Sys2Proof.Machine
end

