-- ==== Sys2Proof/Machine/Image.lean ====
section
/-! DEFINITION. The configuration image and the schedule image: their layout and their checks (R143, R223, R225, R228, R231, R232,
R235, R247 to R257, R318, R320, R361 to R367, R385). -/

namespace Sys2Proof

/-- A byte of the flash; an address that is not listed reads as 0xFF, the erased value (log 29). -/
def Flash.at (f : Flash) (a : Nat) : Byte := Tab.get 0xFF f.cells a
/-- `n` bytes of the flash. -/
def Flash.bytes (f : Flash) (a n : Nat) : List Byte := (List.range n).map fun i => f.at (a + i)
/-- A little-endian value of `n` bytes (R9). -/
def Flash.le (f : Flash) (a n : Nat) : Nat := (f.bytes a n).foldr (fun b v => b.toNat + 256 * v) 0
/-- `n` bytes are 0. -/
def Flash.zero (f : Flash) (a n : Nat) : Bool := (List.range n).all fun i => decide (f.at (a + i) = 0)

end Sys2Proof

namespace Sys2Proof.Machine

/-! ### The sequencer's programmes (R318, R320) -/

/-- Reserved fields of an instruction are 0, its OP is one of Table 12.3, and a CHECK has a TIMEOUT. -/
def instrOk (w : Word) : Bool :=
  let n := w.toNat
  match seqOp w with
  | 0 => decide (n % 2 ^ 28 = 0)
  | 1 => (match seqTarget w with
    | 0 => decide (n % 2 ^ 26 / 2 ^ 8 = 0) | 1 => decide (n % 2 ^ 26 / 2 ^ 10 = 0) | 2 => decide (n % 2 ^ 26 = 0) | _ => false)
  | 2 => (match seqTarget w with
    | 0 => decide (n % 2 ^ 26 / 2 ^ 8 = 0) | 1 => decide (n % 2 ^ 26 / 2 ^ 10 = 0) | 2 => decide (n % 2 ^ 26 = 0) | _ => false)
  | 3 => decide (n % 2 ^ 28 / 2 ^ 24 = 0)
  | 4 => decide (chkTimeout w ≠ 0)
  | 5 => decide (n % 2 ^ 28 / 2 ^ 15 = 0 ∧ n / 64 % 4 = 0 ∧ n / 256 % 16 ≤ 4)
  | 6 => decide (n % 2 ^ 28 / 2 ^ 16 = 0)
  | _ => false

/-- Rules of both programmes: forward jumps, and no mask that names VAON or VGPIO. -/
def progForm (p : List Word) : Bool :=
  (p.all instrOk) && p.zipIdx.all fun e =>
    match seqOp e.1 with
    | 5 => decide (e.2 < e.1.toNat % 64)
    | 1 => decide (seqTarget e.1 ≠ 0 ∨ e.1.toNat % 4 = 0)
    | 2 => decide (seqTarget e.1 ≠ 0 ∨ e.1.toNat % 4 = 0)
    | _ => true

/-- A CHECK of PG high of rail `y` stands before instruction `i`. -/
def checkedBefore (p : List Word) (i : Nat) (y : RailId) : Bool :=
  (p.take i).any fun w => decide (seqOp w = 4 ∧ chkRail w = y) && !chkLow w

/-- Rails that a target of an ENABLE needs checked: those of a rail's mask but VAON, or those of a domain. -/
def needsOf (rails : Nat → Word) (w : Word) : List RailId :=
  match seqTarget w with
  | 0 => (List.finRange 8).flatMap fun x => if w.getLsbD x.val then
      (List.finRange 8).filter fun y => (rails x.val).getLsbD y.val && decide (y.val ≠ 0) else []
  | 1 => domRails ⟨2 + w.toNat / 256 % 4, by omega⟩
  | _ => domRails 1

/-- The rules of an on programme. -/
def ponOk (rails : Nat → Word) (p : List Word) : Bool :=
  progForm p && p.zipIdx.all fun e => decide (seqOp e.1 ≠ 1) || (needsOf rails e.1).all fun y => checkedBefore p e.2 y

/-- A DISABLE of rail `y`, and of MESH, stands before instruction `i`; the tiles whose domain of a kind has been disabled. -/
def offBefore (p : List Word) (i : Nat) (y : RailId) : Bool :=
  (p.take i).any fun w => decide (seqOp w = 2 ∧ seqTarget w = 0) && w.getLsbD y.val
def meshOffBefore (p : List Word) (i : Nat) : Bool := (p.take i).any fun w => decide (seqOp w = 2 ∧ seqTarget w = 2)
def tilesOffBefore (p : List Word) (i kind : Nat) : Nat :=
  (p.take i).foldl (fun m w => if seqOp w = 2 ∧ seqTarget w = 1 ∧ w.toNat / 256 % 4 = kind then m ||| (w.toNat % 256) else m) 0

/-- The rules of an off programme. -/
def poffOk (rails : Nat → Word) (tiles : Nat) (p : List Word) : Bool :=
  progForm p && p.zipIdx.all fun e =>
    decide (seqOp e.1 ≠ 2 ∨ seqTarget e.1 ≠ 0) || (List.finRange 8).all fun x =>
      !e.1.getLsbD x.val ||
      ((List.finRange 8).all (fun y => !(rails y.val).getLsbD x.val || offBefore p e.2 y) &&
       (!(domRails 1).contains x || meshOffBefore p e.2) &&
       (List.range 4).all fun k =>
         !(domRails ⟨2 + k % 4, by omega⟩).contains x || decide (tilesOffBefore p e.2 k % 2 ^ tiles = 2 ^ tiles - 1))

/-- Actions a rail allows (Table 12.1), and RETRY only where no rail depends on it (R320). VAON, which the table gives no action, allows
the code 0 alone (log 166). -/
def railsOk (rails : Nat → Word) : Bool :=
  (List.range 8).all fun x =>
    let a := (rails x).toNat / 256 % 4
    (match x with
      | 0 => [0] | 1 => [0, 1, 3] | 2 => [3] | 3 => [3] | 4 => [0, 2, 3] | 5 => [0, 1, 2, 3] | 6 => [2, 3] | _ => [1, 2, 3]).contains a &&
    (a != 1 || (List.range 8).all fun y => !(rails y).getLsbD x)

/-! ### The configuration image (R364 to R367) -/

/-- Fields of the configuration image at a slot's base. -/
def cfgLen (f : Flash) (b : Nat) : Nat := f.le (b + 8) 4
def cfgSeq (f : Flash) (b : Nat) : Nat := f.le (b + 0xC) 4
def cfgCreds (f : Flash) (b : Nat) : Nat := (f.at (b + 0x12)).toNat
def cfgSched (f : Flash) (b : Nat) : Nat := f.le (b + 0x14) 4
def cfgMac (f : Flash) (b : Nat) : Nat := ofBe (f.bytes (b + 0x18) 6)
def cfgEther (f : Flash) (b : Nat) : Nat := f.le (b + 0x1E) 2
def cfgKey (f : Flash) (b : Nat) : List Byte := f.bytes (b + 0x30) 32
def cfgRail (f : Flash) (b x : Nat) : Word := BitVec.ofNat 32 (f.le (b + 0x180 + 4 * x) 4)
def cfgProg (f : Flash) (b : Nat) (off : Bool) : List Word :=
  (List.range 64).map fun i => BitVec.ofNat 32 (f.le (b + (if off then 0x600 else 0x500) + 4 * i) 4)
/-- Credential entry `i` of the image. -/
def cfgCred (_ : Flash) (b i : Nat) : Nat := b + 0x700 + 40 * i
/-- A hash or key as its bytes in ascending order, byte 0 least significant (LDG_IKEY). -/
def hashLe (h : BitVec 256) : BitVec 256 := BitVec.ofNat 256 (ofLe (beBytes 32 h.toNat))

/-- THM_PARAMS are all zeros, or keep to Table 15.2 (R385). -/
def thmOk (f : Flash) (b : Nat) : Bool :=
  f.zero (b + 0x70) 32 || (
    let p := fun (i : Nat) => (f.at (b + 0x70 + i)).toNat
    decide (60 ≤ p 0 ∧ p 0 ≤ 99 ∧ p 1 < p 0 ∧ p 0 < p 2 ∧ p 2 ≤ 100 ∧ p 3 < p 2 ∧ p 1 ≤ p 3 ∧ p 2 < p 4 ∧ p 4 ≤ 105 ∧
      1 ≤ p 5 ∧ 1 ≤ p 6 ∧ p 6 ≤ 16) && f.zero (b + 0x77) 25)

/-- Check 0x47, C_FIELD. -/
def cfgFieldOk (f : Flash) (b : Nat) : Bool :=
  let mac := cfgMac f b
  let et := cfgEther f b
  let n := cfgCreds f b
  let ses := fun (i : Nat) => (f.at (cfgCred f b i)).toNat
  let fl := fun (i : Nat) => (f.at (cfgCred f b i + 1)).toNat
  decide (mac / 2 ^ 40 % 2 = 0 ∧ mac + 63 < 2 ^ 48) && decide (0x600 ≤ et ∧ et ≠ 0x8100 ∧ et ≠ 0x88E5) &&
  (List.range 16).all (fun p => decide (f.le (b + 0x100 + 8 * p) 4 / 4 % 4 ≠ 3)) &&
  (List.range n).all (fun i =>
    decide (ses i < 64 ∧ fl i < 8) && f.zero (cfgCred f b i + 6) 2 &&
    (List.range i).all (fun j => decide (ses j ≠ ses i)) && !(decide (fl i / 2 % 2 = 1) && f.zero (cfgCred f b i + 8) 32)) &&
  (List.range 8).all (fun x => x == 0 || decide (((Rail.cfgOf x) &&& 0xFF#32) &&& ~~~(cfgRail f b x) = 0)) &&
  thmOk f b

/-- The first check of Table 14.3 that the configuration image at `b` fails; 0 where it passes all of them. -/
def State.cfgCheck (s : State) (f : Flash) (b : Nat) : Nat :=
  let len := cfgLen f b
  let n := cfgCreds f b
  let so := cfgSched f b
  if !(f.bfpt && f.fast114 && decide (24 ≤ f.densityLog2)) then 0x40
  else if f.le b 4 ≠ 0x46435847 ∨ f.le (b + 4) 2 ≠ 1 then 0x41
  else if 64 < n ∨ len ≠ 0x748 + 40 * n ∨ so % 4096 ≠ 0 ∨ so < len ∨ 0x800000 < so + max 0x148 (f.le (b + so + 8) 4) ∨
      (f.zero (b + 6) 2 && f.zero (b + 0x13) 1 && f.zero (b + 0x2C) 4 && f.zero (b + 0x90) 112 && f.zero (b + 0x1A0) 96 &&
        f.zero (b + 0x420) 224 && decide ((f.at (b + 0x11)).toNat < 4)) = false then 0x42
  else if BitVec.ofNat 32 (f.le (b + len - 72) 4) ≠ crc32 (f.bytes b (len - 72)) then 0x43
  else if s.ldg.keySet = false ∨ hashLe (sha256 (cfgKey f b)) ≠ s.ldg.ikey then 0x44
  else if ed25519Verify (BitVec.ofNat 256 (ofLe (cfgKey f b)))
      (ascii "GALXALAN-CONFIG" ++ beBytes 32 (sha256 (f.bytes b (len - 64))).toNat)
      (BitVec.ofNat 512 (ofLe (f.bytes (b + len - 64) 64))) = false then 0x45
  else if (f.at (b + 0x10)).toNat ≠ s.part.tiles then 0x46
  else if cfgFieldOk f b = false then 0x47
  else if railsOk (cfgRail f b) = false ∨
      ((f.at (b + 0x11)).getLsbD 0 && !ponOk (cfgRail f b) (cfgProg f b false)) = true ∨
      ((f.at (b + 0x11)).getLsbD 1 && !poffOk (cfgRail f b) s.part.tiles (cfgProg f b true)) = true then 0x48
  else if s.ldg.ident.isNone then 0x49
  else 0

/-! ### The schedule image: slot phase (R248 to R252, R254) -/

/-- Variants present; a variant's TCOUNT, template and sequence offsets; the certificate. -/
def schVariants (f : Flash) (o : Nat) : Nat := (f.at (o + 0xD)).toNat
def schHas (f : Flash) (o v : Nat) : Bool := (schVariants f o).testBit v
def schCount (f : Flash) (o v : Nat) : Nat := f.le (o + 0x10 + 16 * v) 2
def schTempl (f : Flash) (o v : Nat) : Nat := f.le (o + 0x14 + 16 * v) 4
def schSeqOff (f : Flash) (o v : Nat) : Nat := f.le (o + 0x18 + 16 * v) 4
def schDrift (f : Flash) (o : Nat) : Nat := f.le (o + 0x50) 4
def schCert (f : Flash) (o : Nat) : Nat := o + f.le (o + 0x54) 4
def schLen (f : Flash) (o : Nat) : Nat := f.le (o + 8) 4

/-- Sections: offset and size. -/
def schSections (f : Flash) (o : Nat) : List (Nat × Nat) :=
  ((List.range 4).flatMap fun v => if schHas f o v then [(schTempl f o v, 2048 * schCount f o v), (schSeqOff f o v, 1024)] else []) ++
    [(schDrift f o, 128), (f.le (o + 0x54) 4, 512)]

/-- Check 0x02. -/
def schLengthOk (f : Flash) (b o : Nat) : Bool :=
  let len := schLen f o
  let ss := schSections f o
  decide (len ≤ 0x800000 ∧ o + len ≤ b + 0x800000 ∧ 256 + 72 ≤ len) &&
  ss.all (fun e => decide (e.1 % 64 = 0 ∧ 256 ≤ e.1 ∧ e.1 + e.2 ≤ len - 72)) &&
  ss.zipIdx.all (fun a => ss.zipIdx.all fun c => decide (a.2 = c.2 ∨ a.1.1 + a.1.2 ≤ c.1.1 ∨ c.1.1 + c.1.2 ≤ a.1.1)) &&
  (List.range (len - 72 - 256)).all (fun i => (ss.any fun e => decide (e.1 ≤ 256 + i ∧ 256 + i < e.1 + e.2)) || f.zero (o + 256 + i) 1) &&
  f.zero (o + 0xE) 2 && f.zero (o + 0x5C) 164 && decide (schVariants f o < 16) &&
  (List.range 4).all (fun v => f.zero (o + 0x12 + 16 * v) 2 && f.zero (o + 0x1C + 16 * v) 4) &&
  (let c := schCert f o
   f.zero (c + 0x1C) 4 && f.zero (c + 0x3C) 36 && f.zero (c + 0x62) 2 && f.zero (c + 0x7C) 4 && f.zero (c + 0xA2) 2 &&
     f.zero (c + 0xC8) 312) && f.zero (o + len - 68) 4

/-- The first slot-phase check (0x01 to 0x05) the schedule image fails; 0 where it passes them. -/
def State.schSlotCheck (s : State) (f : Flash) (b o : Nat) (key : List Byte) : Nat :=
  let len := schLen f o
  if f.le o 4 ≠ 0x31445246 ∨ f.le (o + 4) 2 ≠ 1 ∨ f.le (o + 6) 2 ≠ 0x100 ∨ f.le (o + 0x58) 4 ≠ 0x200 ∨ f.le (schCert f o) 4 ≠ 1 then 1
  else if schLengthOk f b o = false then 2
  else if BitVec.ofNat 32 (f.le (o + len - 72) 4) ≠ crc32 (f.bytes o (len - 72)) then 3
  else if ed25519Verify (BitVec.ofNat 256 (ofLe key))
      (ascii "GALXALAN-SCHED" ++ beBytes 32 (sha256 (f.bytes o (len - 64))).toNat)
      (BitVec.ofNat 512 (ofLe (f.bytes (o + len - 64) 64))) = false then 4
  else if (f.at (o + 0xC)).toNat ≠ s.part.tiles then 5
  else 0

/-- The contents a tile stores: templates, sequences and drift weights (R253). -/
def schStore (f : Flash) (o : Nat) : List Byte :=
  ((List.range 4).flatMap fun v => if schHas f o v then
    f.bytes (o + schTempl f o v) (2048 * schCount f o v) ++ f.bytes (o + schSeqOff f o v) 1024 else []) ++
    f.bytes (o + schDrift f o) 128

/-! ### The schedule image: tile phase (R254 to R257) -/

/-- Where a tile check first failed (CFG_LOAD). -/
structure Loc where
  variant : Nat := 0
  frame : Nat := 0
  slot : Nat := 0
  chan : Nat := 0
  die : Nat := 0
  deriving DecidableEq, Repr

/-- Template number of a frame; word of template `T`; word of slot `n` of a superframe (0 to 65,535) on channel `c`. -/
def schSeq (f : Flash) (o v fr : Nat) : Nat := (f.at (o + schSeqOff f o v + fr)).toNat
def schTWord (f : Flash) (o v T i : Nat) : Word := BitVec.ofNat 32 (f.le (o + schTempl f o v + 2048 * T + 4 * i) 4)
def schWord (f : Flash) (o v n c : Nat) : Word := schTWord f o v (schSeq f o v (n / 64)) (8 * (n % 64) + c)
/-- The variants present. -/
def schPresent (f : Flash) (o : Nat) : List Nat := (List.range 4).filter fun v => schHas f o v
/-- A place in a superframe. -/
def locAt (v n c d : Nat) : Loc := { variant := v, frame := n / 64, slot := n % 64, chan := c, die := d }

/-- The first failure over the variants and channels. DESIGN CHOICE (log 153): variants come before channels, and channels before slots. -/
def overChans (f : Flash) (o : Nat) (g : Nat → Nat → Option Loc) : Option Loc :=
  (schPresent f o).findSome? fun v => (List.range 8).findSome? fun c => g v c

/-- Check 0x09: the rows of Table 8.3 that one word shows. DESIGN CHOICE (log 153): by variant, template and index, with the first frame
that uses the template. -/
def wordCheck (f : Flash) (o : Nat) : Option Loc :=
  (schPresent f o).findSome? fun v => (List.range (schCount f o v)).findSome? fun T => (List.range 512).findSome? fun i =>
    let w := schTWord f o v T i
    if wordOk w then none
    else some { variant := v, frame := ((List.range 1024).find? fun fr => decide (schSeq f o v fr = T)).getD 0, slot := i / 8
                chan := i % 8, die := (wDie w).val }

/-- What the simulation of R255 carries along one channel: the run being filled (its first word and the words left), the step words each
die's program still needs, with the first one taken, those each die's erase still needs, and the first failure of each code: code, slot,
die. -/
structure Sim where
  run : Option (Word × Nat) := none
  prog : List (Nat × Nat × Option Nat) := []
  erase : List (Nat × Nat) := []
  bad : List (Nat × Nat × Nat) := []
  deriving DecidableEq, Repr

/-- A failure, kept where it is the first of its code: the checks of Table 9.5 are made one after the other (R254). -/
def Sim.fail (code n d : Nat) (b : Bool) (m : Sim) : Sim :=
  if b && !(m.bad.any fun e => decide (e.1 = code)) then { m with bad := m.bad ++ [(code, n, d)] } else m

/-- A program or an erase of a die is in progress. -/
def Sim.busy (m : Sim) (d : Nat) : Bool := (m.prog.any fun e => decide (e.1 = d)) || m.erase.any fun e => decide (e.1 = d)

/-- A LULL STEP word with START = 1 (R255): its CLASS is LULL, which WORD refuses (R225), so that no image that comes to this check has
one. -/
def lullStep (w : Word) : Bool := decide (wClass w = 3) && wStart w

/-- The die slot of slot `n`, which is a step word of its die (log 28): the next step of the die's program or erase. The 12th step of a
program begins no later than 100 µs after its first. -/
def Sim.die (w : Word) (n : Nat) (m : Sim) : Sim :=
  let d := (wDie w).val
  if wClass w = 0 then m
  else match m.prog.find? (fun e => decide (e.1 = d)), m.erase.find? fun e => decide (e.1 = d) with
    | some (_, left, first), _ =>
      let a := first.getD n
      ({ m with prog := (m.prog.filter fun e => decide (e.1 ≠ d)) ++ if left = 1 then [] else [(d, left - 1, some a)] } : Sim).fail
        0x0D n d (decide (3125 < n - a))
    | none, some (_, left) =>
      { m with erase := (m.erase.filter fun e => decide (e.1 ≠ d)) ++ if left = 1 then [] else [(d, left - 1)] }
    | none, none => if lullStep w then { m with erase := m.erase ++ [(d, 704)] } else m

/-- The XFER of slot `n`: START, LEND and XF_TAKE that break the run rows of Table 8.3 are WORD; a word of no run, or of another die or
class, and a run to a busy die are RUN. R255's twenty words, after which the program takes its steps, are the first of the 32 that R223 and
R228 give a run (log 28). -/
def Sim.xfer (w : Word) (n : Nat) (m : Sim) : Sim :=
  let x := (wXfDie w).val
  if !wXf w then m
  else match m.run with
    | none => if wStart w then { m.fail 0x0A n x (m.busy x) with run := some (w, 31) } else m.fail 0x0A n x true
    | some (w0, left) =>
      let m := m.fail 0x09 n x (wStart w || decide (wLend w ≠ wLend w0 ∨ wXfTake w ≠ wXfTake w0))
      let m := m.fail 0x0A n x (decide (wXfDie w ≠ wXfDie w0 ∨ wXfClass w ≠ wXfClass w0))
      let d := (wXfDie w0).val
      let m := if left = 13 then { m with prog := (m.prog.filter fun e => decide (e.1 ≠ d)) ++ [(d, 12, none)] } else m
      { m with run := if left = 1 then none else some (w0, left - 1) }

/-- The simulation of a whole superframe on a channel: its first failure of each code. A run, a program or an erase that the end of the
superframe finds unfinished has failed. -/
def simulate (f : Flash) (o v c : Nat) : List (Nat × Nat × Nat) :=
  let m := (List.range 65536).foldl (fun m n => let w := schWord f o v n c; (Sim.die w n m).xfer w n) ({} : Sim)
  let m := match m.run with | some (w, _) => m.fail 0x0A 65535 (wXfDie w).val true | none => m
  let m := match m.prog.head? with | some e => m.fail 0x0D 65535 e.1 true | none => m
  (match m.erase.head? with | some e => m.fail 0x0D 65535 e.1 true | none => m).bad

/-- The run rows of check 0x09, and checks 0x0A and 0x0D: the first failure of that code. -/
def simCheck (f : Flash) (o code : Nat) : Option Loc :=
  overChans f o fun v c => ((simulate f o v c).find? fun e => decide (e.1 = code)).map fun e => locAt v e.2.1 c e.2.2

/-- Check 0x0B: a slot with an XFER comes five slots after a die slot of one codeword, or after none (R223). -/
def laneCheck (f : Flash) (o : Nat) : Option Loc :=
  overChans f o fun v c => (List.range 65536).findSome? fun n =>
    let w := schWord f o v n c
    let q := schWord f o v ((n + 65531) % 65536) c
    if wXf w && decide (wClass q ≠ 0 ∧ wWin q ≠ 1) then some (locAt v n c (wXfDie w).val) else none

/-- Check 0x0C: no two die slots of one die lie less than 8 slots apart (R223). -/
def dieCheck (f : Flash) (o : Nat) : Option Loc :=
  overChans f o fun v c => (List.range 65536).findSome? fun n =>
    let w := schWord f o v n c
    if decide (wClass w ≠ 0) && (List.range 7).any fun i =>
        let q := schWord f o v ((n + 65535 - i) % 65536) c
        decide (wClass q ≠ 0 ∧ wDie q = wDie w) then some (locAt v n c (wDie w).val) else none

/-- Check 0x0E: the words of R235. DESIGN CHOICE (log 153): no die is at fault, and die 0 is reported. -/
def joinCheck (f : Flash) (o : Nat) : Option Loc :=
  overChans f o fun v c => ((List.range 8) ++ (List.range 8).map fun i => 65528 + i).findSome? fun n =>
    if schWord f o v n c = schWord f o 0 n c then none else some (locAt v n c 0)

/-- Check 0x0F. -/
def certOk (f : Flash) (o : Nat) : Bool :=
  let c := schCert f o
  let rate := f.le (c + 0x60) 2
  let depth := f.le (c + 0x64) 4
  decide (1 ≤ rate ∧ rate ≤ 8191 ∧ rate ≤ depth ∧ depth ≤ 1048575) &&
  decide (1 ≤ f.le (c + 0x74) 2 ∧ 1 ≤ f.le (c + 0x76) 2 ∧ 1 ≤ f.le (c + 0x78) 4) &&
  (List.range 4).all (fun v => schHas f o v || f.zero (c + 0x38 + v) 1) &&
  (List.range 8).all fun i => decide (f.le (c + 0x82 + 4 * i) 2 ≤ f.le (c + 0x80 + 4 * i) 2)

/-- Check 0x11. -/
def driftOk (f : Flash) (o : Nat) : Bool :=
  let w := fun (i : Nat) => f.le (o + schDrift f o + 2 * i) 2
  (List.range 64).all fun i => decide (w i ≠ 0) && (i == 0 || decide (w (i - 1) ≤ w i))

/-- Slots of a superframe in which a die slot of one of `cls` names die `d`. -/
def schSlots (f : Flash) (o v c d : Nat) (cls : List Nat) : List Nat :=
  (List.range 65536).filter fun n => let w := schWord f o v n c; cls.contains (wClass w) && decide ((wDie w).val = d)

/-- Intervals, in slots, between consecutive members of a rising list, with the later member. -/
def gapsOf : List Nat → List (Nat × Nat)
  | a :: b :: l => (b - a, b) :: gapsOf (b :: l)
  | _ => []

/-- Every interval of the term for `cls`, over dies, channels and pairs of variants (R257): its length in ns and its end;
`none` where a variant never names a die. -/
def schGaps (f : Flash) (o : Nat) (cls : List Nat) : List (Option Nat × Loc) :=
  (schPresent f o).flatMap fun u => (schPresent f o).flatMap fun v => (List.range 8).flatMap fun c => (List.range 8).flatMap fun d =>
    let a := schSlots f o u c d cls
    let b := schSlots f o v c d cls
    if a = [] ∨ b = [] then [(none, locAt u 0 c d)]
    else (gapsOf (a ++ b.map fun n => 65536 + n)).map fun e =>
      (some (32 * e.1), locAt (if e.2 < 65536 then u else v) (e.2 % 65536) c d)

/-- Whether a stated term differs from the computed one: the place of the first interval above it. DESIGN CHOICE (log 153): an
overstatement has no place, and reports zeros. -/
def gapCheck (gs : List (Option Nat × Loc)) (less stated : Nat) : Option Loc :=
  match gs.find? fun e => match e.1 with | some g => decide (stated < g - less) | none => true with
  | some e => some e.2
  | none => if gs.any fun e => decide (e.1.map (fun g => g - less) = some stated) then none else some {}

/-- Classes that read: every die-slot class but IDLE. -/
def readClasses : List Nat := [1, 4, 5, 7]

/-- The first tile check after READBACK (0x07 to 0x15) that the image fails, and where. -/
def State.schTileCheck (s : State) (f : Flash) (o : Nat) : Option (Nat × Loc) :=
  let c := schCert f o
  let g := (s.tile 0).xlt.gccfg.toNat
  let rg := f.le (c + 0x68) 4
  let rw := f.le (c + 0x6C) 4
  let bg := f.le (c + 0x70) 4
  let variant : Option Loc := (List.range 4).findSome? fun v =>
    if schHas f o v then (if 1 ≤ schCount f o v ∧ schCount f o v ≤ 256 then none else some { variant := v })
    else if v = 0 ∨ v = 2 ∨ f.zero (o + 0x10 + 16 * v) 16 = false then some { variant := v } else none
  let seq : Option Loc := (schPresent f o).findSome? fun v => (List.range 1024).findSome? fun fr =>
    if schSeq f o v fr < schCount f o v then none else some { variant := v, frame := fr }
  let code := fun (n : Nat) (l : Option Loc) => l.map fun x => (n, x)
  let flag := fun (n : Nat) (b : Bool) => if b then none else some (n, ({} : Loc))
  [fun (_ : Unit) => code 0x07 variant, fun _ => code 0x08 seq, fun _ => code 0x09 (wordCheck f o), fun _ => code 0x09 (simCheck f o 0x09),
    fun _ => code 0x0A (simCheck f o 0x0A),
    fun _ => code 0x0B (laneCheck f o), fun _ => code 0x0C (dieCheck f o), fun _ => code 0x0D (simCheck f o 0x0D),
    fun _ => code 0x0E (joinCheck f o), fun _ => flag 0x0F (certOk f o),
    fun _ => flag 0x10 (decide ((f.at (c + 0xA0)).toNat = g % 128 ∧ (f.at (c + 0xA1)).toNat = g / 256 % 16 ∧ f.le (c + 0xA4) 4 = g / 4096 ∧
      BitVec.ofNat 256 (ofLe (f.bytes (c + 0xA8) 32)) = s.cfg.quota)),
    fun _ => flag 0x11 (driftOk f o), fun _ => code 0x12 (gapCheck (schGaps f o readClasses) 0 rg),
    fun _ => code 0x12 (gapCheck (schGaps f o readClasses) 230 rw), fun _ => code 0x12 (gapCheck (schGaps f o [5]) 0 bg),
    fun _ => flag 0x13 (decide (248 + rg ≤ 520)), fun _ => flag 0x14 (decide (478 + rg + rw ≤ 760)),
    fun _ => flag 0x15 (decide (942 + rg + 2 * rw + bg ≤ 2600))].findSome? fun k => k ()

end Sys2Proof.Machine
end

