-- ==== Sys2Proof/Machine/Start.lean ====
section
/-! DEFINITION. Resets and start-up: the cold and warm resets, the loss of VAON and of clocks, the configuration read, the tile
phase, the tables and the engine's start (R246, R253, R256, R258, R348, R349, R353 to R360, R368, R371, R375). -/

namespace Sys2Proof.Machine

/-! ### Cold reset (Table 13.5) -/

/-- What the medium and its journal hold of a tile's translation (R157, R173, R176, R184; log 80). -/
def Xlt.durable (x : Xlt) : Xlt :=
  { te := x.te, dir := x.dir, ovl := x.ovl, strata := x.strata, cache := x.cache, orphaned := x.orphaned, jseq := x.jseq, jpages := x.jpages
    ckptPages := x.ckptPages, ckpts := x.ckpts, sealNo := x.sealNo, displaced := x.displaced }

/-- What a tile keeps of its own through a cold reset, its work settled: the durable translation state, counters and lost ranges
(Table 13.5, R214). SF starts anew: HEAT stands as folds of the epoch before, and strata count as sealed long ago (logs 133, 143). `ep`: the
epoch in which the reset comes. -/
def Tile.cold (T : Tile) (ep : Nat) : Tile :=
  { xlt := { T.xlt.durable with
      te := T.xlt.te.map fun e => (e.1, { e.2 with folds := 0, before := BitVec.ofNat 2 (e.2.heat ep), ep := 0 })
      strata := T.xlt.strata.map fun e => (e.1, { e.2 with sealedSf := none }) }
    sec := { ctrs := T.sec.ctrs, versions := T.sec.versions, packs := T.sec.packs, ripe := T.sec.ripe, stalled := T.sec.stalled, lost := T.sec.lost }
    med := { roCause := T.med.roCause, evacDies := T.med.evacDies, mapLost := T.med.mapLost } }

/-- A cold reset: every commit in progress is cut short, everything but the non-volatile stores returns to its reset value
(R355, R375). What a die was doing ends as at any loss of its logic (R190). -/
def State.coldReset (s : State) : State :=
  let s := s.fitted.foldl (fun s t => (s.quiesce t).settleTile t) s
  let s := s.cutCommit
  -- PWRFAIL_N is a pin, and counts as low again where it still is (R336)
  let low := s.sup.pwrfail
  let s := { State.reset with
    pending := s.pending, part := s.part, stepping := s.stepping, now := s.now, free := s.free, out := s.out
    ldg := { cells := s.ldg.cells }
    tiles := s.fitted.foldl (fun (m : Tab Tile) (t : TileId) => Tab.put {} m t.val ((s.tile t).cold s.epoch)) []
    media := s.media
    clk := { t0 := s.now }
    dbg := { en := s.dbg.en }
    smb := { pins := s.smb.pins, addr := s.smb.addr } }
  let s := if low then s.pwrfailFalls 4 else s
  s.fitted.foldl (fun s t => s.rollToken t) s

/-- COLD_RESET: RESET_N counts once it has been low for 125 ns, four AON clocks (R413). RESET_N that stays low holds the device in
reset: every interface as in Table 1.9, and nothing acts (R32). `resetN`: RESET_N returns high after so many clocks. -/
def State.cold (s : State) (c : ColdCause) : State := match c with
  | .resetLow => if s.powered then { s.coldReset with powered := false, held := true } else s
  | .resetN n =>
    if s.held then ({ s with powered := true, held := false } : State).coldReset
    else if s.powered = false ∨ n < 4 then s else s.coldReset
  | .vaonUp => if s.held then s else ({ s with powered := true } : State).coldReset

/-- VAON leaves regulation: the device is unpowered (R375). -/
def State.loseVaon (s : State) : State :=
  if s.powered ∨ s.held then
    let s := { s.coldReset with powered := false, held := false }
    s.modSup fun u => { u with rails := [], doms := [] }
  else s

/-! ### Warm reset (R354, R355, Table 13.5) -/

/-- What goes on waiting for a commit through a warm reset: sessions, tables and start-up are made anew. -/
def Deferred.survives : Deferred → Bool
  | .drainDone _ _ => true
  | .finalDone => true
  | .ikeySet _ => true
  | .trbClear _ => true
  | .lostSet _ _ => true
  | .lostFree _ _ => true
  | _ => false

/-- The ledger with only what survives waiting for its commits. -/
def Ledger.warm (l : Ledger) : Ledger :=
  let f := fun (w : CopyWrite) => { w with post := w.post.filter Deferred.survives }
  { l with
    queue := l.queue.map f, flight := l.flight.map f
    insts := l.insts.map fun e => (e.1, { e.2 with next := e.2.next.map fun n => (n.1, n.2.filter Deferred.survives) }) }

/-- TCTL through a warm reset: a tile that holds a stop, or is being drained, goes on with it (R389). -/
def Tctl.warm (c : Tctl) (hold ret : Bool) : Tctl :=
  if c.draining then { c with
    enable := true, cause := 0, count := 0, fsf := 0, recovery := 0, stopCause := if hold then c.stopCause else 0, pendEn := false, loaded := false, medInit := false, readback := false, replayDue := false, retained := ret, keep := ret, sramBad := false }
  else { st := if hold then .stopped else .starting, stopCause := if hold then c.stopCause else 0, retained := ret, keep := ret && !hold
         ownRec := hold && c.ownRec }

/-- A tile through a warm reset (Table 13.5), its work settled: staging and spans stay where TILE_SRAM did, and what is dirty in the
counter/tree cache; the remap areas are read again (R194). -/
def Tile.warm (T : Tile) (hold ret : Bool) : Tile :=
  { ctl := T.ctl.warm hold ret
    adm := { staged := if ret then T.adm.resettle else [], ord := T.adm.ord
             stFree := 1572864 - (if ret then T.adm.resettle.length else 0), scfg := T.adm.scfg }
    xlt := { T.xlt.durable with spans := if ret then T.xlt.spans else [], gccfg := T.xlt.gccfg, ckptSf := T.xlt.ckptSf, unmaps := T.xlt.unmaps }
    med := { T.med with ccnt := [], tcnt := [], passes := 0, remapRead := false }
    sec := { T.sec with cnt := [], cached := if ret then T.sec.cached else [] } }

/-- The supervisor through a warm reset: what stands or goes down does so; any other state starts up anew (R358, R360, Table 13.5). -/
def Sup.warm (u : Sup) : Sup :=
  let goesOn := u.goesDown && decide (u.st ≠ .off)
  let stands := decide (u.st = .on ∨ u.st = .degraded) || (decide (u.st = .recovering) && u.action.isSome)
  if goesOn ∨ stands = true then { u with onDue := false, prelude := false } else { u with
    st := .standby, running := false, busy := false, subset := none, resume := none, action := none, waiting := [], held := []
    heldOff := false, failed := [], passed := [], pendOn := false, onDue := false, sysPhase := 0, sysOff := false
    drainTiles := [], drainSeen := [], retryDoms := [], prelude := false }

/-- What every warm reset clears and keeps (R354, R355). A tile retains TILE_SRAM where the domain has been ON from the request, and its
contents have not been lost (R327, R354). -/
def State.warmClear (s : State) (cause : BitVec 4) : State :=
  let ret := fun (t : TileId) => s.sramOn t && !(s.tile t).ctl.sramBad && (s.clk.warmReq.isNone || s.clk.warmSram.contains t)
  let s := s.fitted.foldl (fun s t => (s.quiesce t).settleTile t) s
  -- COUNT increases still to be gathered are committed now: EVT_STS.COMMIT_PENDING returns to 0 (R10, R302; log 117)
  let s := s.gatherCounts
  let s := s.fitted.foldl (fun s t => s.modTile t fun T => T.warm (s.thmT t).hold (ret t)) s
  let s := s.fitted.foldl (fun s t => s.rollToken t) s
  let goesOn := s.sup.goesDown && decide (s.sup.st ≠ .off)
  let early := if s.evt.loaded then [] else s.evt.early
  let sup := s.sup.warm
  -- the power loss that closed the ledger is over where PWRFAIL_N is high again (R339; log 55)
  let opens := fun (l : Ledger) =>
    if goesOn ∨ s.sup.pwrfail = true then l else ({ l with closed := l.warned, closeAt := none } : Ledger).pump
  let s : State :=
    { s with
      sess := [], creds := [], enrQ := [], strg := [], rgns := [], mesh := [], cap := [], scratch := 0
      ports := s.ports.map fun e => (e.1, { ctl := e.2.ctl &&& 0xFFFFFFFD#32, rto := e.2.rto })
      ldg := opens { s.ldg.warm with lostNow := false }
      evt := { s.evt with pend := [], route := [], limitd := if s.evt.loaded then [] else s.evt.limitd, mecc := 0, loaded := false, early }
      sup := { sup with unclean := 0 }
      clk := { s.clk with
        lastWarm := true, warmCause := cause, warmReq := none, warmSram := [], tl := [], t0 := s.now, ib := none
        smb := s.clk.smb.map fun d => { d with due := d.due || decide (2 ≤ d.dom) } }
      cfg := { s.cfg with st := .idle, readA := false, readB := false }
      boot := { s.boot with config := false, onProg := false, tables := false, served := false, vgpio := false
                            firstStart := s.boot.firstStart && !s.boot.served } }
  s.fitted.foldl (fun s t => if (s.thmT t).hold then s else s.ageLost t) s

/-- A warm reset: DEV_WARM occurs with its cause (R307). -/
def State.warmEffects (s : State) (cause : BitVec 4) : State := (s.warmClear cause).raise 12 (fld 0 cause.toNat)

/-- A reset that is asked for while the device is held in warm reset is merged into that one: start-up follows the hold's end (R355). -/
def State.mergeWarm (s : State) : State := (s.modSup Sup.warm).modClk fun k => { k with warmReq := none, warmSram := [] }

/-- WARM_RESET: a reset that was asked for takes hold; one that was asked for while the on programme runs waits until it ends
(R360), and one that finds the device held in warm reset is merged into it (R348, R355). -/
def State.warmReset (s : State) : State := match s.clk.warmReq with
  | some c =>
    if s.clk.refHold then s.mergeWarm
    else if s.sup.st = .poweringUp then s
    else s.warmEffects c
  | none => s

/-! ### Clocks (R348, R349) -/

/-- Loss of REFCLK: every clock derived from it is gated, and the device is held in warm reset. -/
def State.refLoss (s : State) : State :=
  if s.clk.refHold ∨ s.powered = false then s
  else
    let s := s.modClk fun c => { c with refLost := true, refOk := false }
    -- the housekeeping clocks stand still with REFCLK (R383)
    let s := s.fitted.foldl (fun s t => s.modThm t Thm.blind) s
    ((s.warmClear 3).raise 4 0xFF).modClk fun c => { c with refHold := true }

/-- REFCLK has been within limits for 1 ms: the warm reset is released. -/
def State.refBack (s : State) : State :=
  if s.clk.refHold then
    let s := if s.clk.warmReq.isSome then s.mergeWarm else s
    let s := s.raise 12 3
    s.modClk fun c => { c with refHold := false, refOk := true, warmCause := 3, lastWarm := true, t0 := s.now }
  else s

/-- The state of the power domain that feeds generator `g`'s first domain (R346, Table 13.1). -/
def State.genDom (s : State) (g : Nat) : DomSt :=
  let t := g / 8
  let d := fun (i : Nat) => (Tab.get {} s.sup.doms i).st
  if s.hasTile ⟨t % 8, Nat.mod_lt _ (by decide)⟩ = false ∨ s.clk.refHold = true then .off
  else match g % 8 with
    | 0 => d (2 + 4 * t)
    | 1 => d (5 + 4 * t)
    | 2 => if d 1 = .off ∨ d (2 + 4 * t) = .off then .off else if d 1 = .starting ∨ d (2 + 4 * t) = .starting then .starting
      else if d 1 = .on ∧ d (2 + 4 * t) = .on then .on else .stopping
    | 3 => d (4 + 4 * t)
    | 4 => d (4 + 4 * t)
    | _ => .off

/-- Generator `g` is locked: its domain is up, or has yet to stop, and it has relocked since it last lost lock (R346, R349). -/
def State.locked (s : State) (g : Nat) : Bool := decide (s.genDom g = .on ∨ s.genDom g = .stopping) && !s.gated g

/-- A locked PLL loses lock: by generator (Table 13.1). Its outputs are gated until it has locked again, 10 µs later (R346, R349). -/
def State.pllLoss (s : State) (g : GenId) : State :=
  let t : TileId := ⟨g.val / 8, by omega⟩
  let k := g.val % 8
  if s.locked g.val = false then s
  else
    let s := s.modClk fun c => { c with
      losses := Tab.put 0 c.losses g.val (min 255 (Tab.get 0 c.losses g.val + 1)), lockAt := Tab.put 0 c.lockAt g.val (s.now + us 10) }
    let s := s.raise 4 (fld 0 g.val)
    if k < 2 then s.tileFault t 4
    else if k = 2 then s.askWarm 3
    else s.portRst ⟨2 * t.val + (k - 3) % 2, by omega⟩

/-! ### The configuration read (step 3; R362 to R368) -/

/-- A schedule image is refused, and its slot with it (R258). -/
def State.refuseSlot (s : State) (b : Bool) (code : Nat) (l : Loc) : State :=
  let s := { s with cfg := { s.cfg with
    load := BitVec.ofNat 32 (code + l.variant % 4 * 2 ^ 8 + l.frame % 1024 * 2 ^ 10 + l.slot % 64 * 2 ^ 20 + l.chan % 8 * 2 ^ 26 + l.die % 8 * 2 ^ 29)
    codeA := if b then s.cfg.codeA else BitVec.ofNat 8 code, codeB := if b then BitVec.ofNat 8 code else s.cfg.codeB
    exclA := s.cfg.exclA || !b, exclB := s.cfg.exclB || b } }
  let s := s.raise 8 (s.cfg.load.setWidth 64)
  let s := s.raise 6 (fld 0 (bit 0 b) ||| fld 8 code)
  s.askWarm 1

/-- Base address of a slot. -/
def slotBase (b : Bool) : Nat := if b then 0x800000 else 0

/-- A credential entry of the image (Table 14.2). -/
def imageCred (f : Flash) (a : Nat) : Cred :=
  { enable := (f.at (a + 1)).getLsbD 0, steward := (f.at (a + 1)).getLsbD 1, v1ok := (f.at (a + 1)).getLsbD 2, fromImage := true
    rd := BitVec.ofNat 16 (f.le (a + 2) 2), wr := BitVec.ofNat 16 (f.le (a + 4) 2), key := BitVec.ofNat 256 (f.le (a + 8) 32) }

/-- The destinations of Table 14.1 take the image's values. -/
def State.loadConfig (s : State) (f : Flash) (sel : Bool) : State :=
  let b := slotBase sel
  let w := fun (o : Nat) => BitVec.ofNat 32 (f.le (b + o) 4)
  let prog := f.at (b + 0x11)
  let sched := b + cfgSched f b
  let deflt := f.zero (b + 0x70) 32
  let s := { s with
    sesCtl := w 0x20 &&& 0x1FFFFF#32
    sup := { s.sup with
      cfg := w 0x24
      pon := if prog.getLsbD 0 then cfgProg f b false else Sup.ponDefault
      poff := if prog.getLsbD 1 then cfgProg f b true else Sup.poffDefault
      rails := (List.range 8).foldl (fun (m : Tab Rail) x => Tab.upd {} m x fun r => { r with cfg := cfgRail f b x }) s.sup.rails }
    ports := (List.range 16).foldl (fun (m : Tab Port) p => Tab.upd {} m p fun q =>
      { q with ctl := w (0x100 + 8 * p) &&& 0x000FFF7D#32, rto := BitVec.ofNat 16 (f.le (b + 0x104 + 8 * p) 2) }) s.ports
    evt := { s.evt with route := (List.range 288).foldl (fun (m : Tab Route) n =>
      let e := f.at (b + 0x300 + n)
      Tab.put {} m n { irq := e.getLsbD 0, smb := e.getLsbD 1, frame := e.extractLsb' 2 2 }) [] }
    cfg := { s.cfg with
      baseMac := BitVec.ofNat 48 (cfgMac f b), etherType := BitVec.ofNat 16 (cfgEther f b), schedAt := sched
      quota := BitVec.ofNat 256 (ofLe (beBytes 32 (sha256 (f.bytes (b + 0x200) 256)).toNat))
      digest := sha256 (schStore f sched), nextKey := BitVec.ofNat 256 (f.le (b + 0x50) 32)
      cert := BitVec.ofNat 64 (f.le (schCert f sched + 0x10) 8)
      creds := (List.range (cfgCreds f b)).foldl (fun (m : Tab (Option Cred)) i =>
        let a := cfgCred f b i
        Tab.put none m (f.at a).toNat (some (imageCred f a))) []
      thm := if deflt then 0x5F62575A else w 0x70, thm2 := if deflt then 0x00031069 else w 0x74 &&& 0x00FFFFFF#32 } }
  s.fitted.foldl (fun s t =>
    let s := s.modAdm t fun a => { a with
      scfg := (List.range 64).foldl (fun (m : Tab Word) x => Tab.put 0 m x (w (0x200 + 4 * x))) [] }
    s.modXlt t fun a => { a with gccfg := w 0x28 }) s

/-- The check of one slot's configuration image, as CFG_SLOT reports it. -/
def State.readSlot (s : State) (f : Flash) (b : Bool) : State :=
  if (if b then s.cfg.exclB else s.cfg.exclA) then s
  else
    let code := s.cfgCheck f (slotBase b)
    let seq := if 0x40 ≤ code ∧ code ≤ 0x42 then 0#32 else BitVec.ofNat 32 (cfgSeq f (slotBase b))
    let c := BitVec.ofNat 8 code
    let s := { s with cfg :=
      if b then { s.cfg with codeB := c, readB := true, candB := decide (code = 0), seqB := seq }
      else { s.cfg with codeA := c, readA := true, candA := decide (code = 0), seqA := seq } }
    if code = 0 then s else s.raise 6 (fld 0 (bit 0 b) ||| fld 8 code)

/-- Whether a slot may be chosen. -/
def Cfg.mayUse (c : Cfg) (b : Bool) : Bool := if b then !c.exclB && c.candB else !c.exclA && c.candA

/-- The rule of R368: the slot chosen, and whether the choice is a tie; `none` for CONFIG_FAIL. -/
def State.chooseSlot (s : State) (f : Flash) : Option (Bool × Bool) :=
  let c := s.cfg
  match c.mayUse false, c.mayUse true with
  | false, false => none
  | true, false => some (false, false)
  | false, true => some (true, false)
  | true, true =>
    if c.seqA ≠ c.seqB then some (decide (c.seqA.toNat < c.seqB.toNat), false)
    else
      let n := cfgLen f 0
      some (false, !(decide (n = cfgLen f 0x800000) && (List.range n).all fun i => decide (f.at i = f.at (0x800000 + i))))

/-- CONFIGURATION_READ: step 3 of Table 13.7. -/
def State.configRead (s : State) (f : Flash) : State :=
  if s.sup.startsUp = false ∨ s.boot.vgpio = false ∨ s.bankUp = false ∨ s.boot.config = true ∨ s.clk.refHold = true ∨ s.cfg.st = .fail ∨ s.clk.warmReq.isSome = true then s
  else
    let s := { s with cfg := { s.cfg with
      sfdp := if f.bfpt then BitVec.ofNat 32 (f.sfdpMinor.toNat + f.sfdpMajor.toNat * 2 ^ 8 + min 100 f.maxMhz % 256 * 2 ^ 16 + f.densityLog2 % 256 * 2 ^ 24) else 0 } }
    let s := (s.readSlot f false).readSlot f true
    match s.chooseSlot f with
    | none => { s with cfg := { s.cfg with st := .fail }, sup := { s.sup with st := .standby } }
    | some (b, tie) =>
      let s := if tie then (({ s with cfg := { s.cfg with tie := true } } : State).raise 7 (fld 0 (bit 0 b))) else s
      let s := { s with cfg := { s.cfg with slotB := b, st := .slotPhase } }
      let base := slotBase b
      match s.schSlotCheck f base (base + cfgSched f base) (cfgKey f base) with
      | 0 =>
        let s := s.loadConfig f b
        let s := { s with cfg := { s.cfg with st := .tilePhase }, boot := { s.boot with config := true } }
        (s.mile 1).startOn
      | code => s.refuseSlot b code {}

/-- CFG_CTL.RETRY (R369). -/
def State.retryConfig (s : State) : State :=
  if s.cfg.st = .fail then
    ({ s with cfg := { s.cfg with exclA := false, exclB := false } } : State).askWarm 4
  else s

/-! ### The tile phase (step 6; R253 to R259, R371) -/

/-- The schedule store of a tile is filled from an image, and the values of Table 9.6 are set; advances of the drift clock that
fell due during the reset are applied (R206). -/
def State.fillStore (s : State) (t : TileId) (f : Flash) : State :=
  let o := s.cfg.schedAt
  let c := schCert f o
  let words := (schPresent f o).foldl (fun (m : Tab Word) v =>
    (List.range (512 * schCount f o v)).foldl (fun (m : Tab Word) i =>
      Tab.put 0 m ((256 * v + i / 512) * 512 + i % 512) (schTWord f o v (i / 512) (i % 512))) m) []
  let seqs := (schPresent f o).foldl (fun (m : Tab Byte) v =>
    (List.range 1024).foldl (fun (m : Tab Byte) n => Tab.put 0 m (1024 * v + n) (BitVec.ofNat 8 (schSeq f o v n))) m) []
  let depth := f.le (c + 0x64) 4
  let s := s.modTile t fun T => { T with
    sch := { T.sch with
      words, seqs, present := BitVec.ofNat 4 (schVariants f o), badWords := []
      dlim := (List.range 8).foldl (fun (m : Tab Word) i => Tab.put 0 m i (BitVec.ofNat 32 (f.le (c + 0x80 + 4 * i) 4))) [] }
    adm := { T.adm with rate := f.le (c + 0x60) 2, depth, level := depth }
    med := { T.med with
      weights := (List.range 64).foldl (fun (m : Tab (BitVec 16)) i =>
        Tab.put 0 m i (BitVec.ofNat 16 (f.le (o + schDrift f o + 2 * i) 2))) []
      epochs := BitVec.ofNat 16 (f.le (c + 0x74) 2), surveySf := f.le (c + 0x76) 2, rekeyPace := f.le (c + 0x78) 4 }
    ctl := { T.ctl with loaded := true } }
  s.driftDue t

/-- Tiles that the schedule image is sent to: those whose domains are on. -/
def State.toLoad (s : State) : List TileId :=
  s.fitted.filter fun t => s.coreOn t && s.sramOn t && !(s.tile t).ctl.loaded && decide ((s.tile t).ctl.st ≠ .out)

/-- The tile phase is over: every fitted tile has its schedule or is kept out, and a tile that the power sequence has left without its
domains gets none (R253, R256). -/
def State.phaseEnds (s : State) : Bool :=
  s.fitted.all fun t => (s.tile t).ctl.loaded || decide ((s.tile t).ctl.st = .out) || (s.boot.onProg && !(s.coreOn t && s.sramOn t))

/-- A tile's stored copy fails READBACK: a tile fault reset and a second filling, then the tile stays out (R256). -/
def State.readbackFails (s : State) (t : TileId) : State :=
  if (s.tile t).ctl.readback then
    (s.modCtl t fun c => { c with st := .out, stopCause := 5 }).raise (tsrc t 3) 6
  else (s.modCtl t fun c => { c with readback := true }).tileFault t 3

/-- TILE_PHASE_LOAD: step 6 of Table 13.7. `bad` names the tiles whose store reads back wrong. -/
def State.tilePhase (s : State) (f : Flash) (bad : Byte) : State :=
  let ts := s.toLoad
  if s.meshOn = false ∨ (s.cfg.st ≠ .tilePhase ∧ s.cfg.st ≠ .loaded) ∨ s.clk.refHold = true ∨ s.bankUp = false ∨ s.clk.warmReq.isSome = true then s
  else
    let fails := fun (t : TileId) => bad.getLsbD t.val || decide (sha256 (schStore f s.cfg.schedAt) ≠ s.cfg.digest)
    let s := (ts.filter fails).foldl (fun s t => s.readbackFails t) s
    let good := ts.filter fun t => !fails t
    match (if good = [] then none else s.schTileCheck f s.cfg.schedAt) with
    | some (code, l) => s.refuseSlot s.cfg.slotB code l
    | none =>
      let s := good.foldl (fun s t => s.fillStore t f) s
      if s.phaseEnds = true ∧ s.cfg.st = .tilePhase then
        let s := { s with cfg := { s.cfg with st := .loaded } }
        let h := s.cfg.nextKey
        if h ≠ 0 ∧ h ≠ s.ldg.ikey then s.commit baseIkey (.ikey h) [.ikeySet h] else s
      else s

/-! ### The tables (step 5) -/

/-- The credential of a session: from the image, or from the ledger where the image has none (R77). DESIGN CHOICE (log 158): an entry
whose commit a warm reset finds pending is loaded as it is being committed. -/
def State.credLoaded (s : State) (x : SessId) : Cred := match Tab.get none s.cfg.creds x.val with
  | some c => c
  | none => match s.ldg.latest (baseCred x.val) with
    | some (.cred enable v1ok rd wr key) => { enable, v1ok, rd, wr, key }
    | _ => {}

/-- Steps of an open journal: the JSTEP records that carry its head's number, in order (R376). -/
def State.stepsOf (s : State) (r : RegionId) (id : Word) : List Step :=
  ((List.range 16).map fun k => match s.ldg.latest (baseJstep r.val k) with
    | some (.jstep p i) => if i = id then some p else none
    | _ => none).takeWhile Option.isSome |>.filterMap fun p => p

/-- A region as the ledger holds it, with its journal broken by the reset where one is open (R122, R266). -/
def State.rgnLoaded (s : State) (r : RegionId) : Region :=
  let g : Region := match s.ldg.latest (baseRegion r.val) with
    | some b => ({} : Region).recalled b
    | none => {}
  let g := { g with pass := (if g.cur then g.slot0 else g.slot1).isSome && decide (g.st ≠ .zeroizing), passSf := s.sf }
  match s.ldg.latest (baseJhead r.val) with
  | some (.jhead true holder epoch _ finished id) =>
    { g with held := true, holder, hepoch := epoch, resolving := some 3, steps := s.stepsOf r id, finished, jid := id }
  | _ => g

/-- The trouble record as the ledger holds it. -/
def Ledger.troubles (l : Ledger) : Tab Trouble :=
  (List.range 36).foldl (fun (m : Tab Trouble) j => match l.value (baseTrouble j) with
    | some (.trouble es) => es.zipIdx.foldl (fun (m : Tab Trouble) e => Tab.put {} m (8 * j + e.2) e.1) m
    | _ => m) []

/-- The lost ranges of a tile as the ledger holds them (R290). -/
def Ledger.losts (l : Ledger) (t : TileId) : Tab (Option LostR) :=
  (List.range 64).foldl (fun (m : Tab (Option LostR)) i => match l.latest (baseLost t.val i) with
    | some (.lost first level cause true regions) => Tab.put none m i (some { first, level, cause, regions, live := true })
    | _ => m) []

/-- MESH_TABLE_LOAD: step 5 of Table 13.7. Events that occurred before are raised now (R32). -/
def State.tablesLoad (s : State) : State :=
  if s.meshOn = false ∨ s.boot.config = false ∨ s.boot.tables = true ∨ s.clk.refHold = true then s
  else
    let early := s.evt.early
    let s := { s with
      creds := (List.finRange 64).foldl (fun (m : Tab Cred) (x : SessId) => Tab.put {} m x.val (s.credLoaded x)) []
      rgns := (List.finRange 16).foldl (fun (m : Tab Region) (r : RegionId) => Tab.put {} m r.val (s.rgnLoaded r)) []
      evt := { s.evt with loaded := true, early := [], trb := if s.boot.cold then s.ldg.troubles else s.evt.trb }
      boot := { s.boot with tables := true, cold := false } }
    let s := s.fitted.foldl (fun s t => s.modSec t fun a => { a with lost := s.ldg.losts t }) s
    early.foldl (fun s e => s.raise e.1 e.2.1 e.2.2) s

/-! ### Engine start (steps 7 and 8) -/

/-- MEDIUM_INITIALISATION: step 7. -/
def State.medStart (s : State) (t : TileId) (m : MedInit) : State :=
  if s.hasTile t = false ∨ s.mioOn t = false ∨ s.coreOn t = false ∨ s.boot.onProg = false ∨ s.clk.refHold = true ∨ (s.tile t).ctl.medInit = true then s
  else (s.initMedium t m).mile 3

/-- ENGINE_START: step 8. The engine starts at the next superframe boundary (R219, R246, Table 13.7). -/
def State.engineStart (s : State) (t : TileId) : State :=
  let c := (s.tile t).ctl
  if c.loaded ∧ c.medInit ∧ c.st = .starting ∧ (s.tile t).sch.run = false ∧ s.coreOn t ∧ s.sramOn t ∧ s.mioOn t ∧ s.clk.refHold = false then
    s.modSch t fun a => { a with startDue := true, haltDue := false }
  else s

end Sys2Proof.Machine
end

