-- ==== Sys2Proof/Machine/Thermal.lean ====
section
/-! DEFINITION. Thermal supervision: the housekeeping round, the thermal states, the thermal and sensor stops and their end
(R206, R382 to R391). Temperatures are in units of 0.25 °C. -/

namespace Sys2Proof.Machine

/-- The thresholds and rounds of Table 15.2, as THM_PARAM and THM_PARAM2 hold them. -/
def Cfg.warmSet (c : Cfg) : Int := 4 * Int.ofNat (c.thm.toNat % 256)
def Cfg.warmClr (c : Cfg) : Int := 4 * Int.ofNat (c.thm.toNat / 2 ^ 8 % 256)
def Cfg.hotSet (c : Cfg) : Int := 4 * Int.ofNat (c.thm.toNat / 2 ^ 16 % 256)
def Cfg.hotClr (c : Cfg) : Int := 4 * Int.ofNat (c.thm.toNat / 2 ^ 24)
def Cfg.tooHot (c : Cfg) : Int := 4 * Int.ofNat (c.thm2.toNat % 256)
def Cfg.fallRounds (c : Cfg) : Nat := c.thm2.toNat / 2 ^ 8 % 256
def Cfg.invalidRounds (c : Cfg) : Nat := c.thm2.toNat / 2 ^ 16 % 256

/-- A reading as a field of 11 bits, signed. -/
def tempField (q : Int) : Nat := (q % 2048).toNat
/-- The detail of THM_WARM and THM_HOT: the reading, and whether it is an entry (Table 15.4). -/
def thmDetail (q : Int) (entry : Bool) : BitVec 64 := fld 0 (tempField q) ||| fld 16 (bit 0 entry)

/-- A converted value, or the kind of fault: 1 open, 2 shorted, 3 out of range (R382). -/
def diodeReads : DiodeConv → Int ⊕ BitVec 2
  | .openDiode => .inr 1
  | .shorted => .inr 2
  | .value q => if -160 ≤ q ∧ q ≤ 600 then .inl q else .inr 3

/-- A valid reading raises the state at once (R384). -/
def State.thmRise (s : State) (t : TileId) (q : Int) : State :=
  let st := (s.thmT t).st
  if st = .tooHot then s
  else
    let warm := decide (st = .normal ∧ (s.cfg.warmSet ≤ q ∨ s.cfg.hotSet ≤ q))
    let hot := decide (st ≠ .hot ∧ s.cfg.hotSet ≤ q)
    let s := if warm then (s.modThm t fun h => { h with st := .warm }).raise (tsrc t 18) (thmDetail q true) else s
    if hot then (s.modThm t fun h => { h with st := .hot }).raise (tsrc t 19) (thmDetail q true) else s

/-- The tile's housekeeping domain runs (R345, R348): without it nothing of this chapter acts on the tile (R383). -/
def State.thmLive (s : State) (t : TileId) : Bool := s.hasTile t && s.coreOn t && !s.clk.refHold

/-- HOUSEKEEPING_ROUND (R206, R382 to R384). -/
def State.round (s : State) (t : TileId) (d : DiodeConv) (rails : List (BitVec 12)) : State :=
  if s.thmLive t = false then s
  else
    let s := s.modThm t fun h => { h with
      rails := (List.range 12).foldl (fun (m : Tab (BitVec 12)) i => Tab.put 0 m i (rails.getD i 0)) [] }
    match diodeReads d with
    | .inr k => s.modThm t fun h => { h with
        valid := false, kind := k, tinv := min 65535 (h.tinv + 1), badRun := min 255 (h.badRun + 1)
        badHold := h.badHold || h.hold, last := (none :: h.last).take 255 }
    | .inl q =>
      let s := s.modThm t fun h => { h with
        temp := q, valid := true, tmax := if h.tmaxSet then max h.tmax q else q, tmaxSet := true, badRun := 0
        hotRun := if s.cfg.tooHot ≤ q then min 255 (h.hotRun + 1) else 0
        last := (some q :: h.last).take 255, valids := (q :: h.valids).take 255 }
      let w := s.weight t q
      let inReset := !(s.tile t).ctl.loaded || decide ((s.tile t).ctl.st = .faultReset)
      let s := if inReset then s.modMed t fun a => { a with dcDue := a.dcDue + w }
        else
          s.drift t w
      s.thmRise t q

/-- The last `n` valid readings all lie below `x`. -/
def Thm.below (h : Thm) (n : Nat) (x : Int) : Bool := decide (n ≤ h.valids.length) && (h.valids.take n).all fun q => decide (q < x)

/-- THERMAL_STATE_FALL (R384, R387). -/
def State.thmFall (s : State) (t : TileId) : State :=
  if s.thmLive t = false then s else
  let h := s.thmT t
  let n := s.cfg.fallRounds
  let cool := h.below n s.cfg.warmClr
  match h.st with
  | .hot =>
    if h.below n s.cfg.hotClr then
      let s := (s.modThm t fun h => { h with st := if cool then .normal else .warm }).raise (tsrc t 19) (thmDetail h.temp false) (bit := false)
      if cool then s.raise (tsrc t 18) (thmDetail h.temp false) else s
    else s
  | .warm =>
    if cool then (s.modThm t fun h => { h with st := .normal }).raise (tsrc t 18) (thmDetail h.temp false) else s
  | _ => s

/-- The drain of a tile that stops alone (R388, R391): one that is being drained goes on with it. One whose domains are not all ON, or
whose keys are not yet loaded, cannot drain: it is stopped, and what its record says stands (log 154). -/
def State.soloDrain (s : State) (t : TileId) (cause : BitVec 4) : State :=
  let busy := decide (s.sup.st = .stopping ∨ s.sup.st = .draining ∨ s.sup.st = .recovering)
  let s := if busy then s else s.modSup fun u => { u with drainSeen := u.drainSeen.filter fun q => decide (q ≠ t) }
  let s := s.modCtl t fun c => { c with stopCause := cause }
  let c := (s.tile t).ctl
  if c.draining ∨ c.st = .out ∨ c.st = .stopped then s
  else if s.fullyOn t && s.mayTakeUp t then s.drainTile t
  else
    let s := (s.stopPorts t).quiesce t
    let s := (s.dropLogic t).modCtl t fun c => { c with st := .stopped, packing := false, replayDue := false, admDue := false }
    s.modSch t fun a => { a with startDue := false, haltDue := false }

/-- THERMAL_STOP (R384, R388). -/
def State.thermalStop (s : State) (t : TileId) : State :=
  let h := s.thmT t
  if h.hold = false ∧ 2 ≤ h.hotRun ∧ s.thmLive t = true then
    let s := s.modThm t fun h => { h with st := .tooHot, hold := true, holdCause := 1 }
    let s := s.raise (tsrc t 20) (fld 0 (tempField h.temp))
    s.soloDrain t 2
  else s

/-- SENSOR_STOP (R388). -/
def State.sensorStop (s : State) (t : TileId) : State :=
  let h := s.thmT t
  if h.hold = false ∧ 0 < h.badRun ∧ s.cfg.invalidRounds ≤ h.badRun ∧ s.thmLive t = true then
    let s := s.modThm t fun h => { h with st := .tooHot, hold := true, holdCause := 2, badHold := true }
    let s := s.raise (tsrc t 21) (fld 16 h.kind.toNat)
    s.soloDrain t 3
  else s

/-- THM_CTL.RESUME of one tile (R390). -/
def State.resume1 (s : State) (t : TileId) : State :=
  let h := s.thmT t
  let n := s.cfg.fallRounds
  let last := h.last.take n
  let ok := decide (n ≤ h.last.length) && last.all fun q => match q with | some q => decide (q < s.cfg.hotClr) | none => false
  if h.hold = false then s
  else if ok then
    let cool := last.all fun q => match q with | some q => decide (q < s.cfg.warmClr) | none => false
    let s := s.modThm t fun h => { h with hold := false, holdCause := 0, st := if cool then .normal else .warm, hotRun := 0, badRun := 0 }
    let s := s.raise (tsrc t 19) (thmDetail h.temp false) (bit := false)
    let s := if cool then s.raise (tsrc t 18) (thmDetail h.temp false) else s
    if (s.tile t).ctl.enable then
      match (s.tile t).ctl.st with
      | .stopped => s.restartTile t
      | .stopping => s.modCtl t fun c => { c with pendEn := true }
      | _ => s
    else s
  else s.modThm t fun h => { h with refused := min 255 (h.refused + 1) }

/-- RESUME. -/
def State.resumeAll (s : State) (mask : Byte) : State :=
  s.fitted.foldl (fun s t => if mask.getLsbD t.val then s.resume1 t else s) s

/-- MAX_CLR. -/
def State.maxClr (s : State) (mask : Byte) : State :=
  s.fitted.foldl (fun s t => if mask.getLsbD t.val then s.modThm t fun h => { h with tmax := 0, tmaxSet := false } else s) s

/-- THERMTRIP_N is asserted while any tile holds a stop (R389). -/
def State.thermtrip (s : State) : Bool := s.fitted.any fun t => (s.thmT t).hold

end Sys2Proof.Machine
end

