-- ==== Sys2Proof/Machine/Regs.lean ====
section
/-! DEFINITION. The management address map, the clock domains of registers and the value each register reads (R2, R11 to R15,
R345, R346, R381, R394 to R396, and the register tables of every chapter). -/

namespace Sys2Proof.Machine

/-! ### The address map (Tables 16.2 and 16.3) -/

/-- A block of the map. -/
inductive Block where
  | dev | sup | clk | thm | evt | cfg | dbg | ldg | ses | rgn
  | tctl (t : TileId)
  | port (p : PortId)
  | adm (t : TileId)
  | xlt (t : TileId)
  | med (t : TileId)
  | sch (t : TileId)
  | sec (t : TileId)
  | pmc (t : TileId)
  | ecc (t : TileId)
  deriving DecidableEq, Repr

/-- The block of an address and the offset in it; `none` where the address is unmapped (R394). -/
def blockOf (a : Nat) : Option (Block × Nat) :=
  if a < 0x10000 then some (.dev, a)
  else if a < 0x20000 then some (.sup, a - 0x10000)
  else if a < 0x30000 then some (.clk, a - 0x20000)
  else if a < 0x40000 then some (.thm, a - 0x30000)
  else if a < 0x50000 then some (.evt, a - 0x40000)
  else if a < 0x60000 then some (.cfg, a - 0x50000)
  else if a < 0x70000 then some (.dbg, a - 0x60000)
  else if a < 0x80000 then none
  else if a < 0x100000 then some (.ldg, a - 0x80000)
  else if a < 0x110000 then some (.ses, a - 0x100000)
  else if a < 0x120000 then some (.rgn, a - 0x110000)
  else if a < 0x1000000 ∨ 0x1800000 ≤ a then none
  else
    let t : TileId := ⟨a / 0x100000 % 8, Nat.mod_lt _ (by decide)⟩
    let o := a % 0x100000
    if o < 0x10000 then some (.tctl t, o)
    else if o < 0x18000 then some (.port ⟨2 * t.val, by omega⟩, o - 0x10000)
    else if o < 0x20000 then some (.port ⟨2 * t.val + 1, by omega⟩, o - 0x18000)
    else if o < 0x30000 then some (.adm t, o - 0x20000)
    else if o < 0x40000 then some (.xlt t, o - 0x30000)
    else if o < 0x50000 then some (.med t, o - 0x40000)
    else if o < 0x60000 then some (.sch t, o - 0x50000)
    else if o < 0x70000 then some (.sec t, o - 0x60000)
    else if o < 0x80000 then some (.pmc t, o - 0x70000)
    else if o < 0x90000 then some (.ecc t, o - 0x80000)
    else none

/-- The tile of a tile block. -/
def Block.tile : Block → Option TileId
  | .tctl t => some t
  | .port p => some (portTile p)
  | .adm t => some t
  | .xlt t => some t
  | .med t => some t
  | .sch t => some t
  | .sec t => some t
  | .pmc t => some t
  | .ecc t => some t
  | _ => none

/-- A block that is fitted: the blocks of other tiles read as RSV (R2). -/
def State.blockFitted (s : State) (b : Block) : Bool := match b.tile with
  | some t => s.hasTile t
  | none => true

/-! ### Clock domains (Table 13.2) -/

/-- Domain j of tile t. -/
def tileClk (t : TileId) (j : Nat) : Nat := 2 + 29 * t.val + j

/-- The first lane of link `j` of a port (Table 2.1). -/
def State.firstLane (s : State) (p : PortId) (j : Nat) : Nat := j * (8 / modeLinks (s.port p).run) % 8

/-- The clock domain of a register (Table 16.3, R345). -/
def State.regDom (s : State) (b : Block) (o : Nat) : Nat := match b with
  | .sup => 0
  | .clk => 0
  | .thm => 0
  | .cfg => 0
  | .ldg => 0
  | .tctl t => tileClk t 28
  | .port p =>
    if o = 0x10 then tileClk (portTile p) (9 + 8 * (p.val % 2))
    else if 0x100 ≤ o ∧ o < 0x200 then tileClk (portTile p) (9 + 8 * (p.val % 2) + s.firstLane p ((o - 0x100) / 0x40))
    else tileClk (portTile p) (25 + p.val % 2)
  | .med t => if o < 0x8000 then tileClk t (1 + o / 0x1000) else tileClk t 0
  | .adm t => tileClk t 0
  | .xlt t => tileClk t 0
  | .sch t => tileClk t 0
  | .sec t => tileClk t 0
  | .pmc t => tileClk t 0
  | .ecc t => tileClk t 0
  | _ => tileClk 0 27

/-- The registers of the blocks outside the AON domain (Table 16.3, and the register tables): base, stride, number and bytes of each
run. -/
def Block.runs : Block → List (Nat × Nat × Nat × Nat)
  | .dev => [(0, 4, 5, 4)]
  | .evt => [(0, 4, 3, 4), (0x100, 4, 9, 4), (0x1000, 4, 288, 4), (0x2000, 16, 288, 12)]
  | .dbg => [(0, 4, 4, 4), (0x1000, 4, 1024, 4)]
  | .ses => [(0, 4, 3, 4), (0x20, 4, 8, 4), (0x100, 4, 64, 4), (0x1000, 0x40, 64, 8), (0x1020, 0x40, 64, 0x20), (0x2000, 0x20, 64, 0x1C)]
  | .rgn => [(0, 4, 1, 4), (0x100, 0x20, 16, 0x18)]
  | .tctl _ => [(0, 4, 5, 4)]
  | .port _ => [(0, 4, 6, 4), (0x100, 0x40, 4, 0x20)]
  | .adm _ => [(0, 4, 6, 4), (0x20, 4, 7, 4), (0x400, 16, 64, 16)]
  | .xlt _ => [(0, 4, 13, 4), (0x40, 4, 10, 4)]
  | .med _ => [(0, 0x1000, 8, 4), (0x10, 0x1000, 8, 0x20), (0x40, 0x1000, 8, 0x40), (0xF0, 0x1000, 8, 4), (0x100, 0x1000, 8, 0x20),
      (0x8000, 4, 7, 4), (0x8040, 4, 8, 4), (0x8100, 4, 16, 4)]
  | .sch _ => [(0, 4, 8, 4), (0x40, 4, 10, 4), (0x100, 8, 8, 8)]
  | .sec _ => [(0, 4, 6, 4), (0x40, 4, 8, 4), (0x100, 8, 64, 8)]
  | .pmc _ => [(0, 4, 6, 4), (0x20, 4, 4, 4), (0x100, 4, 64, 4), (0x200, 8, 64, 8)]
  | .ecc _ => [(0, 4, 2, 4), (0x40, 8, 16, 8)]
  | _ => []

/-- The loader drives the flash's bus: during steps 3 and 6 of Table 13.7 (R363), CFG_STS.SPI_BUSY. -/
def State.spiBusy (s : State) : Bool :=
  !s.clk.refHold && s.clk.warmReq.isNone && s.bankUp &&
  match s.cfg.st with
  | .discovery => s.sup.startsUp
  | .slotPhase => true
  | .tilePhase => s.meshOn && decide (s.toLoad ≠ [])
  | .loaded => s.meshOn && decide (s.toLoad ≠ [])
  | _ => false

/-- Whether clock domain `i` runs (Table 13.2, R348, R396). -/
def State.domRuns (s : State) (i : Nat) : Bool :=
  if i = 0 then !s.ldg.recalling
  else if i = 1 then s.spiBusy
  else
    let t : TileId := ⟨(i - 2) / 29 % 8, Nat.mod_lt _ (by decide)⟩
    let j := (i - 2) % 29
    let rx := fun (q : Nat) =>
      let p : PortId := ⟨(2 * t.val + q) % 16, Nat.mod_lt _ (by decide)⟩
      s.portOn t && (((s.port p).enable && !(s.port p).rxOff) || s.portStopping p)
    s.hasTile t && !s.clk.refHold && decide (i < 234) &&
      (if j = 0 then s.coreOn t && !s.gated (8 * t.val)
       else if j < 9 then s.mioOn t && !s.gated (8 * t.val + 1)
       else if j < 17 then rx 0
       else if j < 25 then rx 1
       else if j < 27 then s.portOn t && !s.gated (8 * t.val + 3 + (j - 25))
       else if j = 27 then s.coreOn t && s.meshOn && !s.gated (8 * t.val + 2)
       else s.coreOn t)

/-- A block of the MESH domain, which stays gated while the device is in CONFIG_FAIL (R369, R396). -/
def Block.mesh : Block → Bool
  | .dev => true
  | .evt => true
  | .dbg => true
  | .ses => true
  | .rgn => true
  | _ => false

/-- The clock of a register's block runs (R345, R369, R396). -/
def State.regRuns (s : State) (b : Block) (o : Nat) : Bool :=
  s.domRuns (s.regDom b o) && !(b.mesh && decide (s.cfg.st = .fail))

/-- Whether clock domain `i` is held in reset: loss of REFCLK holds the device in warm reset (R348). -/
def State.domReset (s : State) (i : Nat) : Bool := s.clk.refHold && decide (2 ≤ i ∧ i < 234)

/-! ### Values -/

/-- Fields put in their places: value, lowest bit. -/
def pack (l : List (Nat × Nat)) : Word := BitVec.ofNat 32 (l.map fun e => e.1 * 2 ^ e.2).sum

/-- The lower and upper half of a 64-bit value. -/
def lo32 (v : Nat) : Word := BitVec.ofNat 32 v
def hi32 (v : Nat) : Word := BitVec.ofNat 32 (v / 2 ^ 32)

/-- Index and offset of a register in an array at `base` of `n` entries `stride` apart. -/
def arr (o base stride n : Nat) : Option (Nat × Nat) :=
  if base ≤ o ∧ o < base + stride * n then some ((o - base) / stride, (o - base) % stride) else none

/-- An offset of a block outside the AON domain names a register (Table 16.3); elsewhere it reads as RSV (R394). -/
def Block.names (b : Block) (o : Nat) : Bool :=
  b.runs.any fun e => match arr o e.1 e.2.1 e.2.2.1 with | some (_, q) => decide (q < e.2.2.2) | none => false

/-- DEV block. -/
def State.devReg (s : State) (o : Nat) : Word := match o with
  | 0x0 => pack [(match s.part with | .gx880 => 0x880 | .gx840 => 0x840 | .gx820 => 0x820, 0), (2 ^ s.part.tiles - 1, 16), (s.stepping.toNat, 24), (8, 28)]
  | 0x4 => pack [(2, 0), (1, 4), (1, 8), (1, 12)]
  | 0xC => pack [((s.fitted.map fun t => bit t.val (s.inService t)).sum, 0), (bit 0 s.cfg.slotB, 8)]
  | 0x10 => s.scratch
  | _ => 0

/-- SUP block. -/
def State.supReg (s : State) (o : Nat) : Word :=
  let u := s.sup
  if o = 0x4 then pack [(u.st.code, 0), (bit 0 u.pendOn, 4), (bit 0 u.pwrfail, 5), (bit 0 (u.running && u.progOff), 6), (u.pc % 64, 8), (u.mark.toNat, 16)]
  else if o = 0x8 then u.cfg &&& 0xFFFF7FFF#32
  else if o = 0x80 then pack [(s.ldg.done.toNat, 0), (u.unclean.toNat, 8), (bit 0 u.clean, 16), (min u.lastUs 4095, 20)]
  else match arr o 0x10 4 8, arr o 0x30 4 8, arr o 0x50 4 8 with
    | some (x, _), _, _ =>
      let r := Tab.get {} u.rails x
      pack [(r.st.code, 0), (bit 0 r.en, 2), (bit 0 r.pg, 3), (bit 0 r.forced, 4), (r.tries % 8, 5), (r.trans.toNat, 8)]
    | _, some (x, _), _ => (Tab.get {} u.rails x).cfg &&& 0x3FFF1FFF#32
    | _, _, some (x, _) => pack [((Tab.get {} u.rails x).glitch, 0), ((Tab.get {} u.rails x).faults, 16)]
    | _, _, _ => match arr o 0x100 4 34, arr o 0x200 4 64, arr o 0x300 4 64 with
      | some (d, _), _, _ =>
        let x := Tab.get {} u.doms d
        pack [(x.st.code, 0), (bit 0 x.pendEn, 2), (bit 0 x.failed, 3)]
      | _, some (i, _), _ => u.pon.getD i 0
      | _, _, some (i, _) => u.poff.getD i 0
      | _, _, _ => 0

/-- CLK block. -/
def State.clkReg (s : State) (o : Nat) : Word :=
  let c := s.clk
  match o with
  | 0x0 => pack [(bit 0 c.refOk, 0), (bit 0 c.refLost, 1), (bit 0 c.lastWarm, 4), (c.warmCause.toNat, 5)]
  | 0x8 => pack [(bit 0 c.smb.isSome, 0), (bit 0 c.ib.isSome, 1), (bit 0 c.unsettled, 2), (c.smbDom, 8), (c.ibDom, 16)]
  | 0xC => c.xaddr
  | 0x10 => c.paddr0
  | 0x14 => c.paddr1
  | _ => match arr o 0x100 4 64, arr o 0x400 4 234, arr o 0x800 4 8 with
    | some (g, _), _, _ =>
      let d := s.genDom g
      pack [(bit 0 (decide (d ≠ .off)), 0), (bit 0 (s.locked g), 1), (Tab.get 0 c.losses g, 8)]
    | _, some (i, _), _ => pack [(bit 0 (s.domRuns i), 0), (bit 0 (s.domReset i), 1)]
    | _, _, some (m, _) => Tab.get 0xFFFFFFFF c.tl m
    | _, _, _ => 0

/-- THM block. -/
def State.thmReg (s : State) (o : Nat) : Word := match o with
  | 0x4 => pack [(bit 0 s.thermtrip, 0), ((s.fitted.map fun t => bit t.val (s.thmT t).hold).sum, 8)]
  | 0x8 => s.cfg.thm
  | 0xC => s.cfg.thm2 &&& 0x000FFFFF#32
  | _ => match arr o 0x100 0x20 8, arr o 0x400 0x40 8 with
    | some (t, q), _ =>
      let h : Thm := Tab.get {} s.thm t
      match q with
      | 0 => pack [(tempField h.temp, 0), (bit 0 h.valid, 11), (h.st.code, 12), (bit 0 h.hold, 14), (h.holdCause.toNat, 15), (h.kind.toNat, 17), (h.refused, 19)]
      | 4 => pack [(tempField h.tmax, 0)]
      | 8 => pack [(h.tinv, 0)]
      | _ => 0
    | _, some (t, q) => if q < 48 then (Tab.get 0 (Tab.get {} s.thm t : Thm).rails (q / 4)).setWidth 32 else 0
    | _, _ => 0

/-- EVT block. -/
def State.evtReg (s : State) (o : Nat) : Word := match o with
  | 0x0 => pack [(bit 0 s.irq, 0), (bit 0 s.alert, 1), (bit 0 (decide (s.evt.dirty ≠ [])), 2)]
  | 0x8 => s.evt.mecc
  | _ => match arr o 0x100 4 9, arr o 0x1000 4 288, arr o 0x2000 0x10 288 with
    | some (k, _), _, _ => BitVec.ofNat 32 ((List.range 32).map fun j => bit j (s.evt.pend.contains (32 * k + j))).sum
    | _, some (n, _), _ =>
      let r := Tab.get {} s.evt.route n
      pack [(bit 0 r.irq, 0), (bit 0 r.smb, 1), (r.frame.toNat, 2), (bit 0 (isFault n), 4), (bit 0 (isLimited n), 5)]
    | _, _, some (n, q) =>
      let e := Tab.get {} s.evt.trb n
      match q with
      | 0 => pack [(e.count, 0), (bit 0 e.set, 16)]
      | 4 => lo32 e.firstSf.toNat
      | 8 => pack [(e.firstSf.toNat / 2 ^ 32, 0), (e.boot.toNat, 8)]
      | _ => 0
    | _, _, _ => 0

/-- CFG block. -/
def State.cfgReg (s : State) (o : Nat) : Word :=
  let c := s.cfg
  match o with
  | 0x0 => pack [(c.st.code, 0), (bit 0 c.slotB, 3), (bit 0 c.exclA, 4), (bit 0 c.exclB, 5), (bit 0 c.tie, 6), (bit 0 s.spiBusy, 7), (bit 0 s.ldg.keySet, 8)]
  | 0x10 => pack [(c.codeA.toNat, 0), (bit 0 c.readA, 8), (bit 0 c.candA, 9)]
  | 0x14 => c.seqA
  | 0x18 => pack [(c.codeB.toNat, 0), (bit 0 c.readB, 8), (bit 0 c.candB, 9)]
  | 0x1C => c.seqB
  | 0x20 => c.load
  | 0x24 => c.sfdp
  | 0x28 => lo32 c.cert.toNat
  | 0x2C => hi32 c.cert.toNat
  | _ => 0

/-- DBG block. -/
def State.dbgReg (s : State) (o : Nat) : Word :=
  let d := s.dbg
  match o with
  | 0x0 => pack [(bit 0 d.en, 0), (bit 0 d.locked, 1), (bit 0 d.dmaBusy, 2), (bit 0 d.dmaZero, 3), (d.dapCode.toNat, 8)]
  | 0x4 => pack [(d.dmaTile.val, 2)]
  | 0x8 => d.dmaPage.setWidth 32
  | 0xC => d.maddr.setWidth 32
  | _ => match arr o 0x1000 4 1024 with
    | some (w, _) => Tab.get 0 d.buf w
    | none => 0

/-- LDG window and registers (R381). -/
def State.ldgReg (s : State) (o : Nat) : Word :=
  let l := s.ldg
  if o < 0x7F000 then l.word o
  else match o - 0x7F000 with
    | 0x0 => pack [(bit 0 l.recalling, 0), (bit 0 l.tie, 1), (bit 0 l.torn, 2), (bit 0 l.ctrLost, 3), (bit 0 (l.shut s.now).closed, 4), (min l.queue.length 255, 8)]
    | 0x8 => lo32 l.start.toNat
    | 0xC => hi32 l.start.toNat
    | 0x10 => lo32 l.served.toNat
    | 0x14 => hi32 l.served.toNat
    | 0x18 => l.commits
    | q => match arr q 0x40 4 8 with
      | some (k, _) => l.ikey.extractLsb' (32 * k) 32
      | none => 0

/-- SES_SSTS; the fields of a binding read 0 in a session that has none (log 94). -/
def Sess.ssts (S : Sess) : Word :=
  let bound := decide (S.st = .live) || decide (S.st = .closing)
  pack [(S.st.code, 0), (if bound then S.port.val else 0, 3), (if bound then S.link.val else 0, 7),
    ((match S.tx with | some a => a.an.toNat | none => 0), 9), (bit 0 (bound && S.v1), 11), (bit 0 (bound && S.steward), 12), (S.lastEnd.toNat, 13), (S.epoch.toNat, 16)]

/-- SES block. -/
def State.sesReg (s : State) (o : Nat) : Word :=
  if o = 0 then s.sesCtl
  else match arr o 0x20 4 8, arr o 0x100 4 64 with
    | some (k, _), _ => match s.ldg.ident with
      | some (d, _, _) => (ed25519Public d).extractLsb' (32 * k) 32
      | none => 0
    | _, some (x, _) => (Tab.get {} s.sess x : Sess).ssts
    | _, _ => match arr o 0x1000 0x40 64, arr o 0x2000 0x20 64 with
      | some (x, q), _ =>
        let c : Cred := Tab.get {} s.creds x
        if q = 0 then pack [(bit 0 c.enable, 0), (bit 0 c.steward, 1), (bit 0 c.fromImage, 2), (bit 0 c.v1ok, 3)]
        else if q = 4 then pack [(c.rd.toNat, 0), (c.wr.toNat, 16)]
        else if 0x20 ≤ q then c.key.extractLsb' (8 * (q - 0x20)) 32
        else 0
      | _, some (l, q) =>
        let g : Strg := Tab.get {} s.strg l
        if q < 0x14 then Tab.get 0 g.cnt (q / 4)
        else if q = 0x14 then lo32 g.last.toNat
        else if q = 0x18 then hi32 g.last.toNat
        else 0
      | _, _ => 0

/-- RGN block. -/
def State.rgnReg (s : State) (o : Nat) : Word :=
  if o = 0 then
    pack [(bit 0 s.dbgDenied, 0), (bit 0 (s.fitted.any fun t => (s.tile t).sec.lost.any fun e => match e.2 with | some l => decide (l.inEffect ≠ []) | none => false), 1),
      (((List.finRange 16).map fun r => bit r.val (s.rgn r).pass).sum, 16)]
  else match arr o 0x100 0x20 16 with
    | none => 0
    | some (r, q) =>
      let r : RegionId := ⟨r % 16, Nat.mod_lt _ (by decide)⟩
      let g := s.rgn r
      match q with
      | 0x0 => g.base.setWidth 32
      | 0x4 => g.size.setWidth 32
      | 0x8 => s.rgnCtl r
      | 0xC => if g.pass then BitVec.ofNat 32 (s.fitted.map fun t => g.groups s.part - Tab.get 0 g.reached t.val).sum else 0
      | 0x10 => pack [(g.holder.val, 0), (bit 0 g.held, 6), (bit 0 g.resolving.isSome, 7), (g.steps.length, 8)]
      | 0x14 => match g.expiry with
        | some n => if g.held then BitVec.ofNat 32 ((n - s.now + 1999999) / 2000000) else 0
        | none => 0
      | _ => 0

/-- TCTL block. -/
def Tctl.reg (c : Tctl) (o : Nat) : Word := match o with
  | 0x0 => pack [(bit 0 c.enable, 0), (bit 0 c.pendEn, 1)]
  | 0x4 => pack [(c.st.code, 0), (bit 0 c.retained, 3), (c.recovery.toNat, 4), (c.stopCause.toNat, 8)]
  | 0x8 => pack [(c.cause.toNat, 0), (c.count, 8)]
  | 0xC => lo32 c.fsf.toNat
  | 0x10 => hi32 c.fsf.toNat
  | _ => 0

/-- PORTA and PORTB blocks. -/
def State.portReg (s : State) (p : PortId) (o : Nat) : Word :=
  let q := s.port p
  match o with
  | 0x0 => q.ctl &&& 0x000FFF7F#32
  | 0x4 => pack ((List.finRange 4).map fun j => ((s.link p j).code, 4 * j.val))
  | 0x8 => lo32 (s.linkMac p 0).toNat
  | 0xC => hi32 (s.linkMac p 0).toNat
  | 0x14 => q.rto.setWidth 32
  | _ => match arr o 0x100 0x40 4 with
    | some (j, i) => if i < 0x20 then Tab.get 0 q.cnt (8 * j + i / 4) else 0
    | none => 0

/-- ADM block. -/
def State.admReg (s : State) (t : TileId) (o : Nat) : Word :=
  let a := (s.tile t).adm
  match o with
  | 0x0 => pack [(32704 - a.cells.length, 0), (a.minFree, 16)]
  | 0x4 => pack [(a.level, 0)]
  | 0x8 => pack [(a.rate, 0), (bit 0 a.halved, 13)]
  | 0xC => pack [(a.depth, 0)]
  | 0x10 => pack [(a.stFree, 0)]
  | _ => match arr o 0x20 4 7, arr o 0x400 16 64 with
    | some (i, _), _ => Tab.get 0 a.cnt i
    | _, some (x, q) =>
      let l := Tab.get [] a.queues x
      let S : Sess := Tab.get {} s.sess x
      let mine := decide (portTile S.port = t)
      match q with
      | 0x0 => Tab.get 0 a.scfg x &&& 0x01FFFFFF#32
      | 0x4 => pack [(l.headD 0, 0), (l.getLastD 0, 16)]
      | 0x8 => pack [(l.length, 0), (if mine then S.marker.st.toNat else 0, 13), (bit 0 (a.becalmed.contains x), 15), (Tab.get 0 a.used x, 16),
          (bit 0 (Tab.get none a.marks x).isSome, 26)]
      | _ => if mine then S.marker.first else 0
    | _, _ => 0

/-- XLT block. -/
def State.xltReg (s : State) (t : TileId) (o : Nat) : Word :=
  let a := (s.tile t).xlt
  match o with
  | 0x4 => a.gccfg &&& 0xFFFFFF7F#32
  | 0x8 => pack [(a.ovl.length, 0)]
  | 0xC => pack [((a.ovl.filter fun e => decide (e.2 = some none)).length, 0)]
  | 0x10 => pack [(a.cache.length, 0), (a.dirty, 12)]
  | 0x14 => pack [(s.freeStrata t, 0)]
  | 0x18 => pack [(min 65535 (a.strata.filter fun e => decide (e.2.st = .pendErase)).length, 0), (min 65535 a.orphans, 16)]
  | 0x1C => pack [(a.victim.getD 0, 0), (a.gcPhase.toNat, 19)]
  | 0x20 => lo32 a.hostLn.toNat
  | 0x24 => hi32 a.hostLn.toNat
  | 0x28 => lo32 a.medLn.toNat
  | 0x2C => hi32 a.medLn.toNat
  | _ => match arr o 0x40 4 10 with
    | some (i, _) => Tab.get 0 a.cnt i
    | none => 0

/-- MED block of channel `c`. -/
def State.medChanReg (s : State) (t : TileId) (c o : Nat) : Word :=
  let d := fun (i : Nat) => s.die t c i
  let flags := fun (p : Die → Bool) => ((List.range 8).map fun i => bit i (p (d i))).sum
  if o = 0 then
    pack [(flags fun x => x.recs.lost, 0), (flags fun x => decide (x.recs.pool.length < 512), 8), (flags fun x => decide (x.recs.pool.length < 64), 16),
      (flags fun x => x.levelReq.isSome, 24)]
  else match arr o 0x10 4 8, arr o 0x40 8 8, arr o 0x100 4 8 with
    | some (i, _), _, _ => pack [((d i).recs.pool.length, 0), ((d i).recs.bad.length, 16)]
    | _, some (i, q), _ => if q = 0 then BitVec.ofNat 32 (d i).recs.maxCount else pack [(min 65535 (d i).recs.spread, 0)]
    | _, _, some (i, _) => Tab.get 0 (s.tile t).med.ccnt (8 * c + i)
    | _, _, _ => 0

/-- MED tile registers. -/
def State.medReg (s : State) (t : TileId) (o : Nat) : Word :=
  let a := (s.tile t).med
  if o < 0x8000 then s.medChanReg t (o / 0x1000) (o % 0x1000)
  else match o - 0x8000 with
    | 0x0 => pack [(bit 0 a.ageUnknown, 0), (bit 0 (decide (a.roCause ≠ 0)), 2), (a.roCause.toNat, 3), (bit 0 (decide (a.evacDies ≠ [])), 5),
        (bit 0 a.mapLost.isSome, 6), (s.lostCap t, 16)]
    | 0x4 => lo32 a.dc.toNat
    | 0x8 => hi32 a.dc.toNat
    | 0xC => pack [(a.epochs.toNat, 0), (min 65535 a.passes, 16)]
    | 0x10 => pack [(a.ppos, 0)]
    | 0x14 => if a.ageUnknown then pack [(s.surveyLeft t, 0)] else 0
    | q => match arr q 0x40 4 8, arr q 0x100 4 16 with
      | some (i, _), _ => Tab.get 0 a.tcnt i
      | _, some (b, _) =>
        pack [(((s.tile t).xlt.strata.filter fun e => decide (e.2.st = .closed) && decide (e.2.bucket.toNat = b)).length, 0)]
      | _, _ => 0

/-- SCH block. -/
def State.schReg (s : State) (t : TileId) (o : Nat) : Word :=
  let a := (s.tile t).sch
  match o with
  | 0x0 => pack [(bit 0 a.leanReq, 0)]
  | 0x4 => pack [(a.var.toNat, 0), (a.next.toNat, 2), (bit 0 a.gale, 4), (bit 0 (a.present.getLsbD 3), 5), (bit 0 (a.present.getLsbD 1), 6),
      (bit 0 a.wordErr, 7), ((Tab.get 0 a.seqs (1024 * a.var.toNat + a.f)).toNat, 8), (a.f, 16)]
  | 0x8 => lo32 s.sf.toNat
  | 0xC => hi32 s.sf.toNat
  | 0x10 => lo32 a.gsf.toNat
  | 0x14 => hi32 a.gsf.toNat
  | 0x18 => pack [(a.entries, 0), (a.cause.toNat, 16)]
  | _ => match arr o 0x40 4 10, arr o 0x100 8 8 with
    | some (i, _), _ => Tab.get 0 a.cnt i
    | _, some (i, q) => if q = 0 then pack [(s.debt t i, 0)] else Tab.get 0 a.dlim i
    | _, _ => 0

/-- SEC block. -/
def State.secReg (s : State) (t : TileId) (o : Nat) : Word :=
  let a := (s.tile t).sec
  match o with
  | 0x0 => pack [(a.cached.length, 0)]
  | 0x4 => pack [((a.cached.filter fun e => decide (e.2 = some true)).length, 0)]
  | 0x8 => pack [(a.ripe.length, 0)]
  | 0xC => pack [(a.stalled.length, 0)]
  | 0x10 => pack [((a.lost.filter fun e => match e.2 with | some l => decide (l.inEffect ≠ []) | none => false).length, 0)]
  | _ => match arr o 0x40 4 8, arr o 0x100 8 64 with
    | some (i, _), _ => Tab.get 0 a.cnt i
    | _, some (i, q) => match Tab.get none a.lost i with
      | some l =>
        if q = 0 then l.first.setWidth 32
        else pack [(l.level.toNat, 0), (l.cause.toNat, 4), (bit 0 (decide (l.inEffect ≠ [])), 8), (l.regions.toNat, 9)]
      | none => 0
    | _, _ => 0

/-- The words of a sample record. -/
def Sample.word (r : Sample) : Nat → Word
  | 0 => lo32 r.sf.toNat
  | 1 => pack [(r.sf.toNat / 2 ^ 32, 0), (r.w.toNat, 8)]
  | 2 => pack [(r.counter.val, 0), (r.cls.toNat, 8), (bit 0 r.gale, 11), (bit 0 r.grant.isSome, 12), (r.grant.getD 0 % 64, 13)]
  | _ => 0

/-- PMC block. -/
def Pmc.reg (p : Pmc) (o : Nat) : Word := match o with
  | 0x0 => pack [(bit 0 p.run, 0)]
  | 0x4 => lo32 p.ovf.toNat
  | 0x8 => hi32 p.ovf.toNat
  | 0xC => p.period.setWidth 32
  | 0x10 => pack [(p.recs.length, 0), (p.dropped, 16)]
  | _ => match arr o 0x20 4 4, arr o 0x100 4 64, arr o 0x200 8 64 with
    | some (j, _), _, _ => match p.recs with
      | r :: _ => r.word j
      | [] => 0
    | _, some (i, _), _ => Tab.get 0 p.cfg i
    | _, _, some (i, q) => if q = 0 then lo32 (Tab.get 0 p.cnt i).toNat else hi32 (Tab.get 0 p.cnt i).toNat
    | _, _, _ => 0

/-- SEC_ECC block. -/
def Tile.eccReg (T : Tile) (o : Nat) : Word :=
  if o = 4 then T.eccLast
  else match arr o 0x40 8 16 with
    | some (i, q) => Tab.get 0 T.eccCnt (2 * i + q / 4)
    | none => 0

/-- The value of a register (R12: WO and RSV fields read as 0). -/
def State.regVal (s : State) (b : Block) (o : Nat) : Word := match b with
  | .dev => s.devReg o
  | .sup => s.supReg o
  | .clk => s.clkReg o
  | .thm => s.thmReg o
  | .evt => s.evtReg o
  | .cfg => s.cfgReg o
  | .dbg => s.dbgReg o
  | .ldg => s.ldgReg o
  | .ses => s.sesReg o
  | .rgn => s.rgnReg o
  | .tctl t => (s.tile t).ctl.reg o
  | .port p => s.portReg p o
  | .adm t => s.admReg t o
  | .xlt t => s.xltReg t o
  | .med t => s.medReg t o
  | .sch t => s.schReg t o
  | .sec t => s.secReg t o
  | .pmc t => (s.tile t).pmc.reg o
  | .ecc t => (s.tile t).eccReg o

/-- The upper half of the value whose _LO register is named (R15); `none` for any other register. -/
def State.pairHi (s : State) (b : Block) (o : Nat) : Option Word :=
  let lo : Bool := match b with
    | .cfg => o == 0x28
    | .ldg => o == 0x7F008 || o == 0x7F010
    | .ses => match arr o 0x2000 0x20 64 with | some (_, q) => q == 0x14 | none => false
    | .tctl _ => o == 0xC
    | .port _ => o == 0x8
    | .xlt _ => o == 0x20 || o == 0x28
    | .med _ => o == 0x8004
    | .sch _ => o == 0x8 || o == 0x10
    | .pmc _ => match arr o 0x200 8 64 with | some (_, q) => q == 0 | none => o == 0x20
    | .evt => match arr o 0x2000 16 288 with | some (_, q) => q == 4 | none => false
    | _ => false
  if lo then some (s.regVal b (o + 4)) else none

/-! ### A read through a bridge (R15, R350) -/

/-- Whether a value may not settle as it crosses: that of a performance counter that runs (R350; log 30). -/
def State.restless (s : State) (b : Block) (o : Nat) : Bool := match b with
  | .pmc t => match arr o 0x200 8 64 with
    | some (i, _) => s.pmcRuns t ⟨i % 64, Nat.mod_lt _ (by decide)⟩
    | none => false
  | _ => false

/-- A register is read through a bridge (0 SMBus, 1 in band): its value, whether it was returned unsettled, and the state. -/
def State.readReg (s : State) (bridge : Nat) (a : Nat) : Word × Bool × State := match blockOf a with
  | none => (0, false, s)
  | some (b, o) =>
    if s.blockFitted b = false then (0, false, s)
    else
      let capKey := 2 * a + bridge
      match Tab.get none s.cap (2 * (a - 4) + bridge) with
      | some v => (v, false, { s with cap := Tab.put none s.cap (2 * (a - 4) + bridge) none })
      | none =>
        let s := match s.pairHi b o with
          | some h => { s with cap := Tab.put none s.cap capKey (some h) }
          | none => s
        if s.restless b o then
          let (un, s) := s.drawBool
          if un then
            let (v, s) := s.draw 32
            let s := s.modClk fun c => { c with unsettled := true, xaddr := BitVec.ofNat 32 a }
            (v, true, s.raise 5 (fld 0 a))
          else (s.regVal b o, false, s)
        else (s.regVal b o, false, s)

end Sys2Proof.Machine
end

