-- ==== Sys2Proof/Machine/Write.lean ====
section
/-! DEFINITION. What a write of each register does (R12 to R14, R78, R91, R93, R303, R308 to R312, R352, R369, R370, R381, R390,
R408, and the register tables), and the clears of counters. -/

namespace Sys2Proof.Machine

/-! ### Clears -/

/-- Bits of EVT_PEND word `k` written 1 are cleared (R14). -/
def State.clearPend (s : State) (k : Nat) (mask : Word) : State :=
  s.modEvt fun e => { e with pend := e.pend.filter fun n => !(decide (n / 32 = k) && mask.getLsbD (n % 32)) }

/-- A write of EVT_TRB_CLR (R303). -/
def State.clearTrouble (s : State) (src : Nat) (clr all : Bool) : State :=
  if all then s.askClear (List.range 288)
  else if clr && decide (src < 288) then s.askClear [src]
  else s

/-- Every performance counter of a tile, or one, is cleared. -/
def State.pmcClear (s : State) (t : TileId) : State := s.modPmc t fun p => { p with cnt := [] }
def State.pmcClear1 (s : State) (t : TileId) (i : Nat) : State := s.modPmc t fun p => { p with cnt := Tab.del i p.cnt }
/-- The oldest sample record is discarded. -/
def State.pmcPop (s : State) (t : TileId) : State := s.modPmc t fun p => { p with recs := p.recs.drop 1 }

/-- PORT_CNT_CLR. -/
def State.portCntClear (s : State) (p : PortId) (mask : BitVec 4) : State :=
  s.modPort p fun q => { q with cnt := Tab.keep (fun k => !mask.getLsbD (k / 8)) q.cnt }
/-- ADM_CNT_CLR: MIN_FREE becomes FREE. -/
def State.admCntClear (s : State) (t : TileId) : State :=
  s.modAdm t fun a => { a with cnt := [], minFree := 32704 - a.cells.length }
def State.xltCntClear (s : State) (t : TileId) : State := s.modXlt t fun a => { a with cnt := [] }
/-- MED_CCNT_CLR of a channel. -/
def State.medCcntClear (s : State) (t : TileId) (c : ChanId) : State :=
  s.modMed t fun a => { a with ccnt := Tab.keep (fun k => decide (k / 8 ≠ c.val)) a.ccnt }
def State.medTcntClear (s : State) (t : TileId) : State := s.modMed t fun a => { a with tcnt := [] }
/-- SCH_CNT_CLR; the counts without a register stay. -/
def State.schCntClear (s : State) (t : TileId) : State :=
  s.modSch t fun a => { a with cnt := Tab.keep (fun k => decide (10 ≤ k)) a.cnt }
def State.secCntClear (s : State) (t : TileId) : State := s.modSec t fun a => { a with cnt := [] }
def State.eccClear (s : State) (t : TileId) : State := s.modTile t fun T => { T with eccCnt := [] }
/-- SUP_CTL.CNT_CLR. -/
def State.supCntClear (s : State) : State :=
  s.modSup fun u => { u with rails := u.rails.map fun e => (e.1, { e.2 with glitch := 0, faults := 0 }) }
/-- SES_STRG_CLR: the counters of a link. -/
def State.strangerClear (s : State) (p : PortId) (j : LinkId) : State := s.modStrg p j fun g => { g with cnt := [] }

/-! ### Credentials (R78) -/

/-- The ledger body of a credential. -/
def Cred.body (c : Cred) : Body := .cred c.enable c.v1ok c.rd c.wr c.key

/-- ENABLE of a credential once the writes whose commits are pending have taken effect. -/
def Cred.will (c : Cred) : Bool := c.want.getD c.enable
def State.credOn (s : State) (x : SessId) : Bool := (s.cred x).will

/-- ENABLE = 0: a steward-written entry is committed first. -/
def State.credDisable (s : State) (x : SessId) : State :=
  let c := s.cred x
  if c.fromImage = false ∧ c.will = true then
    (s.modCred x fun c => { c with want := some false }).commit (baseCred x.val) ({ c with enable := false } : Cred).body [.credOff x]
  else s

/-- ENABLE = 1: the whole entry is committed before use. -/
def State.credEnable (s : State) (x : SessId) : State :=
  let c := s.cred x
  if c.fromImage = false ∧ c.will = false then
    (s.modCred x fun c => { c with want := some true }).commit (baseCred x.val) ({ c with enable := true } : Cred).body [.credSet x]
  else s

/-- The fields of an entry may be written: not from the image, not enabled, and no write of ENABLE waiting for its commit (R78; log 109). -/
def Cred.open (c : Cred) : Bool := !c.fromImage && !c.enable && c.want.isNone

/-- SES_CRED_CTL: V1_OK is written while the entry may be. -/
def State.credCtl (s : State) (x : SessId) (v : Word) : State :=
  let c := s.cred x
  if c.fromImage then s
  else
    let s := if c.open then s.modCred x fun c => { c with v1ok := v.getLsbD 3 } else s
    if v.getLsbD 0 then s.credEnable x else s.credDisable x

/-- SES_CRED_GRANT and SES_CRED_KEY. -/
def State.credField (s : State) (x : SessId) (f : Cred → Cred) : State :=
  if (s.cred x).open then s.modCred x f else s

/-- A 256-bit value with 32-bit word `k` replaced. -/
def setWord (h : BitVec 256) (k : Nat) (v : Word) : BitVec 256 :=
  (h &&& ~~~((0xFFFFFFFF#256) <<< (32 * k))) ||| (v.setWidth 256 <<< (32 * k))

/-! ### The ledger (R370, R381) -/

/-- LDG_PROV.COMMIT. -/
def State.provision (s : State) : State :=
  if s.ldg.keySet then s else s.commit baseIkey (.ikey s.ldg.ikey) [.ikeySet s.ldg.ikey]

/-- A write of one or more words through the window: committed as one in the user area, ignored elsewhere (R381). -/
def State.windowWrite (s : State) (o : Nat) (vs : List Word) (post : List Deferred := []) : State :=
  let skip := (0x70000 - o + 3) / 4
  let vs := (vs.drop skip).take ((0x7F000 - (o + 4 * skip)) / 4)
  if vs = [] then s else s.commit (o + 4 * skip) (.user vs) post

/-! ### Debug (R293, R408) -/

/-- An access of the debug port (`dma` false) or of the DMA was denied: its flag and its event (R293). -/
def State.denied (s : State) (dma : Bool) (addr : Nat) : State :=
  ({ s with dbgDenied := true } : State).raise 20 (fld 0 (bit 0 dma) ||| fld 8 addr)

/-- The debug paths are open (R408). -/
def State.dbgOpen (s : State) : Bool := s.dbg.en && !s.dbg.locked

/-- A stratum whose pages are protected: line data, counter objects or the cairn (R293). Counter pages lie in strata of the MAP stream
(R278). -/
def State.protectedStratum (s : State) (t : TileId) (n : Nat) : Bool :=
  let g := s.stratum t n
  match g.stream with
  | .hot => decide (g.st ≠ .free)
  | .cold => decide (g.st ≠ .free)
  | .cairn => true
  | .counters => true
  | .map => g.ctrs || (s.tile t).xlt.dir.any fun e => decide (levelBase 0 ≤ e.1 ∧ e.1 < ctrDirBase) && !e.2.isEmpty && decide (pageStratum e.2.loc = n)
  | .anchor => false

/-- DBG_CTL.DMA_START: a page read of a tile begins; it is denied where the page is protected (R293, R408). -/
def State.dmaStart (s : State) (t : TileId) : State :=
  let page := s.dbg.dmaPage
  if s.dbgOpen = false ∨ s.dbg.dmaBusy = true ∨ s.hasTile t = false ∨ s.mioOn t = false ∨ s.coreOn t = false then s
  else
    let s := { s with dbg := { s.dbg with dmaBusy := true, dmaTile := t, dmaFrom := (t, page) } }
    if s.protectedStratum t (pageStratum page) then s.denied true page.toNat
    else (List.range 16).foldl (fun s j => s.bgFetch t (cwAddr page j) .dma) s

/-- The page read finishes once no read of it is left: DBG_BUF takes zeros for a protected page, and the 4,096 bytes of data of any other
page as the medium holds them; a codeword that holds none, or cannot be read, gives free values (log 31). -/
def State.dmaDone (s : State) : State :=
  let (t, page) := s.dbg.dmaFrom
  let left := (s.tile t).sch.fetches.any fun e => match e.2 with | some f => decide (f.owner = .dma) | none => false
  if s.dbg.dmaBusy = false ∨ left = true then s
  else if s.protectedStratum t (pageStratum page) then
    { s with dbg := { s.dbg with dmaBusy := false, dmaZero := true, buf := [] } }
  else
    let n := s.free
    let word := fun (p : Option (BitVec 2304)) (i : Nat) => match p with
      | some p => (payloadLine p (i / 16 % 4)).extractLsb' (32 * (i % 16)) 32
      | none => Config.freeValue 32 (n + i)
    let cws := (List.range 16).map fun j => s.payload t (cwAddr page j)
    { s with
      free := n + 1024
      dbg := { s.dbg with
        dmaBusy := false, dmaZero := false
        buf := (List.range 1024).foldl (fun (m : Tab Word) i => Tab.put 0 m i (word (cws.getD (i / 64) none) i)) [] } }

/-- A debug access completes: DAP_REG's data register and DBG_STS.DAP_CODE (R407). -/
def State.dapDone (s : State) (data : Word) (addr : Word) (write : Bool) (st : Byte) (done : Bool := true) : State :=
  { s with dbg := { s.dbg with
    dapCode := if done then st else s.dbg.dapCode
    dr := BitVec.ofNat 72 (data.toNat + addr.toNat * 2 ^ 32 + bit 64 write + bit 65 done) } }

/-- DBG_CTL.LOCK: the debug paths close until the next cold reset; a DAP_REG access that is pending is denied (R408). -/
def State.lockDebug (s : State) : State :=
  let s := { s with dbg := { s.dbg with locked := true } }
  match s.clk.smb with
  | some d => if d.dap then (s.modClk fun c => { c with smb := none }).dapDone 0 d.addr d.write 3 else s
  | none => s

/-- DBG_CTL: DMA_TILE, then LOCK, then DMA_START. -/
def State.dbgCtl (s : State) (v : Word) : State :=
  let t : TileId := ⟨v.toNat / 4 % 8, Nat.mod_lt _ (by decide)⟩
  let s := { s with dbg := { s.dbg with dmaTile := t } }
  let s := if v.getLsbD 0 then s.lockDebug else s
  if v.getLsbD 1 then s.dmaStart t else s

/-! ### Bridges: the reset that covers a pending access (R352) -/

/-- CLK_XCTL.RESET_PEND for a bridge: the domain of its pending access is reset. The housekeeping domain, which a tile fault reset leaves
running, counts as covered by it here (log 145). -/
def State.resetPend (s : State) (inBand : Bool) : State :=
  match (if inBand then s.clk.ib else s.clk.smb) with
  | none => s
  | some d =>
    if d.dom < 2 then s
    else
      let t : TileId := ⟨(d.dom - 2) / 29 % 8, Nat.mod_lt _ (by decide)⟩
      let j := (d.dom - 2) % 29
      if 9 ≤ j ∧ j < 27 then
        s.portRst ⟨(2 * t.val + (if j < 17 ∨ j = 25 then 0 else 1)) % 16, Nat.mod_lt _ (by decide)⟩
      else (s.tileFault t 8).hitPends fun i => decide (i = d.dom)

/-! ### Blocks -/

/-- SUP_CTL: an off request comes before an on request of the same write (log 32). -/
def State.supCtl (s : State) (v : Word) : State :=
  let s := if v.getLsbD 0 then s.offReq else s
  let s := if v.getLsbD 1 then s.onReq else s
  if v.getLsbD 2 then s.supCntClear else s

/-- PORT_CTL: ENABLE and the fields, then PORT_RESET. -/
def State.portCtl (s : State) (p : PortId) (v : Word) : State :=
  let s := if v.getLsbD 0 then s.portOn1 p v else s.portOff1 p v
  if v.getLsbD 7 then s.portRst p else s

/-- TCTL_CTL: ENABLE, then FAULT_RESET. -/
def State.tctlCtl (s : State) (t : TileId) (v : Word) : State :=
  let s := if v.getLsbD 0 then s.tileStart t else s.tileStop t
  if v.getLsbD 2 then s.tileFault t 1 else s

/-- THM_CTL. -/
def State.thmCtl (s : State) (v : Word) : State :=
  (s.resumeAll (v.extractLsb' 0 8)).maxClr (v.extractLsb' 8 8)

/-- PMC block. -/
def State.pmcWrite (s : State) (t : TileId) (o : Nat) (v : Word) : State := match o with
  | 0x0 =>
    let s := s.modPmc t fun p => { p with run := v.getLsbD 0 }
    if v.getLsbD 1 then s.pmcClear t else s
  | 0x4 => s.modPmc t fun p => { p with ovf := p.ovf &&& ~~~(v.setWidth 64) }
  | 0x8 => s.modPmc t fun p => { p with ovf := p.ovf &&& ~~~((v.setWidth 64) <<< 32) }
  | 0xC => s.modPmc t fun p => { p with period := v.setWidth 24 }
  | 0x14 => if v.getLsbD 0 then s.pmcPop t else s
  | _ => match arr o 0x100 4 64 with
    | some (i, _) =>
      let s := s.modPmc t fun p => { p with cfg := Tab.put 0 p.cfg i (v &&& 0x7FFF#32) }
      if v.getLsbD 15 then s.pmcClear1 t i else s
    | none => s

/-- SES block. -/
def State.sesWrite (s : State) (o : Nat) (v : Word) : State :=
  let x : SessId := ⟨v.toNat % 64, Nat.mod_lt _ (by decide)⟩
  match o with
  | 0x0 => { s with sesCtl := v &&& 0x1FFFFF#32 }
  | 0x4 => if v.getLsbD 8 then s.killSession x 4 else s
  | 0x8 => if v.getLsbD 8 then s.strangerClear ⟨x.val / 4, by omega⟩ ⟨x.val % 4, by omega⟩ else s
  | _ => match arr o 0x1000 0x40 64 with
    | some (y, q) =>
      let y : SessId := ⟨y % 64, Nat.mod_lt _ (by decide)⟩
      if q = 0 then s.credCtl y v
      else if q = 4 then s.credField y fun c => { c with rd := v.setWidth 16, wr := v.extractLsb' 16 16 }
      else if 0x20 ≤ q then s.credField y fun c => { c with key := setWord c.key ((q - 0x20) / 4) v }
      else s
    | none => s

/-- A write of one RGN register as an admin step: the register written by the step (R117, R267). -/
def adminWrites (o : Nat) (v : Word) : Option (RegionId × Writes) := match arr o 0x100 0x20 16 with
  | some (r, q) =>
    let r : RegionId := ⟨r % 16, Nat.mod_lt _ (by decide)⟩
    if q = 0 then some (r, { base := some v })
    else if q = 4 then some (r, { size := some v })
    else if q = 8 then some (r, { ctl := some v })
    else none
  | none => none

/-- RGN block: a write of an admin register is a step of the lock's holder. -/
def State.rgnWrite (s : State) (o : Nat) (v : Word) : State :=
  if o = 0 then (if v.getLsbD 0 then { s with dbgDenied := false } else s)
  else match adminWrites o v with
    | some (r, w) => s.holderStep r w (BitVec.ofNat 32 (0x110000 + o))
    | none => s

/-- LDG block. -/
def State.ldgWrite (s : State) (o : Nat) (v : Word) (post : List Deferred) : State :=
  if o < 0x7F000 then s.windowWrite o [v] post
  else if o = 0x7F000 then s.modLdg fun l => { l with tie := l.tie && !v.getLsbD 1, torn := l.torn && !v.getLsbD 2 }
  else if o = 0x7F060 then (if v.getLsbD 0 then s.provision else s)
  else match arr o 0x7F040 4 8 with
    | some (k, _) => if s.ldg.keySet then s else s.modLdg fun l => { l with ikey := setWord l.ikey k v }
    | none => s

/-- A write of a register (R12): fields whose type ignores writes are not changed. `post` waits for a commit of the ledger's
user area. -/
def State.writeReg (s : State) (b : Block) (o : Nat) (v : Word) (post : List Deferred := []) : State := match b with
  | .dev => if o = 0x8 then (if v.getLsbD 0 then s.askWarm 0 else s) else if o = 0x10 then { s with scratch := v } else s
  | .sup => if o = 0 then s.supCtl v else s
  | .clk => match o with
    | 0x0 => s.modClk fun c => { c with refLost := c.refLost && !v.getLsbD 1 }
    | 0x4 => if v.getLsbD 0 then s.resetPend (v.getLsbD 1) else s
    | 0x8 => s.modClk fun c => { c with unsettled := c.unsettled && !v.getLsbD 2 }
    | _ => s
  | .thm => if o = 0 then s.thmCtl v else s
  | .evt => if o = 0x4 then s.clearTrouble (v.toNat % 512) (v.getLsbD 9) (v.getLsbD 10)
    else match arr o 0x100 4 9 with
      | some (k, _) => s.clearPend k v
      | none => s
  | .cfg => if o = 0 then (if v.getLsbD 6 then { s with cfg := { s.cfg with tie := false } } else s)
    else if o = 4 then (if v.getLsbD 0 then s.retryConfig else s)
    else s
  | .dbg => match o with
    | 0x4 => s.dbgCtl v
    | 0x8 => { s with dbg := { s.dbg with dmaPage := v.setWidth 30 } }
    | 0xC => { s with dbg := { s.dbg with maddr := v.setWidth 24 } }
    | _ => s
  | .ldg => s.ldgWrite o v post
  | .ses => s.sesWrite o v
  | .rgn => s.rgnWrite o v
  | .tctl t => if o = 0 then s.tctlCtl t v else s
  | .port p => match o with
    | 0x0 => s.portCtl p v
    | 0x10 => s.portCntClear p (v.setWidth 4)
    | 0x14 => s.modPort p fun q => { q with rto := v.setWidth 16 }
    | _ => s
  | .adm t => if o = 0x14 ∧ v.getLsbD 0 = true then s.admCntClear t else s
  | .xlt t => if v.getLsbD 0 = false then s else if o = 0 then s.rollToken t else if o = 0x30 then s.xltCntClear t else s
  | .med t =>
    if v.getLsbD 0 = false then s
    else if o = 0x8018 then s.medTcntClear t
    else if o < 0x8000 ∧ o % 0x1000 = 0xF0 then s.medCcntClear t ⟨o / 0x1000 % 8, Nat.mod_lt _ (by decide)⟩
    else s
  | .sch t => if o = 0 then s.modSch t fun a => { a with leanReq := v.getLsbD 0 }
    else if o = 0x1C ∧ v.getLsbD 0 = true then s.schCntClear t else s
  | .sec t => if o = 0x14 ∧ v.getLsbD 0 = true then s.secCntClear t else s
  | .pmc t => s.pmcWrite t o v
  | .ecc t => if o = 0 ∧ v.getLsbD 0 = true then s.eccClear t else s

end Sys2Proof.Machine
end

