-- ==== Sys2Proof/Machine/Pins.lean ====
section
/-! DEFINITION. The output pins: what the device drives onto them in every state (R314, R363, R410, R412, Table 17.3), and the pins
that a boundary-scan instruction takes from their functions (R406, R407). -/

namespace Sys2Proof.Machine

/-- An output or bidirectional pin of Table 17.3. -/
inductive Pin where
  | en (x : RailId)
  | thermtripN | irqN | smbAlertN | smbScl | cfgCsN | cfgSck | cfgIo | tdo
  | lanes (p : PortId)
  deriving DecidableEq, Repr

/-- What the device drives onto a pin: `z` is high impedance, released, or electrically idle; `busy` follows a transfer in progress, whose
levels are not in State. -/
inductive Level where | low | high | z | busy
  deriving DecidableEq, Repr

/-- The cell of the boundary-scan register that drives a pin (log 156); the clock and data pins of buses have none. -/
def Pin.cell : Pin → Option Nat
  | .en x => some x.val
  | .thermtripN => some 8
  | .irqN => some 9
  | .smbAlertN => some 10
  | .cfgCsN => some 11
  | _ => none

/-- The pin belongs to the VGPIO bank (Table 17.2). -/
def Pin.gpio : Pin → Bool
  | .en _ => false
  | .thermtripN => false
  | .lanes _ => false
  | _ => true

/-- The level of a pin in its function (Table 17.3). TDO is driven while a scan shifts, and a command of the TAP is a whole scan. -/
def State.pinFn (s : State) : Pin → Level
  | .en x => if (s.sup.rail x).en then .high else .low
  | .thermtripN => if s.thermtrip then .low else .z
  | .irqN => if s.irq then .low else .z
  | .smbAlertN => if s.alert then .low else .z
  | .smbScl => if s.smb.stretch.isSome then .low else .z
  | .cfgCsN => if s.spiBusy then .busy else .high
  | .cfgSck => if s.spiBusy then .busy else .z
  | .cfgIo => if s.spiBusy then .busy else .z
  | .tdo => .z
  | .lanes p => if s.portOn (portTile p) && !s.portDown p then .busy else .z

/-- The level of a pin. Without VAON nothing is driven; while RESET_N is low only EN_VAON is high (R314); a bank without its rail is high
impedance (R412); EXTEST and CLAMP drive the pins from the boundary-scan register, HIGHZ releases them (R407). -/
def State.pin (s : State) (p : Pin) : Level :=
  if s.powered = false then
    match p with
    | .en x => if s.held then (if x.val = 0 then .high else .low) else .z
    | _ => .z
  else if p.gpio && !s.bankUp then .z
  else match s.dbg.pins.toNat, p.cell with
    | 0, _ => s.pinFn p
    | 1, some i => if s.dbg.latch.getLsbD i then .high else .low
    | _, _ => .z

/-- The pins of the boundary-scan register. -/
def scanPins : List Pin := (List.finRange 8).map .en ++ [.thermtripN, .irqN, .smbAlertN, .cfgCsN]

/-- What SAMPLE captures of the pins: a pin that is released reads high, as its pull makes it (log 156). -/
def State.scanned (s : State) : BitVec 12 :=
  BitVec.ofNat 12 ((scanPins.zipIdx.map fun e => bit e.2 (decide (s.pin e.1 ≠ .low))).sum)

end Sys2Proof.Machine
end

