-- ==== Sys2Proof/Machine/Bridge.lean ====
section
/-! DEFINITION. The management paths: the two bridges, pending accesses, in-band requests, the SMBus target and the debug access
port (R350 to R352, R392, R393, R396 to R408, R422). -/

namespace Sys2Proof.Machine

/-! ### Checks (R117, R393, R400) -/

/-- The path of an access (Table 16.1). -/
inductive Path where | smb | inBand | dap
  deriving DecidableEq, Repr

/-- What the checks of R400 and R393 find. -/
inductive Verdict where | ok | range | denied
  deriving DecidableEq, Repr

/-- Whether a path may write the register at an offset of a block (Table 16.1). -/
def mayWrite (p : Path) (b : Block) (o : Nat) : Bool := match p with
  | .smb => decide (b ≠ .ses ∧ b ≠ .rgn)
  | .inBand => !(decide (b = .ldg) && decide (0x7F040 ≤ o ∧ o < 0x7F064))
  | .dap => decide (b = .dbg)

/-- The addresses of an access to `k` registers. -/
def addrs (a k : Nat) : List Nat := (List.range k).map fun i => a + 4 * i

/-- R400, then R393. -/
def verdict (p : Path) (write : Bool) (a k : Nat) : Verdict :=
  let bs := (addrs a k).map blockOf
  let first := match blockOf a with | some (b, _) => some b | none => none
  if a % 4 ≠ 0 ∨ first = none ∨ bs.any (fun e => decide (e.map Prod.fst ≠ first)) = true then .range
  else if write && bs.any (fun e => match e with | some (b, o) => !mayWrite p b o | none => false) then .denied
  else .ok

/-- Whether an address lies in the CLK block, which both bridges reach while an access is pending. -/
def inClk (a : Nat) : Bool := decide (a / 0x10000 = 2)

/-! ### Accesses in ascending order, up to the first register whose clock does not run (R396, R400) -/

/-- The clock domain of the register at an address, where that domain does not run. -/
def State.stoppedAt (s : State) (a : Nat) : Option Nat := match blockOf a with
  | some (b, o) => if s.blockFitted b && (b.names o || decide (s.regDom b o = 0)) && !s.regRuns b o then some (s.regDom b o) else none
  | none => none

/-- What an access came to: the values read and which of them are unsettled, and where it stopped: address, domain. -/
structure Acc where
  got : List Word := []
  uns : List Bool := []
  stop : Option (Nat × Nat) := none
  left : Nat := 0
  vals : List Word := []
  deriving DecidableEq, Repr

/-- Reads of `n` registers from `a` on. -/
def State.readOn (bridge : Nat) : Nat → Nat → Acc → State → Acc × State
  | 0, _, r, s => (r, s)
  | n + 1, a, r, s =>
    match s.stoppedAt a with
    | some d => ({ r with stop := some (a, d), left := n + 1 }, s)
    | none =>
      let (v, u, s) := s.readReg bridge a
      State.readOn bridge n (a + 4) { r with got := r.got ++ [v], uns := r.uns ++ [u] } s

/-- The address lies in the user area of the ledger window (R381). -/
def inUser (a : Nat) : Bool := decide (0xF0000 ≤ a ∧ a < 0xFF000)

/-- Writes from `a` on; those of the user area are made together. -/
def State.writeOn (post : List Deferred) : List Word → Nat → State → Acc × State
  | [], _, s => ({}, s)
  | v :: l, a, s =>
    match s.stoppedAt a with
    | some d => ({ stop := some (a, d), left := l.length + 1, vals := v :: l }, s)
    | none =>
      let s := match blockOf a with
        | some (b, o) => if s.blockFitted b && !inUser a then s.writeReg b o v post else s
        | none => s
      State.writeOn post l (a + 4) s

/-- The writes of one access: those that lie in the user area of the ledger are one commit (R381). -/
def State.writeAll (post : List Deferred) (vals : List Word) (a : Nat) (s : State) : Acc × State :=
  let s := if a / 0x80000 = 1 ∧ a % 4 = 0 ∧ s.ldg.recalling = false then s.windowWrite (a - 0x80000) vals post else s
  State.writeOn post vals a s

/-- The access becomes pending at its bridge (R351). -/
def State.hold (s : State) (inBand : Bool) (r : Acc) (write : Bool) (req : Option (SessId × BitVec 16 × Word)) (dap : Bool) : State :=
  match r.stop with
  | none => s
  | some (a, d) =>
    let p : Pend := { dom := d, addr := BitVec.ofNat 32 a, write, vals := r.vals, left := r.left, got := r.got, uns := r.uns, req, dap, since := s.now }
    s.modClk fun c =>
      if inBand then { c with ib := some p, ibDom := d, paddr1 := p.addr } else { c with smb := some p, smbDom := d, paddr0 := p.addr }

/-! ### In band (R404, R405) -/

/-- FLAGS of a response to a request that is performed again (Table 2.7). -/
def Req.flags (q : Req) : Byte := flagsOf false false q.replay false false false

/-- The answer to a MGMT_READ. -/
def State.mgmtData (s : State) (x : SessId) (q : Req) (st : Byte) (got : List Word) (uns : List Bool) : State :=
  if st = stOk then
    s.respond x q.rq.hdr.seq
      { opcode := opData, status := st, flags := q.flags, count := q.rq.hdr.count
        addr := BitVec.ofNat 64 ((uns.zipIdx.map fun e => bit e.2 e.1).sum) }
      (got.flatMap fun v => leBytes 4 v.toNat)
  else s.respond x q.rq.hdr.seq { opcode := opData, status := st, flags := q.flags, count := q.rq.hdr.count }

/-- A management request that ends with a status other than OK. -/
def State.mgmtFails (s : State) (x : SessId) (q : Req) (st : Byte) : State :=
  if q.rq.hdr.opcode = opMgmtRead then s.mgmtData x q st [] [] else s.ack x q.rq st

/-- The values a MGMT_WRITE carries, each little-endian (R9). -/
def mgmtVals (r : Rq) : List Word :=
  (List.range (r.hdr.count.toNat + 1)).map fun i => BitVec.ofNat 32 (ofLe (slice r.payload (4 * i) 4))

/-- The admin registers that a write of values from `a` on writes (R117). -/
def adminOf (a : Nat) (vals : List Word) : List (RegionId × Writes) :=
  if a / 0x10000 = 0x11 then vals.zipIdx.filterMap fun e => adminWrites (a + 4 * e.2 - 0x110000) e.1 else []

/-- The writes of one step together. -/
def joinWrites (l : List (RegionId × Writes)) : Writes :=
  l.foldl (fun w e => { base := e.2.base.or w.base, size := e.2.size.or w.size, ctl := e.2.ctl.or w.ctl }) {}

/-- A request's place at the home tile. -/
def State.setReq (s : State) (x : SessId) (seq : Word) (f : Req → Req) : State :=
  s.modSes x fun S => { S with reqs := S.reqs.map fun q => if q.rq.hdr.seq = seq then f q else q }

/-- An access through the in-band bridge has run, wholly or up to a stopped clock. The ACK of a write of the user area waits for
its commit (R381); one whose effect ends the session is not sent (R405). -/
def State.mgmtRan (s : State) (x : SessId) (e : BitVec 16) (seq : Word) (write : Bool) (r : Acc) : State :=
  match r.stop with
  | some _ => (s.setReq x seq fun q => { q with st := .bridge }).hold true r write (some (x, e, seq)) false
  | none =>
    match s.reqOf x e seq with
    | none => s
    | some q =>
      if write then
        if s.ldg.waits fun d => decide (d = .ackReq x e seq) then s.setReq x seq fun q => { q with st := .ledger }
        else if s.clk.warmReq.isSome then s
        else s.ack x q.rq stOk
      else s.mgmtData x q stOk r.got r.uns

/-- A management request reaches the in-band bridge. -/
def State.mgmt (s : State) (x : SessId) (q : Req) : State :=
  let h := q.rq.hdr
  let e := (s.ses x).epoch
  let a := h.addr.toNat
  let k := h.count.toNat + 1
  let write := decide (h.opcode = opMgmtWrite)
  if s.clk.ib.isSome ∧ inClk a = false then
    s.respond x h.seq { opcode := opNak, status := stBusy, flags := q.flags, aux := h.seq, count := h.count }
  else if 2 ^ 32 ≤ a then s.mgmtFails x q stRange
  else match verdict .inBand write a k with
    | .range => s.mgmtFails x q stRange
    | .denied => s.mgmtFails x q stDenied
    | .ok =>
      if write then
        match adminOf a (mgmtVals q.rq) with
        | [] =>
          let (r, s) := State.writeAll [.ackReq x e h.seq] (mgmtVals q.rq) a s
          s.mgmtRan x e h.seq true r
        | (r, w) :: l =>
          let base := 0x110100 + 0x20 * r.val
          if a < base ∨ base + 0x20 < a + 4 * k then s.mgmtFails x q stRange
          else match s.adminStep r x (joinWrites ((r, w) :: l)) (BitVec.ofNat 32 a) h.count.toNat (some (x, e, h.seq)) with
            | (s, some st) => s.mgmtFails x q st
            | (s, none) => s.setReq x h.seq fun q => { q with st := .ledger }
      else
        let (r, s) := s.readOn 1 k a {}
        s.mgmtRan x e h.seq false r

/-- An access of session `x` that has passed the bridge has yet to take effect: a write of the user area, or an admin step
(R404; log 97). -/
def State.effectPends (s : State) (x : SessId) : Bool :=
  s.ldg.waits (fun d => match d with | .ackReq y _ _ => decide (y = x) | _ => false) ||
  (List.finRange 16).any fun r => s.rgnBusy r && (s.rgn r).acts.any fun a => match a.req with
    | some (y, _, _) => decide (y = x)
    | none => false

/-- A management request comes to the bridge: those of a session take effect in its host sequence order (R404). -/
def State.mgmtArrives (s : State) (x : SessId) (q : Req) : State :=
  if ((s.ses x).reqs.any fun p => decide (p.st = .queued)) || s.effectPends x then
    s.setReq x q.rq.hdr.seq fun p => { p with st := .queued }
  else s.mgmt x q

/-- Management requests of a session that waited go on, in order. -/
def State.bridgeN : Nat → SessId → State → State
  | 0, _, s => s
  | n + 1, x, s =>
    match (s.ses x).reqs.find? fun q => decide (q.st = .queued) with
    | none => s
    | some q =>
      if s.effectPends x || decide ((s.ses x).st ≠ .live) then s
      else State.bridgeN n x ((s.setReq x q.rq.hdr.seq fun p => { p with st := .armed }).mgmt x { q with st := .armed })

/-! ### The SMBus target (R397 to R403) -/

/-- SMBus status (Table 16.5). -/
def smOk : Byte := 0
def smUnsettled : Byte := 1
def smRange : Byte := 2
def smDenied : Byte := 3
def smAborted : Byte := 4
def smPec : Byte := 5
def smFormat : Byte := 6
def smTimedOut : Byte := 7

/-- The target answers: VGPIO is on and RESET_N is high (R401), and no boundary-scan instruction has taken its pins (R407). -/
def State.smbUp (s : State) : Bool := s.bankUp && decide (s.dbg.pins = 0)

/-- An answer: bytes returned, and whether the transaction was acknowledged. -/
def State.smbSay (s : State) (acked : Bool) (bytes : List Byte) : State :=
  { s with smb := { s.smb with acked, reply := bytes } }
/-- The transaction's status. -/
def State.smbStatus (s : State) (st : Byte) : State := { s with smb := { s.smb with status := st } }

/-- The target's address byte: 0b11011, SMB_ADDR, and a 0 in the place of the direction bit (R397; log 33). -/
def State.smbAddress (s : State) : Byte := BitVec.ofNat 8 (0xD8 + 2 * s.smb.addr.toNat)

/-- The bytes of a read, with the Packet Error Code that the target supplies where the controller clocks one more byte (R397): over the
address, the command code, the address again with its direction bit, and the bytes returned (Table 16.6; log 157). -/
def State.withPec (s : State) (code : Byte) (l : List Byte) : List Byte :=
  l ++ [crc8 ([s.smbAddress, code, s.smbAddress + 1] ++ l)]

/-- The bytes of a REG_READ. -/
def readBytes (st : Byte) (vals : List Word) : List Byte :=
  [BitVec.ofNat 8 (1 + 4 * vals.length), st] ++ vals.flatMap fun v => leBytes 4 v.toNat

/-- `n` free values, each a register wide (log 1). -/
def State.drawWords : Nat → State → List Word × State
  | 0, s => ([], s)
  | n + 1, s =>
    let (v, s) := s.draw 32
    let (l, s) := State.drawWords n s
    (v :: l, s)

/-- An access of the SMBus target completes. -/
def State.smbDone (s : State) (write : Bool) (st : Byte) (got : List Word) : State :=
  (s.smbStatus st).smbSay true (if write then [] else s.withPec 0x22 (readBytes st got))

/-- The status of a completed access: UNSETTLED where some value was. -/
def readStatus (uns : List Bool) : Byte := if uns.any id then smUnsettled else smOk

/-- REG_WRITE (Table 16.4). -/
def State.regWrite (s : State) (w : SmbWrite) : State :=
  let a := ofLe (slice w.data 0 4)
  let k := (w.count.toNat - 4) / 4
  if s.smbUp = false ∨ s.ldg.recalling = true then s.smbSay false []
  else if w.count.toNat % 4 ≠ 0 ∨ w.count.toNat < 8 ∨ 36 < w.count.toNat ∨ w.data.length ≠ w.count.toNat then
    (s.smbStatus smFormat).smbSay false []
  else if w.pec = some false then (s.smbStatus smPec).smbSay false []
  else if s.clk.smb.isSome ∧ inClk a = false then s.smbSay false []
  else match verdict .smb true a k with
    | .range => s.smbDone true smRange []
    | .denied => s.smbDone true smDenied []
    | .ok =>
      let vals := (List.range k).map fun i => BitVec.ofNat 32 (ofLe (slice w.data (4 + 4 * i) 4))
      let (r, s) := State.writeAll [.smbAck] vals a s
      if r.stop.isSome then
        let s := (s.hold false r true none false).smbSay true []
        { s with smb := { s.smb with stretch := some s.now } }
      -- the acknowledge of a write of the user area waits for its commit (R381)
      else if s.ldg.waits fun d => decide (d = .smbAck) then { s with smb := { s.smb with stretch := some s.now } }
      else s.smbDone true smOk []

/-- READ_SET. -/
def State.readSet (s : State) (w : SmbWrite) : State :=
  let k := ofLe (slice w.data 4 1)
  if s.smbUp = false ∨ s.ldg.recalling = true then s.smbSay false []
  else if w.count ≠ 5 ∨ w.data.length ≠ 5 ∨ k = 0 ∨ 8 < k then (s.smbStatus smFormat).smbSay false []
  else if w.pec = some false then (s.smbStatus smPec).smbSay false []
  else ({ s with smb := { s.smb with set := some (BitVec.ofNat 32 (ofLe (slice w.data 0 4)), k) } } : State).smbSay true []

/-- A Block Write is taken by its command code (Table 16.4); a code that names no Block Write is not acknowledged (R398). -/
def State.blockWrite (s : State) (w : SmbWrite) : State :=
  if w.code = 0x20 then s.regWrite w
  else if w.code = 0x21 then s.readSet w
  else if s.smbUp = false ∨ s.ldg.recalling = true then s.smbSay false []
  else (s.smbStatus smFormat).smbSay false []

/-- REG_READ. -/
def State.regRead (s : State) : State :=
  if s.smbUp = false ∨ s.ldg.recalling = true then s.smbSay false []
  else match s.smb.set with
    | none => (s.smbStatus smFormat).smbSay false []
    | some (addr, k) =>
      let a := addr.toNat
      if s.clk.smb.isSome ∧ inClk a = false then s.smbSay false []
      else match verdict .smb false a k with
        | .ok =>
          let (r, s) := s.readOn 0 k a {}
          if r.stop.isSome then
            let s := (s.hold false r false none false).smbSay true []
            { s with smb := { s.smb with stretch := some s.now } }
          else s.smbDone false (readStatus r.uns) r.got
        | _ =>
          let (vals, s) := State.drawWords k s
          s.smbDone false smRange vals

/-- XSTATUS. -/
def State.xstatus (s : State) : State :=
  if s.smbUp = false ∨ s.ldg.recalling = true then s.smbSay false [] else s.smbSay true (s.withPec 0x23 [s.smb.status])

/-- The Alert Response Address. -/
def State.alertAnswer (s : State) : State :=
  if s.smbUp && s.alert then s.smbSay true [s.smbAddress] else s.smbSay false []

/-- The transaction of a pending access has ended by time-out; the access stays pending. -/
def State.smbTimedOut (s : State) : State :=
  let s := match s.clk.smb with
    | some d => if d.dap || d.timedOut then s
      else (s.modClk fun c => { c with smb := some { d with timedOut := true } }).smbStatus smTimedOut
    | none => s
  ({ s with smb := { s.smb with stretch := none } } : State).smbSay false []

/-- SMBUS_STRETCH_TIMEOUT. -/
def State.stretchEnds (s : State) : State := match s.smb.stretch with
  | some n => (s.till (n + ms 25)).smbTimedOut
  | none => s

/-! ### The debug access port (R293, R406 to R408) -/

/-- The TAP answers: VGPIO is on and RESET_N is high. -/
def State.tapUp (s : State) : Bool := s.bankUp

/-- DAP_REG. -/
def State.dapRegister (s : State) (data addr : Word) (write go : Bool) : State :=
  let s := { s with dbg := { s.dbg with ir := 0x20, pins := 0 } }
  let a := addr.toNat
  if s.dbgOpen = false then s.dapDone 0 addr write smDenied
  else if go = false then s
  else if s.clk.smb.isSome ∧ inClk a = false then s.dapDone 0 addr write 0 false
  else match verdict .dap write a 1 with
    | .range => s.dapDone 0 addr write smRange
    | .denied => s.dapDone 0 addr write smDenied
    | .ok =>
      let (r, s) := if write then State.writeAll [] [data] a s else s.readOn 0 1 a {}
      if r.stop.isSome then (s.hold false r write none true).dapDone 0 addr write 0 false
      else s.dapDone (if write then data else r.got.getD 0 0) addr write (readStatus r.uns)

/-- Structures of Table 11.2 that R293 protects: staging and claim-buffer frames, the overlay's structure, the counter/tree cache and
the token key. -/
def protectedStruct (i : BitVec 4) : Bool := [0x0, 0x1, 0x4, 0x7, 0xB].contains i.toNat

/-- DAP_MEM: one word of a tile's SRAM. The layout of the words is not the spec's: a word that the memory master has written reads as
written, and any other as a free value (log 34). -/
def State.dapMemory (s : State) (data : BitVec 64) (struct : BitVec 4) (t : TileId) (write : Bool) : State :=
  let s := { s with dbg := { s.dbg with ir := 0x21, pins := 0 } }
  let answer := fun (s : State) (v : BitVec 64) (st : Byte) =>
    ({ s with dbg := { s.dbg with
      dapCode := st, dr := BitVec.ofNat 72 (v.toNat + struct.toNat * 2 ^ 64 + t.val * 2 ^ 68 + bit 71 write) } } : State)
  if s.dbgOpen = false then answer s 0 smDenied
  else if s.hasTile t = false ∨ s.coreOn t = false ∨ s.clk.refHold = true then answer s 0 smAborted
  else if protectedStruct struct then answer (s.denied false s.dbg.maddr.toNat) 0 smOk
  else
    let key := (t, struct, s.dbg.maddr)
    if write then
      answer { s with dbg := { s.dbg with words := (key, data) :: s.dbg.words.filter fun e => decide (e.1 ≠ key) } } data smOk
    else match s.dbg.words.find? fun e => decide (e.1 = key) with
      | some (_, v) => answer s v smOk
      | none =>
        let (v, s) := s.draw 64
        answer s v smOk

/-- A TAP instruction that leaves the pins in their functions (`pins` 0), drives them from the boundary-scan register (1) or releases them
(2). With the boundary-scan register selected, it captures the pins, and its latches take what the scan shifts in, which the command does
not carry: a free value (log 156); with the bypass register, one bit of 0 (R406). -/
def State.tap (s : State) (ir : Byte) (pins : BitVec 2) : State :=
  if s.tapUp = false then s
  else if ir = 0x02 ∨ ir = 0x03 then
    let v := s.scanned
    let (l, s) := s.draw 12
    { s with dbg := { s.dbg with ir, pins, bsr := v, dr := v.setWidth 72, latch := l } }
  else { s with dbg := { s.dbg with ir, pins, dr := 0 } }

/-- IDCODE. -/
def State.idCode (s : State) : State :=
  if s.tapUp then
    let part := (s.devReg 0).toNat % 65536
    { s with dbg := { s.dbg with ir := 0x01, pins := 0, dr := BitVec.ofNat 72 (1 + 0xF5 * 2 + part * 2 ^ 12 + s.stepping.toNat * 2 ^ 28) } }
  else s

/-- Test-Logic-Reset, of a TAP that VGPIO powers. -/
def State.tapClear (s : State) : State := if s.tapUp then { s with dbg := { s.dbg with ir := 0x01, pins := 0 } } else s

/-! ### Pending accesses (R351) -/

/-- The SMBus bridge's pending access ends with a status; a result whose transaction has ended is discarded. -/
def State.smbPendEnds (s : State) (d : Pend) (st : Byte) (got : List Word) : State :=
  let s := s.modClk fun c => { c with smb := none }
  let s := { s with smb := { s.smb with stretch := none } }
  if d.dap then s.dapDone (if d.write then d.vals.headD 0 else got.getD 0 0) d.addr d.write st
  else if d.timedOut then s
  else s.smbDone d.write st got

/-- The register of a pending access has its clock again, and the access can go on. -/
def State.pendReady (s : State) (d : Pend) : Bool := !d.due && (s.stoppedAt d.addr.toNat).isNone

/-- The domain's clock runs: the access goes on; it may stop again at a register of another domain. -/
def State.pendOn (s : State) (inBand : Bool) : State :=
  match (if inBand then s.clk.ib else s.clk.smb) with
  | none => s
  | some d =>
    if s.pendReady d = false then s
    else
      let s := s.modClk fun c => if inBand then { c with ib := none } else { c with smb := none }
      let post := match d.req with | some (x, e, q) => [Deferred.ackReq x e q] | none => []
      let (r, s) := if d.write then State.writeAll post d.vals d.addr.toNat s
        else s.readOn (if inBand then 1 else 0) d.left d.addr.toNat { got := d.got, uns := d.uns }
      match d.req with
      | some (x, e, q) => s.mgmtRan x e q d.write r
      | none =>
        if r.stop.isSome then
          let s := s.hold false r d.write none d.dap
          s.modClk fun c => { c with smb := c.smb.map fun p => { p with timedOut := d.timedOut, since := d.since } }
        else s.smbPendEnds d (readStatus r.uns) r.got

/-- PENDING_ACCESS_COMPLETE. Where both bridges' accesses can go on in one block, the SMBus bridge is served first (R392). -/
def State.pendGoesOn (s : State) (inBand : Bool) : State :=
  let first := match s.clk.smb, s.clk.ib with
    | some a, some b => inBand && s.pendReady a && decide ((blockOf a.addr.toNat).map Prod.fst = (blockOf b.addr.toNat).map Prod.fst)
    | _, _ => false
  (if first then s.pendOn false else s).pendOn inBand

/-- The domain has been reset: the access completes without effect, and the read of the pending register and those after it returns 0
(R351); the values read before it mean nothing (R399; log 40). -/
def State.pendReleased (s : State) (inBand : Bool) : State :=
  match (if inBand then s.clk.ib else s.clk.smb) with
  | none => s
  | some d =>
    if d.due = false then s
    else match d.req with
      | some (x, e, q) =>
        let s := s.modClk fun c => { c with ib := none }
        (match s.reqOf x e q with
        | some r => s.mgmtFails x r stAborted
        | none => s)
      | none =>
        if d.dap || d.write then s.smbPendEnds d smAborted []
        else
          let (vals, s) := State.drawWords d.got.length s
          s.smbPendEnds d smAborted (vals ++ List.replicate d.left 0)

end Sys2Proof.Machine
end

