-- ==== Sys2Proof/Machine/Home.lean ====
section
/-! DEFINITION. The home tile of a session: acceptance of requests, their checks and parts, admission by claims (R98 to R109),
responses (R30), and the mesh messages between home and owning tiles (R20, R99 to R104). -/

namespace Sys2Proof

/-- The parts of a memory request: a request of lines crosses at most one tract boundary (R26, R27). -/
def Rq.parts (r : Rq) (p : Machine.PartNo) : List Machine.Part :=
  let a := r.addr
  let n := r.nLines
  let k := min n ((4096 - a % 4096 + 63) / 64)
  { tile := p.tileOf a, tla := p.tlaOf a, first := 0, n := k } ::
    (if k < n then [{ tile := p.tileOf (a + 64 * k), tla := p.tlaOf (a + 64 * k), first := k, n := n - k }] else [])

end Sys2Proof

namespace Sys2Proof.Machine

/-! ### Checks of a request (R22, R26, R48, R53, R79, R116, R199, R264) -/

/-- A request whose form is refused: RANGE in an ACK, whatever the opcode (R48, R53). -/
def State.formBad (s : State) (x : SessId) (r : Rq) : Bool :=
  ((s.ses x).v1 && (r.hdr.opcode = opPartial || r.tokenPresent)) || !r.formOk

/-- The checks of a request against the state of the region of its first line, and then the read-only check (R199, Table 10.1). -/
def State.regionBars (s : State) (op : BitVec 8) (g : RegionId) (ts : List TileId) : Option Byte := match (s.rgn g).st with
  | .online => if isWrite op && ts.any fun t => decide ((s.tile t).med.roCause ≠ 0) then some stReadOnly else none
  | .readOnly => if isWrite op then some stReadOnly else none
  | .disabled => some stRange
  | _ => some stOffline

/-- A request that has waited is checked against its region again before any part of it is armed: a region that has left service
finishes only what was armed (Table 10.1; log 123). -/
def State.barsNow (s : State) (r : Rq) : Option Byte := match s.regionOf r.addr with
  | some g => s.regionBars r.hdr.opcode g ((r.parts s.part).map fun p => p.tile)
  | none => some stRange

/-- The status of a memory request that fails a check; `none` where it passes all of them. -/
def State.screenMem (s : State) (x : SessId) (r : Rq) : Option Byte :=
  let op := r.hdr.opcode
  let a := r.addr
  let last := a + 64 * (r.nLines - 1)
  if a % (if isAtomic op then 8 else 64) ≠ 0 ∨ s.part.limit ≤ last then some stRange
  else match s.regionOf a with
    | none => some stRange
    | some g =>
      if s.regionOf last ≠ some g then some stRange
      else
        let ts := (r.parts s.part).map fun p => p.tile
        let c := s.cred x
        if ts.any fun t => !s.inService t then some stOffline
        else if (op ≠ opRead ∧ c.wr.getLsbD g.val = false) ∨ ((op = opRead ∨ isAtomic op = true) ∧ c.rd.getLsbD g.val = false) then
          some stDenied
        else s.regionBars op g ts

/-- The status of a request that fails a check of its form, address, rights or region (R98). -/
def State.screen (s : State) (x : SessId) (r : Rq) : Option Byte :=
  let op := r.hdr.opcode
  if s.formBad x r then some stRange
  else if isMemory op then s.screenMem x r
  else if op = opLock ∨ op = opUnlock then
    if (s.ses x).steward = false then some stDenied
    else if r.hdr.addr.toNat / 16 ≠ 0 then some stRange
    else if op = opLock ∧ (r.hdr.aux = 0 ∨ 60000 < r.hdr.aux.toNat) then some stRange
    else none
  else if op = opMgmtRead ∨ op = opMgmtWrite then if (s.ses x).steward then none else some stDenied
  else none

/-! ### Drops, parks and markers (R98, R102 to R104, R107 to R109, R429) -/

/-- ADM_DROP: drops in [31:0], parks in [63:32] (Table 11.4). -/
def State.admDrop (s : State) (t : TileId) (o : Nat) : State :=
  s.raise (tsrc t 24) (fld o 1) true fun d => d + fld o 1

/-- The last host sequence number consumed: that before the first request not resolved (R98, R104). -/
def Sess.consumed (S : Sess) : Word :=
  match S.reqs.find? fun q => decide (q.st = .claiming) && !q.replay with
  | some q => q.rq.hdr.seq - 1
  | none => S.e - 1

/-- An open marker is sealed, `n` being the last host number consumed before: its BUSY NAK waits to be sent (R108). Where a word of the cell
is lost, the range ends at that number (Table 11.2). DESIGN CHOICE (log 147): COUNT of a NAK that stands for a range is 0. -/
def State.sealMarker (s : State) (x : SessId) (n : Word) : State :=
  let m := (s.ses x).marker
  if m.st = 1 then
    let last := if m.lost then n else m.last
    (s.modSes x fun S => { S with marker := { m with st := 2, last, seen := n } }).wait x
      { hdr := { opcode := opNak, status := stBusy, ref := m.first, aux := last }, marker := true }
  else s

/-- A word of a marker cell is uncorrectable: its range is taken from REF and from the last number consumed before it sealed (Table 11.2). -/
def State.markerLost (s : State) (x : SessId) : State :=
  s.modSes x fun S =>
    if S.marker.st = 1 then { S with marker := { S.marker with lost := true } }
    else if S.marker.st = 2 then { S with
      marker := { S.marker with last := S.marker.seen }
      waitQ := S.waitQ.map fun w => if w.marker then { w with hdr := { w.hdr with aux := S.marker.seen } } else w }
    else S

/-- One microsecond after a marker opened (R108). -/
def State.sealLate (s : State) (x : SessId) : State :=
  let m := (s.ses x).marker
  if m.st = 1 ∧ (s.ses x).st = .live then ((s.till (m.at_ + us 1)).sealMarker x (s.ses x).consumed).flush x else s

/-- A message about a request goes to the tiles of its parts that satisfy `p`. -/
def State.tellParts (s : State) (x : SessId) (q : Req) (p : Part → Bool) (b : MsgBody) : State :=
  (q.parts.filter p).foldl (fun s (a : Part) => s.send (s.home x) a.tile b) s

/-- What the claims of a request hold is released: by DROP_REMAINDER, or by rewinding the queues of a v1 session. -/
def State.releaseParts (s : State) (x : SessId) (q : Req) : State :=
  if (s.ses x).v1 then s.tellParts x q (fun a => decide (a.st ≠ .waiting)) (.rewind x)
  else s.tellParts x q (fun a => decide (a.st = .claimed ∨ a.st = .sent)) (.drop x q.rq.hdr.seq)

/-- Results of claims that are still to come from the tiles of a request are not awaited (R104). -/
def State.expectStale (s : State) (x : SessId) (q : Req) : State :=
  (q.parts.filter fun a => decide (a.st = .sent)).foldl (fun s (a : Part) =>
    s.modSes x fun S => { S with stale := Tab.upd 0 S.stale a.tile.val fun n => n + 1 }) s

/-- A request is dropped (R107, R108). -/
def State.dropReq (s : State) (x : SessId) (q : Req) : State :=
  let seq := q.rq.hdr.seq
  let t := s.home x
  let s := s.modSes x fun S => { S with
    reqs := S.reqs.filter fun r => decide (r ≠ q)
    marker := if S.marker.st = 0 then { st := 1, first := seq, last := seq, at_ := s.now } else { S.marker with last := seq } }
  ((s.admCnt t 0).pmc t 0x0C).admDrop t 0

/-- A request is parked, with every later request of the session (R104). -/
def State.parkReq (s : State) (x : SessId) (q : Req) : State :=
  let p := q.rq.hdr.seq
  let t := s.home x
  let later := (s.ses x).reqs.filter fun r => !r.replay && precedes p r.rq.hdr.seq
  let s := later.foldl (fun s (r : Req) => (s.releaseParts x r).expectStale x r) s
  let s := s.modSes x fun S => { S with
    reqs := S.reqs.filter fun r => decide (r ≠ q) && !(!r.replay && precedes p r.rq.hdr.seq), e := p }
  let hi := (s.ses x).hi
  let s := s.gapNak x p (if precedes p hi then hi else p)
  (s.admCnt t 2).admDrop t 32

/-- The outcome of a request some claim of which failed (Table 4.2, R284, R429). A drop that does not continue the open
marker finds it sealed. DESIGN CHOICE (log 51): a repeat that is performed again is answered BUSY, for its number alone. -/
def State.unadmitted (s : State) (x : SessId) (q : Req) (fs : List Short) : State :=
  let s := s.releaseParts x q
  if fs.any fun f => f.stall then
    (s.modSes x fun S => { S with reqs := S.reqs.map fun r => if r = q then { q with st := .armed, fail := some stRekeyStall } else r }).refuse
      x q.rq stRekeyStall
  else if q.replay then
    let t := s.home x
    let seq := q.rq.hdr.seq
    let s := s.modSes x fun S => { S with reqs := S.reqs.filter fun r => decide (r ≠ q) }
    (((s.admCnt t 0).pmc t 0x0C).admDrop t 0).wait x
      { hdr := { opcode := opNak, status := stBusy, flags := q.flags, ref := seq, aux := seq, count := q.rq.hdr.count } }
  else
    let m := (s.ses x).marker
    let s := if m.st = 1 ∧ q.rq.hdr.seq ≠ m.last + 1 then s.sealMarker x (q.rq.hdr.seq - 1) else s
    if (fs.any fun f => f.park) ∨ (s.ses x).marker.st = 2 then s.parkReq x q else s.dropReq x q

/-! ### Requests with no lines -/

/-- A request with no lines acts, with its cell held on the home tile. -/
def State.runHome (s : State) (x : SessId) (q : Req) : State :=
  let r := q.rq
  let S := s.ses x
  let reg : RegionId := ⟨r.hdr.addr.toNat % 16, Nat.mod_lt _ (by decide)⟩
  if r.hdr.opcode = opLock then s.lockReq x S.epoch r.hdr.seq reg r.hdr.aux.toNat
  else if r.hdr.opcode = opUnlock then s.unlockReq x S.epoch r.hdr.seq reg
  else if r.hdr.opcode = opMgmtRead ∨ r.hdr.opcode = opMgmtWrite then s.mgmtArrives x q
  else if r.hdr.opcode = opEnroll then
    let (priv, s) := s.draw 256
    let (nonce, s) := s.draw 128
    if enrZ r priv = 0 then s.respond x r.hdr.seq { opcode := opAck, status := stDenied, count := r.hdr.count, aux := BitVec.ofNat 32 s.kaLimit }
    else
      (s.wait x
        { hdr := { opcode := opAck, ref := r.hdr.seq, count := r.hdr.count, aux := BitVec.ofNat 32 s.kaLimit }
          payload := List.replicate 120 0, rseq := some r.hdr.seq, key := some (.offer r priv nonce) }).flush x
  else if r.hdr.opcode = opFinish then
    match S.roll with
    | some o =>
      if o.verifies (s.cred x).key r.payload then
        ((s.modSes x fun S => { S with roll := none }).wait x
          { hdr := { opcode := opAck, ref := r.hdr.seq, count := r.hdr.count }, payload := o.confirm
            rseq := some r.hdr.seq, key := some (.change o) }).flush x
      else (s.modSes x fun S => { S with roll := none }).ack x r stDenied
    | none => s.ack x r stDenied
  else s

/-- A request with no lines takes its cell on the home tile, and acts; or it is dropped or parked. -/
def State.armHome (s : State) (x : SessId) (q : Req) : State :=
  let t := s.home x
  let id := freeId (s.tile t).adm.cells
  match s.claim t t x q.rq 0 0 0 (s.ses x).v1 with
  | (s, some f) => (if (s.ses x).v1 then s.rewind t x else s).unadmitted x q [f]
  | (s, none) =>
    let s := (s.armCell t id).modAdm t fun a => { a with marks := Tab.put none a.marks x.val none }
    let q' := { q with st := .armed, cell := some id }
    let n := (s.ses x).consumed
    let s := s.modSes x fun S => { S with reqs := S.reqs.map fun r => if r = q then q' else r }
    (s.sealMarker x n).runHome x q'

/-! ### Responses (R30, R51, R52, R149) -/

/-- Lines of a part in a DATA: a line with poison, or one the part does not deliver, is a free value (R51, log 1). -/
def State.dataLines (s : State) (p : Part) (r : PartRes) : List Line × BitVec 64 × State :=
  (List.range p.n).foldl (fun (e : List Line × BitVec 64 × State) i =>
    let bad := r.poison.getLsbD (p.first + i) || decide (r.lines.length ≤ i)
    let (v, s) := if bad then e.2.2.draw 512 else (r.lines.getD i 0, e.2.2)
    (e.1 ++ [v], if bad then e.2.1 ||| (1#64 <<< (p.first + i)) else e.2.1, s)) ([], 0, s)

/-- Token slots of a part. -/
def tokenBytes (p : Part) (r : PartRes) : List Byte :=
  let k := (p.tla.toNat / 64 + p.n - 1) / 4 - p.tla.toNat / 256 + 1
  (List.range k).flatMap fun i => beBytes 8 (r.tokens.getD i 0).toNat

/-- The parts of a request that have reported, with their results. -/
def Req.results (q : Req) : List (Part × PartRes) :=
  q.parts.filterMap fun p => match p.st with | .done r => some (p, r) | _ => none

/-- Every part of a memory request has completed: its response is formed. -/
def State.answer (s : State) (x : SessId) (q : Req) : State :=
  let rs := q.results.map fun e => e.2
  let h := q.rq.hdr
  let st := statusOf rs
  let flags := flagsOfParts rs (decide (h.opcode = opRead)) ||| q.flags
  if h.opcode = opRead then
    if st = stOk ∨ st = stIntegrity then
      let (lines, map, s) := q.results.foldl (fun (e : List Line × BitVec 64 × State) pr =>
        let (l, m, s) := e.2.2.dataLines pr.1 pr.2
        (e.1 ++ l, e.2.1 ||| m, s)) (([] : List Line), (0 : BitVec 64), s)
      let tokens := if (s.ses x).v1 then [] else q.results.flatMap fun e => tokenBytes e.1 e.2
      let pend := q.results.flatMap fun e => ((List.range 64).filter fun i => e.2.pending.getLsbD i).map fun i => (i, e.1.tile)
      s.respond x h.seq { opcode := opData, status := st, flags, count := h.count }
        (beBytes 8 map.toNat ++ lines.flatMap lineBytes ++ tokens) pend h.addr
    else s.respond x h.seq { opcode := opData, status := st, flags, count := h.count }
  else if isAtomic h.opcode then
    let old := match rs with | r :: _ => r.old | [] => 0
    s.respond x h.seq { opcode := opResult, status := st, flags, count := h.count } (beBytes 8 old.toNat)
  else s.ack x q.rq st flags

/-- The result of a part is taken once (R152); with the last one the response is formed. -/
def State.partDone (s : State) (x : SessId) (seq : Word) (first : Nat) (r : PartRes) : State :=
  match (s.ses x).reqs.find? fun q => decide (q.rq.hdr.seq = seq ∧ q.st = .armed) &&
      q.parts.any fun p => decide (p.first = first ∧ p.st = .armed) with
  | none => s
  | some q =>
    let q' := { q with parts := q.parts.map fun p => if p.first = first then { p with st := .done r } else p }
    let s := s.modSes x fun S => { S with reqs := S.reqs.map fun o => if o = q then q' else o }
    if q'.parts.all fun p => match p.st with | .done _ => true | _ => false then s.answer x q' else s

/-! ### Admission (R98 to R104, R138) -/

/-- Whether a BARRIER that has not been acknowledged keeps later requests from being armed (R138). -/
def Sess.walled (S : Sess) : Bool := S.reqs.any fun q => decide (q.rq.hdr.opcode = opBarrier ∧ q.st = .armed ∧ q.fail = none)

/-- The claims of a request are sent, those of a v1 session with a rewind mark. -/
def State.sendClaims (s : State) (x : SessId) (q : Req) (armNow : Bool) : State :=
  let s := q.parts.foldl (fun s (a : Part) =>
    s.send (s.home x) a.tile (.claim x q.rq a.first a.first a.n a.tla (s.ses x).v1 armNow)) s
  s.modSes x fun S => { S with reqs := S.reqs.map fun r =>
    if r = q then { q with parts := q.parts.map fun a => { a with st := .sent } } else r }

/-- A request all of whose claims have succeeded is armed (R100). -/
def State.armReq (s : State) (x : SessId) (q : Req) : State :=
  let s := s.tellParts x q (fun _ => true) (.arm x q.rq.hdr.seq 0)
  let n := (s.ses x).consumed
  let s := s.modSes x fun S => { S with reqs := S.reqs.map fun r =>
    if r = q then { q with st := .armed, parts := q.parts.map fun a => { a with st := .armed } } else r }
  s.sealMarker x n

/-- The shortages reported for a request. -/
def Req.shorts (q : Req) : List Short := q.parts.filterMap fun a => match a.st with | .failed f => some f | _ => none

/-- A repeated READ waits until the checks of the DATA sent to the original have finished (R70; log 116). -/
def Sess.afterChecks (S : Sess) (q : Req) : Bool :=
  q.replay && match S.unset with | some u => decide (u.rseq = q.rq.hdr.seq) | none => false

/-- A request fails a check, and takes no part. -/
def State.failReq (s : State) (x : SessId) (q : Req) (st : Option Byte) : State :=
  s.modSes x fun S => { S with reqs := S.reqs.map fun r => if r = q then { q with parts := [], fail := st } else r }

/-- The first request that is not resolved takes its next step, if it can take one now. -/
def State.advance1 (s : State) (x : SessId) : Option State :=
  let S := s.ses x
  match S.reqs.find? fun q => decide (q.st = .claiming) with
  | none => none
  | some q =>
    if S.st ≠ .live ∨ S.afterChecks q = true then none
    else match q.fail with
      | some st =>
        let q' := { q with st := .armed, parts := [] }
        let s := s.modSes x fun S => { S with reqs := S.reqs.map fun r => if r = q then q' else r }
        if q.rq.hdr.opcode = opMgmtRead ∧ s.formBad x q.rq = false then some (s.mgmtFails x q' st)
        else some (s.refuse x q.rq st (s.formBad x q.rq) q.flags)
      | none =>
        if isMemory q.rq.hdr.opcode then
          if q.parts.all fun a => decide (a.st = .waiting) then
            if S.walled then none
            else if (s.barsNow q.rq).isSome then some (s.failReq x q (s.barsNow q.rq))
            else if q.parts.length = 1 ∨ S.v1 then some (s.sendClaims x q (decide (q.parts.length = 1)))
            else none
          else if q.parts.any fun a => decide (a.st = .sent) then none
          else if q.shorts ≠ [] then some (s.unadmitted x q q.shorts)
          else if S.walled then none
          else if (s.barsNow q.rq).isSome then some ((s.releaseParts x q).failReq x q (s.barsNow q.rq))
          else some (s.armReq x q)
        else if S.walled then none
        else some (s.armHome x q)

/-- Requests are resolved in host sequence order as far as they can be. -/
def State.advanceN : Nat → SessId → State → State
  | 0, _, s => s
  | n + 1, x, s => match s.advance1 x with
    | some s => State.advanceN n x s
    | none => s

/-- A native session's claims for later requests of two parts are sent ahead, in order (R99, R103). -/
def State.claimAhead (s : State) (x : SessId) : State :=
  if (s.ses x).v1 ∨ (s.ses x).st ≠ .live then s
  else
    let may := fun (q : Req) => decide (q.st ≠ .claiming) || q.fail.isSome ||
      (isMemory q.rq.hdr.opcode && decide (q.parts.length = 2) && !(s.ses x).afterChecks q)
    (((s.ses x).reqs.takeWhile may).filter fun q =>
      decide (q.st = .claiming) && q.fail.isNone && q.parts.all fun a => decide (a.st = .waiting)).foldl
        (fun s (q : Req) => s.sendClaims x q false) s

/-- The answer to a request that has completed already (Table 2.7, Table 11.2). DESIGN CHOICE (log 44): the ACK of a repeated rollover
ENROLL carries its payload again while its exchange is pending; that of a repeated ENROLL_FINISH carries no confirmation. -/
def State.again (s : State) (x : SessId) (r : Rq) (c : Cached) : State :=
  let seq := r.hdr.seq
  let op := if c.bad then r.hdr.opcode else c.opcode
  let flags := flagsOf false false true false false false
  if op = opRead ∨ op = opMgmtRead then
    if c.bad = false ∧ c.status = stBusy then
      s.wait x { hdr := { opcode := opNak, status := stBusy, flags, ref := seq, aux := seq, count := r.hdr.count } }
    else
      let fail := s.screen x r
      let q : Req := { rq := r, fail, replay := true, parts := if isMemory r.hdr.opcode && fail.isNone then r.parts s.part else [] }
      s.modSes x fun S => { S with reqs := S.reqs ++ [q] }
  else if c.bad then
    if isAtomic op then
      s.wait x { hdr := { opcode := opResult, status := stInternal, flags, ref := seq, count := r.hdr.count }, payload := beBytes 8 0 }
    else s.wait x { hdr := { opcode := opAck, status := stInternal, flags, ref := seq, count := r.hdr.count } }
  else if c.status = stBusy then
    s.wait x { hdr := { opcode := opNak, status := stBusy, flags, ref := seq, aux := seq, count := r.hdr.count } }
  else if isAtomic op then
    s.wait x { hdr := { opcode := opResult, status := c.status, flags := c.flags ||| flags, ref := seq, count := r.hdr.count }
               payload := beBytes 8 c.old.toNat }
  else
    let offer := match (s.ses x).roll with
      | some o => if op = opEnroll ∧ o.rq.hdr.seq = seq then o.ack else []
      | none => []
    s.wait x { hdr := { opcode := opAck, status := c.status, flags := c.flags ||| flags, ref := seq, count := r.hdr.count }
               payload := offer }

/-- A repeat of a request that was being performed again is answered in turn once that has completed (R58, R66). -/
def State.rerunN : Nat → SessId → State → State
  | 0, _, s => s
  | n + 1, x, s =>
    let S := s.ses x
    match S.repeats.find? fun r => !(S.reqs.any fun q => decide (q.rq.hdr.seq = r.hdr.seq)) with
    | none => s
    | some r =>
      let s := s.modSes x fun S => { S with repeats := S.repeats.erase r }
      State.rerunN n x (match Tab.find S.cache r.hdr.seq.toNat with
        | some c => s.again x r c
        | none => s.lcnt S.port S.link 6)

/-- A session goes on: waiting frames are sent, management requests go on, requests are resolved, claims sent ahead. -/
def State.settle (s : State) (x : SessId) : State :=
  let s := s.flush x
  let s := State.bridgeN (s.ses x).reqs.length x s
  let s := State.rerunN (s.ses x).repeats.length x s
  let s := State.advanceN (3 * (s.ses x).reqs.length) x s
  ((s.claimAhead x).flush x).pnCheck x

def State.settleAll (s : State) : State := (List.finRange 64).foldl (fun s x => s.settle x) s

/-! ### Acceptance (R58, R66) -/

/-- A request is accepted: e advances, and its checks and parts are settled. -/
def State.accept (s : State) (x : SessId) (r : Rq) : State :=
  let fail := s.screen x r
  let q : Req := { rq := r, fail, parts := if isMemory r.hdr.opcode && fail.isNone then r.parts s.part else [] }
  s.modSes x fun S => { S.seen r.hdr.seq with e := S.e + 1, gap := none, reqs := S.reqs ++ [q] }

/-- A sequenced request that has passed R46 arrives (R56, R58). -/
def State.arrive (s : State) (x : SessId) (r : Rq) : State :=
  let s := s.readAck x r.hdr.ack
  let S := s.ses x
  let d := (r.hdr.seq - S.e).toNat
  let count := fun (s : State) => s.lcnt S.port S.link 6
  let s :=
    if d = 0 then s.accept x r
    else if d < 4096 then ((count s).modSes x fun S => S.seen r.hdr.seq).ahead x r.hdr.seq
    else if 2 ^ 32 - 4096 ≤ d then
      if S.reqs.any fun q => decide (q.rq.hdr.seq = r.hdr.seq) && q.replay then
        s.modSes x fun S => { S with repeats := S.repeats ++ [r] }
      else if S.reqs.any fun q => decide (q.rq.hdr.seq = r.hdr.seq) then count s
      else match Tab.find S.cache r.hdr.seq.toNat with
        | some c => s.again x r c
        | none => count s
    else count s
  s.settle x

/-- A protected frame that has passed its ICV and the replay check: R46, then by opcode (R54). -/
def State.protectedFrame (s : State) (x : SessId) (r : Rq) : State :=
  let S := s.ses x
  if s.r46 x r = false then s.lcnt S.port S.link 6
  else if r.hdr.opcode = opNak ∨ r.hdr.opcode = opKeepalive then (s.unseq x r).settle x
  else s.arrive x r

/-- A request of a row of the table arrives for the LIVE session it names: the frame that carried it has passed MACsec now (R90). -/
def State.request (s : State) (op : BitVec 8) (r : Rq) : State :=
  let x := r.hdr.session
  if (s.ses x).st = .live then (s.modSes x fun S => { S with rxAt := s.now }).protectedFrame x { r with hdr := { r.hdr with opcode := op } } else s

/-- BARRIER_ACK (R138). -/
def State.barrierAck (s : State) (x : SessId) : State :=
  let S := s.ses x
  match S.reqs with
  | [] => s
  | q :: _ =>
    if S.st = .live ∧ q.rq.hdr.opcode = opBarrier ∧ q.st = .armed ∧ q.fail = none ∧ S.unset = none ∧
        (S.waitQ.any fun w => decide (w.rseq = some q.rq.hdr.seq)) = false then
      (s.ack x q.rq stOk).settle x
    else s

/-! ### Messages -/

/-- A tile that takes messages: the mesh is on, and the tile has no replay ahead of it. -/
def State.hears (s : State) (t : TileId) : Bool :=
  s.meshOn && s.coreOn t && !(s.tile t).ctl.replayDue

/-- The first message from one tile to another (R20). -/
def State.firstMsg (s : State) (src dst : TileId) : Option Msg := s.mesh.find? fun m => decide (m.src = src ∧ m.dst = dst)
/-- The mesh without that message. -/
def dropFirst (src dst : TileId) : List Msg → List Msg
  | [] => []
  | m :: l => if m.src = src ∧ m.dst = dst then l else m :: dropFirst src dst l
def State.takeMsg (s : State) (src dst : TileId) : State := { s with mesh := dropFirst src dst s.mesh }

/-- CLAIM (R99): the result goes back ahead of anything the part sends. A claim of a session that has ended takes nothing. -/
def State.msgClaim (s : State) (src dst : TileId) : State :=
  match s.firstMsg src dst with
  | some { body := .claim x rq part first n tla mark armNow, .. } =>
    if s.hears dst then
      let s := s.takeMsg src dst
      if (s.ses x).st = .live then
        let id := freeId (s.tile dst).adm.cells
        let (s, f) := s.claim dst src x rq first n tla mark
        let s := s.send dst src (.claimResult x rq.hdr.seq part f)
        if armNow ∧ f = none then
          (match s.barsNow rq with
          | some st => (s.modCell dst id fun c => { c with res := { c.res with status := st } }).armPart dst id
          | none => s.armPart dst id)
        else s
      else s
    else s
  | _ => s

/-- CLAIM_RESULT (R98, R104). -/
def State.msgResult (s : State) (src dst : TileId) : State :=
  match s.firstMsg src dst with
  | some { body := .claimResult x seq part f, .. } =>
    if s.hears dst then
      let s := s.takeMsg src dst
      let S := s.ses x
      if S.st ≠ .live then s
      else if Tab.get 0 S.stale src.val ≠ 0 then
        s.modSes x fun S => { S with stale := Tab.upd 0 S.stale src.val fun n => n - 1 }
      else match S.reqs.find? fun q => decide (q.rq.hdr.seq = seq ∧ q.st = .claiming) &&
          q.parts.any fun p => decide (p.tile = src ∧ p.first = part ∧ p.st = .sent) with
        | none => s
        | some q =>
          let alone := decide (q.parts.length = 1)
          let st : PartSt := match f with
            | some f => .failed f
            | none => if alone then .armed else .claimed
          let q' := { q with
            st := if alone ∧ f = none then .armed else .claiming
            parts := q.parts.map fun p => if p.tile = src then { p with st } else p }
          let s := s.modSes x fun S => { S with reqs := S.reqs.map fun o => if o = q then q' else o }
          (if alone ∧ f = none then s.sealMarker x S.consumed else s).settle x
    else s
  | _ => s

/-- ARM (R100). One of a session that has ended arms the part where the other part has been armed, which is then finished or released
(R92, R111; log 149). -/
def State.msgArm (s : State) (src dst : TileId) : State :=
  match s.firstMsg src dst with
  | some { body := .arm x seq part, .. } =>
    if s.hears dst then
      let s := s.takeMsg src dst
      match s.cellOf dst x seq with
      | some id =>
        if (s.ses x).st = .live then s.armPart dst id
        else if part = 0 then (s.armPart dst id).endCell dst id
        else s
      | none => s
    else s
  | _ => s

/-- DROP_REMAINDER (R102). -/
def State.msgDrop (s : State) (src dst : TileId) : State :=
  match s.firstMsg src dst with
  | some { body := .drop x seq, .. } => if s.hears dst then (s.takeMsg src dst).dropPart dst x seq else s
  | _ => s

/-- REWIND (R103). -/
def State.msgRewind (s : State) (src dst : TileId) : State :=
  match s.firstMsg src dst with
  | some { body := .rewind x, .. } => if s.hears dst then (s.takeMsg src dst).rewind dst x else s
  | _ => s

/-- PART_COMPLETION (R30). -/
def State.msgDone (s : State) (src dst : TileId) : State :=
  match s.firstMsg src dst with
  | some { body := .completion x epoch seq part r, .. } =>
    if s.hears dst then
      let s := s.takeMsg src dst
      if (s.ses x).st = .live ∧ (s.ses x).epoch = epoch then (s.partDone x seq part r).settle x else s
    else s
  | _ => s

/-! ### A tile that leaves while the device runs -/

/-- The tile has issued the completion of a part, and it is on the mesh (R20). -/
def State.issued (s : State) (t : TileId) (x : SessId) (seq : Word) (first : Nat) : Bool :=
  s.mesh.any fun m => decide (m.src = t) && match m.body with | .completion y _ q p _ => decide (y = x ∧ q = seq ∧ p = first) | _ => false

/-- Claim results of a session that a tile has issued and that are on the mesh. -/
def State.issuedResults (s : State) (t : TileId) (x : SessId) : Nat :=
  (s.mesh.filter fun m => decide (m.src = t) && match m.body with | .claimResult y _ _ _ => decide (y = x) | _ => false).length

/-- A tile that is leaving service keeps its cells and the logic that acts on them: what is sent about them takes effect there, now or
as the tile's logic runs again. -/
def State.keepsCells (s : State) (t : TileId) : Bool :=
  s.meshOn && s.coreOn t && s.sramOn t && !(s.tile t).ctl.draining && !decide ((s.tile t).ctl.st = .stopped ∨ (s.tile t).ctl.st = .out)

/-- What is on its way to a tile as it leaves service is still delivered: a result to the home tile it goes on being, while its core and
the mesh run, and what concerns the cells it keeps; a new claim takes nothing (R20; log 25). -/
def State.stillTaken (s : State) (t : TileId) : MsgBody → Bool
  | .claim _ _ _ _ _ _ _ _ => false
  | .claimResult _ _ _ _ => s.meshOn && s.coreOn t
  | .completion _ _ _ _ _ => s.meshOn && s.coreOn t
  | _ => s.keepsCells t

/-- Requests in flight that touch a tile which stops alone complete with OFFLINE, unless the tile has issued their completion, which
the mesh still delivers (R20). What is on its way to logic of the tile that no longer runs has no effect (log 25). -/
def State.offlineTile (s : State) (t : TileId) : State :=
  let s := { s with mesh := s.mesh.filter fun m => decide (m.dst ≠ t) || s.stillTaken t m.body }
  (List.finRange 64).foldl (fun s x =>
    let S := s.ses x
    if S.st ≠ .live then s
    else
      let n := s.issuedResults t x
      let s := s.modSes x fun S => { S with stale := Tab.upd 0 S.stale t.val fun k => min k n }
      let open_ := S.reqs.filter fun q => decide (q.st = .claiming) && q.fail.isNone &&
        q.parts.any fun p => decide (p.tile = t) && !s.issued t x q.rq.hdr.seq p.first
      let s := open_.foldl (fun s (q : Req) =>
        let q' := { q with parts := q.parts.filter fun p => decide (p.tile ≠ t) }
        let s := (s.releaseParts x (if s.keepsCells t then q else q')).expectStale x q'
        s.modSes x fun S => { S with reqs := S.reqs.map fun o => if o = q then { q with parts := [], fail := some stOffline } else o }) s
      let armed := (S.reqs.filter fun q => decide (q.st = .armed)).flatMap fun q =>
        (q.parts.filter fun p => decide (p.tile = t ∧ p.st = .armed) && !s.issued t x q.rq.hdr.seq p.first).map fun p => (q.rq.hdr.seq, p.first)
      let s := armed.foldl (fun s (e : Word × Nat) => s.partDone x e.1 e.2 { status := stOffline }) s
      s.settle x) s

end Sys2Proof.Machine
end

