-- ==== Sys2Proof/Machine/Receive.lean ====
section
/-! DEFINITION. A frame at a link: the MAC and tag checks (R39, R40, R42), MACsec (R43, R44, R85, R93, R94), and the handover to
enrollment or to the session's transport. -/

namespace Sys2Proof.Machine

/-- A frame's length lies in the range of Table 2.2. -/
def lengthOk (l : List Byte) : Bool := decide (64 ≤ l.length ∧ l.length ≤ 4694)

/-- The MAC takes the frame: every codeword corrected, the FCS right, the length in range (R39). -/
def macOk (f : RxFrame) : Bool := decide (f.fecUncorrected = 0) && fcsGood f.bytes && lengthOk f.bytes

/-- The MAC's counters (PORT_LCNT). -/
def State.macCounts (s : State) (p : PortId) (j : LinkId) (f : RxFrame) : State :=
  let s := s.lcnt p j 2 f.fecCorrected
  let s := s.lcnt p j 1 f.fecUncorrected
  let s := if fcsGood f.bytes then s else s.lcnt p j 0
  if lengthOk f.bytes then s else s.lcnt p j 3

/-- The C-tag is as CLEAR_TAG asks (R42). -/
def Port.tagOk (q : Port) (c : Option CTag) : Bool := match c with
  | none => !q.clearTag
  | some c => q.clearTag && decide (c.vid = q.vlan)

/-- The session bound to the association a SecTAG names on a link (R46, R86). -/
def State.bound (s : State) (p : PortId) (j : LinkId) (c : SecTag) : Option SessId :=
  (List.finRange 64).find? fun x =>
    let S := s.ses x
    decide (S.st = .live ∧ S.port = p ∧ S.link = j ∧ S.sci = c.sci) && S.rx.any fun a => decide (a.an = c.an)

/-- REPLAY_WIN of SES_CTL. -/
def State.replayWin (s : State) : Nat := s.sesCtl.toNat / 2048 % 1024

/-- What a protected frame carries, once MACsec has passed it: the Jilum EtherType, header and payload. DESIGN CHOICE (log 115): one
with another EtherType, or too short for a header, is dropped, and counted nowhere. -/
def State.inner (s : State) (x : SessId) (plain : List Byte) : State :=
  if beAt plain 0 2 = s.cfg.etherType.toNat then
    match Rq.ofBytes (plain.drop 2) with
    | some r => s.protectedFrame x r
    | none => s
  else s

/-- MACsec on a protected frame: no association, a bad ICV, a replay, or a frame of the session (R43, R85, R93, R94). -/
def State.macsec (s : State) (p : PortId) (j : LinkId) (l : List Byte) (c : SecTag) : State :=
  if c.tci ≠ tciGood ∨ slGood l c = false then s.stranger p j 1 (frameSa l)
  else match s.bound p j c with
    | none => s.stranger p j 1 (frameSa l)
    | some x => match (s.ses x).rx.find? fun a => decide (a.an = c.an) with
      | none => s.stranger p j 1 (frameSa l)
      | some a =>
        let pn := a.recover s.replayWin c.pn
        match unprotect a (BitVec.ofNat 64 pn) l with
        | none => s.stranger p j 2 (frameSa l)
        | some plain =>
          if pn < a.lowest s.replayWin then
            -- a frame that fails the replay check is not a stranger frame
            s.modStrg p j fun g => { g with cnt := Tab.bump g.cnt 4 }
          else (s.heard x c.an pn (frameTag l)).inner x plain

/-- An unprotected Jilum frame (R44). -/
def State.clearFrame (s : State) (p : PortId) (j : LinkId) (e : EnrFrame) : State :=
  if e.rq.hdr.opcode = opEnroll then s.enrollArrives p j e
  else if e.rq.hdr.opcode = opFinish then s.finishArrives p j e
  else s.stranger p j 0 e.sa

/-- An enrollment frame of a row of the table: it carries the C-tag that the link asks for, or is dropped (R42). -/
def State.enrFrame (s : State) (p : PortId) (j : LinkId) (e : EnrFrame) : State :=
  if (s.port p).tagOk e.ctag = false then s.lcnt p j 5
  else if s.meshOn then s.clearFrame p j e else s

/-- A frame without a SecTAG (R44). -/
def State.clear (s : State) (p : PortId) (j : LinkId) (l : List Byte) : State :=
  match frameClear l with
  | some r => if frameType l = s.cfg.etherType.toNat then s.clearFrame p j { sa := frameSa l, ctag := frameTag l, rq := r }
    else s.stranger p j 0 (frameSa l)
  | none => s.stranger p j 0 (frameSa l)

/-- RECEIVE_FRAME: a frame at the receive pins of a link that is `UP`. -/
def State.receive (s : State) (p : PortId) (j : LinkId) (f : RxFrame) : State :=
  if s.link p j ≠ .up then s
  else
    let s := s.macCounts p j f
    let l := f.bytes
    if macOk f = false then s
    else if frameDa l = pauseMac ∧ beAt l 12 2 = pauseType then s.lcnt p j 4
    else if frameDa l ≠ s.linkMac p j then s
    else if (s.port p).tagOk (frameTag l) = false then s.lcnt p j 5
    else if s.meshOn = false then s
    else match frameSec l with
      | some c => s.macsec p j l c
      | none => s.clear p j l

end Sys2Proof.Machine
end

