-- ==== Sys2Proof/Machine/Sram.lean ====
section
/-! DEFINITION. Uncorrectable SRAM words (R297, R298, Tables 10.8 and 11.2). -/

namespace Sys2Proof.Machine

/-- An intake cell whose word is uncorrectable: its part completes with INTERNAL and the cell is freed; a CLAIMED part
completes as it would be armed. Checks that were pending on it count as failed. -/
def State.cellLost (s : State) (t : TileId) (id : Nat) : State :=
  match s.cell? t id with
  | none => s
  | some c =>
    if c.n = 0 then
      match (s.ses c.sess).reqs.find? fun q => decide (q.cell = some id) with
      | some q =>
        if (s.ses c.sess).waitQ.any fun w => decide (w.rseq = some q.rq.hdr.seq) then s else s.refuse c.sess q.rq stInternal false q.flags
      | none => s.release t id
    else if c.st = .claimed then s.modCell t id fun c => { c with res := { c.res with status := stInternal } }
    else if c.reported then
      let s := c.pending.foldl (fun s i => s.outcome c.sess c.seq (c.first + i) false) s
      s.release t id
    else
      let s := s.abortCell t id c
      let s := s.send t c.home (.completion c.sess (s.ses c.sess).epoch c.seq c.first { status := stInternal })
      (s.release t id).serveWaiting t

/-- Staging frames that cells hold and have not turned into staged lines. -/
def Cell.frames (c : Cell) : Nat :=
  c.extra + ((List.range c.n).filter fun i =>
    decide (c.took.getD i true = false) && (decide (c.st = .claimed) || decide (c.phaseAt i ≠ .served))).length

/-- Translation restore: a tile fault reset, then the state of the last checkpoint with the journal replayed; span bits are set
for every line a record or staging names. -/
def State.restoreXlt (s : State) (t : TileId) : State :=
  let s := s.modSec t fun a => { a with rolling := [], imaged := [], rollPages := [] }
  let s := s.tileFault t 2
  let sp := s.replaySpans t
  let o := s.orphanStrata t
  s.modTile t fun T =>
    let staged := T.adm.resettle
    let x := T.xlt.settle o
    { T with
      adm := { T.adm with staged, stFree := 1572864 - staged.length - (T.adm.cells.map fun e => e.2.frames).sum }
      xlt := { x with
        spans := staged.foldl (fun (m : Tab Bool) e => Tab.put false m (e.1 / 1024) true) sp
        orphans := x.orphaned.length, orphaned := [] } }

/-- An object of the counter/tree cache (Table 10.8): a clean one is fetched again, a dirty one loses its range. At level 10 stand the
copies of the root: one that is lost holds a free value, and where no two agree every range is lost. -/
def State.treeWordLost (s : State) (t : TileId) (key : Nat) : State :=
  if keyLevel key = 10 then
    let (x, s) := s.draw 280
    let l := (List.range 5).map fun i => x.extractLsb' (56 * i) 56
    let s := s.modSec t fun a => match keyIndex key with
      | 0 => { a with root := l }
      | 1 => { a with rootB := l }
      | _ => { a with rootC := l }
    if (s.tile t).sec.rootSplit then s.addLost t 0 10 5 else s
  else
    let gone := s.modSec t fun a => { a with cached := Tab.put none a.cached key none }
    match Tab.get none (s.tile t).sec.cached key with
    | some true => gone.addLost t (keyIndex key * 8 ^ keyLevel key) (keyLevel key) 2
    | some false => if 7 ≤ keyLevel key then gone.wantNode t key else gone
    | none => s

/-- A retained frame of a session, by its place from the oldest, cannot be resent. -/
def State.frameLost (s : State) (x : SessId) (i : Nat) : State :=
  s.modSes x fun S => { S with retain := S.retain.zipIdx.map fun e => if e.2 = i then { e.1 with bad := true } else e.1 }

/-- An entry of a completion cache is unreadable. -/
def State.cacheLost (s : State) (x : SessId) (seq : Nat) : State :=
  s.modSes x fun S => { S with cache := match Tab.find S.cache seq with
    | some c => Tab.ins seq { c with bad := true } S.cache
    | none => S.cache }

/-- A session number from an item. -/
def sessOf (n : Nat) : SessId := ⟨n % 64, Nat.mod_lt _ (by decide)⟩

/-- The action of Table 11.2. `item`: a tile-local line; 64 × cell + index; a cell; a session; an overlay line or page; a map page; a
cached object, or a copy of the root; a word of the schedule store; 4,096 × session + place; 2^32 × session + SEQ. -/
def State.wordLost (s : State) (t : TileId) (struct : BitVec 4) (item : Nat) : State := match struct.toNat with
  | 0x0 => s.modAdm t fun a => match Tab.find a.staged item with
      | some f => { a with staged := Tab.ins item { f with poison := true } a.staged }
      | none => a
  | 0x1 => s.modCell t (item / 64) fun c => { c with bad := item % 64 :: c.bad }
  | 0x2 => s.cellLost t item
  | 0x3 => if s.home (sessOf item) = t then s.markerLost (sessOf item) else s
  | 0x4 => s.restoreXlt t
  | 0x5 => s.modXlt t fun a => { a with cache := a.cache.filter fun e => decide (e.1 ≠ item) || e.2.dirty }
  | 0x6 => s.restoreXlt t
  | 0x7 => s.treeWordLost t item
  | 0x8 => s.modSch t fun a => { a with badWords := if a.badWords.contains item then a.badWords else item :: a.badWords }
  | 0x9 => s.frameLost (sessOf (item / 4096)) (item % 4096)
  | 0xA => s.cacheLost (sessOf (item / 2 ^ 32)) (item % 2 ^ 32)
  | 0xB => s.rollToken t
  | _ => s.tileFault t 2

/-- SRAM_UNCORRECTABLE: the word is counted, recorded and reported, and its structure's action is taken. A corrected word is counted,
recorded and gathered for TILE_SRAM_CORR, and nothing else changes: the array keeps its wrong bit (R296). -/
def State.sramBad (s : State) : SramSite → State
  | .tile t struct item word =>
    if s.hasTile t && s.sramOn t then
      let s := s.modTile t fun T => { T with
        eccLast := BitVec.ofNat 32 (struct.toNat + 16 + word.toNat * 32)
        eccCnt := Tab.bump T.eccCnt (2 * struct.toNat + 1) }
      let s := s.raise (tsrc t 1) (fld 0 struct.toNat ||| fld 4 word.toNat)
      s.wordLost t struct item
    else s
  | .mesh block => if s.meshOn then (s.raise 11 (fld 0 block.toNat)).askWarm 2 else s
  | .corrected t struct word =>
    if s.hasTile t && s.sramOn t then
      let s := s.modTile t fun T => { T with
        eccLast := BitVec.ofNat 32 (struct.toNat + word.toNat * 32)
        eccCnt := Tab.bump T.eccCnt (2 * struct.toNat) }
      s.raise (tsrc t 2) 1 true fun d => BitVec.ofNat 64 (min (d.toNat + 1) 0xFFFFFFFF)
    else s
  | .meshCorrected =>
    if s.meshOn then s.modEvt fun e => { e with mecc := BitVec.ofNat 32 (min (e.mecc.toNat + 1) 0xFFFFFFFF) } else s

end Sys2Proof.Machine
end

