-- ==== Sys2Proof/Machine/Gate.lean ====
section
/-! DEFINITION. What the meanings of the commands share: when a command is enabled, which register address it reaches, and what
follows when a tile leaves service (R2, R26, R316, R345, R396; log 25). -/

namespace Sys2Proof.Machine

/-- The answer of a command. -/
abbrev Out := Host.Outcome State Fault Refusal

/-- The next state of a command that acts where `b` holds and the device is powered; an event that cannot happen in a state
leaves it as it is (log 35). -/
def State.doIf (s : State) (b : Bool) (f : State → State) : Out := .next (if s.powered && b then f s else s)

/-- The same for a command that names a stratum, page or group: one that the spec says does not exist faults. -/
def State.doPlace (s : State) (n limit : Nat) (b : Bool) (f : State → State) : Out :=
  if limit ≤ n then .fault (.noSuchPlace n) else s.doIf b f

/-- Address of a register of a tile, and of a port, by its offset (Tables 16.2 and 16.3). -/
def tileAddr (t : TileId) (o : Nat) : Nat := 0x1000000 + 0x100000 * t.val + o
def portAddr (p : PortId) (o : Nat) : Nat := tileAddr (portTile p) (0x10000 + 0x8000 * (p.val % 2) + o)

/-- A register that is fitted and whose clock runs: a write of it takes effect (R2, R345, R396). -/
def State.reach (s : State) (a : Nat) : Bool := match blockOf a with
  | some (b, o) => decide (a % 4 = 0) && s.blockFitted b && s.regRuns b o
  | none => false

/-- A write of a register by a command. -/
def State.writeAt (s : State) (a : Nat) (v : Word) : State := match blockOf a with
  | some (b, o) => s.writeReg b o v
  | none => s

/-- A tile whose cells and staging have gone, or that is being drained. -/
def State.gone (s : State) (t : TileId) : Bool :=
  !(s.coreOn t && s.sramOn t && s.mioOn t) || (s.tile t).ctl.draining ||
  decide ((s.tile t).ctl.st = .stopped ∨ (s.tile t).ctl.st = .out)

/-- After a command: requests that touch a tile which has left service by it complete with OFFLINE (R26, log 25), and every
session goes on as far as it can. -/
def State.after (s s' : State) : State :=
  (s'.fitted.foldl (fun s' t => if !s.gone t && s'.gone t then s'.offlineTile t else s') s').settleAll

/-- One core cycle passes with no command (R7, R308; log 35): the performance counters of every tile see it. -/
def State.idle (s : State) : State := s.fitted.foldl State.pmcCycle { s with now := s.now + 1 }

/-- A command that may take tiles out of service. -/
def State.doAll (s : State) (b : Bool) (f : State → State) : Out := s.doIf b fun s => s.after (f s)

end Sys2Proof.Machine
end

