-- ==== Sys2Proof/Machine/CmdDebug.lean ====
section
/-! DEFINITION. Commands of JTAG, the debug access port and the test DMA (R293, R406 to R408). -/

namespace Sys2Proof.Machine

/-- IDCODE (R406). -/
def execIdcode (s : State) : Out := s.doIf true State.idCode
/-- SAMPLE/PRELOAD (R406). -/
def execSamplePreload (s : State) : Out := s.doIf true fun s => s.tap 0x02 0
/-- EXTEST (R407). -/
def execExtest (s : State) : Out := s.doIf true fun s => s.tap 0x03 1
/-- CLAMP (R407). -/
def execClamp (s : State) : Out := s.doIf true fun s => s.tap 0x04 1
/-- HIGHZ (R407). -/
def execHighz (s : State) : Out := s.doIf true fun s => s.tap 0x05 2
/-- DAP_REG (R407). -/
def execDapReg (data addr : Word) (write go : Bool) (s : State) : Out :=
  s.doAll s.tapUp fun s => s.dapRegister data addr write go
/-- DAP_MEM (R407). -/
def execDapMem (data : BitVec 64) (struct : BitVec 4) (tile : TileId) (write : Bool) (s : State) : Out :=
  s.doIf s.tapUp fun s => s.dapMemory data struct tile write
/-- BYPASS, or any undefined code (R406). -/
def execBypass (code : Byte) (s : State) : Out := s.doIf (!tapCodes.contains code) fun s => s.tap code 0
/-- TAP_RESET (R406). -/
def execTapReset (s : State) : Out := s.doIf true State.tapClear
/-- DBG_CTL.LOCK (R408). -/
def execLockDebug (s : State) : Out :=
  s.doIf (s.reach 0x60004) State.lockDebug
/-- DBG_CTL.DMA_START (R408). -/
def execDmaStart (t : TileId) (s : State) : Out :=
  s.doIf (s.reach 0x60004) fun s => ({ s with dbg := { s.dbg with dmaTile := t } } : State).dmaStart t
/-- DMA_COMPLETE (R293). -/
def execDmaComplete (s : State) : Out := s.doIf true State.dmaDone

end Sys2Proof.Machine
end

