-- ==== Sys2Proof/Machine/CmdEngine.lean ====
section
/-! DEFINITION. Commands of the schedule engine and the access paths: slots, frames, superframes, reads, merges, checks, replay
(chapters 5, 8 and 10). -/

namespace Sys2Proof.Machine

/-- Slot 0 of a frame is next on a tile: its engine runs, and the frame before has had its 64 slots. -/
def State.frameDue (s : State) (t : TileId) : Bool :=
  let a := (s.tile t).sch
  a.run && (a.fresh || decide (a.k = 64 ∧ a.f < 1023))

/-- FRAME_START (R105, R113, R238, R239), with the walk of re-key passes and the background work of the frame (log 19)
and the patrol's next calibration read (R211). -/
def execFrameStart (t : TileId) (s : State) : Out := s.doIf (s.frameDue t) fun s => (((s.frame t).walk t).bgWork t).patrol t
/-- GALE_LONG (R243). -/
def execGaleLong (t : TileId) (s : State) : Out := s.doIf true fun s => s.galeLong t
/-- SLOT_DECISION (R114, R227 to R230). -/
def execSlotDecision (t : TileId) (s : State) : Out := s.doIf true fun s => s.slot t
/-- STEP_OVERDUE: a step of a program or of a remap area's record has waited 6 µs, or an erase step 12 µs (R229). -/
def execStepOverdue (t : TileId) (c : ChanId) (d : DieId) (erase : Bool) (s : State) : Out := s.doIf true fun s =>
  let x := s.die t c.val d.val
  if erase then match x.erase with
    | some (n, k, at_, false) =>
      if k < 704 then (s.till (at_ + us 12)).modDie t c.val d.val fun x => { x with erase := some (n, k, at_, true) } else s
    | _ => s
  else match x.prog, x.changes with
    | some g, _ =>
      if g.steps < 12 ∧ g.overdue = false then
        (s.till (g.at_ + us 6)).modDie t c.val d.val fun x => { x with prog := some { g with overdue := true } }
      else s
    | none, h :: r =>
      if h.steps < 12 ∧ h.overdue = false then
        (s.till (h.at_ + us 6)).modDie t c.val d.val fun x => { x with changes := { h with overdue := true } :: r }
      else s
    | none, [] => s
/-- VARIANT_LATCH: slot 0 of frame 1,023 (R233, R234). -/
def execVariantLatch (t : TileId) (s : State) : Out :=
  s.doIf ((s.tile t).sch.run && !(s.tile t).sch.fresh && decide ((s.tile t).sch.f = 1023 ∧ (s.tile t).sch.k = 0)) fun s =>
    s.modSch t fun a => { a with next := s.variant t }

/-- A superframe boundary is next: the timebase runs, and every engine that runs has had its last slot. -/
def State.boundaryDue (s : State) : Bool :=
  s.meshOn && s.coreOn 0 && !s.clk.refHold && s.fitted.all fun t =>
    let a := (s.tile t).sch
    !a.run || decide (a.f = 1023 ∧ a.k = 64)

/-- Rate-limited sources occur, each once (R300). -/
def State.limitedOccur (s : State) : State :=
  let l := s.evt.limitd
  l.foldl (fun s e => s.occur e.1 e.2.2) (s.modEvt fun e => { e with limitd := [] })

/-- A tile at a superframe boundary: the engine's start ends step 8 of a start-up; a tile that comes out of its fault reset goes on to
replay (R150, R206, R245, R358). -/
def State.tileBoundary (s : State) (t : TileId) : State :=
  let starts := !(s.tile t).sch.run
  let s := s.boundary t
  if starts && (s.tile t).sch.run then match (s.tile t).ctl.st with
    | .starting => s.mile 4
    | .faultReset => (s.driftDue t).modCtl t fun c => { c with st := .replay }
    | _ => s
  else s

/-- SUPERFRAME_START (R219, R234, R300, R302). Superframe 0 is the one in which the timebase starts (log 113). -/
def execSuperframeStart (s : State) : Out := s.doIf s.boundaryDue fun s =>
  let s := { s with sf := s.sf + 1 }
  let s := s.fitted.foldl State.tileBoundary s
  s.limitedOccur.gatherCounts

/-- CODEWORD_DECODED (R146). -/
def execCodewordDecoded (t : TileId) (id : Nat) (ok : Bool) (s : State) : Out :=
  s.doAll true fun s => (s.decoded t id ok).serveWaiting t
/-- REBUILD_COMPLETE (R193). -/
def execRebuildComplete (t : TileId) (id : Nat) (s : State) : Out :=
  s.doAll true fun s => (s.rebuilt t id).serveWaiting t
/-- MAP_FETCH_COMPLETE (R163). -/
def execMapFetchComplete (t : TileId) (page : Nat) (s : State) : Out :=
  s.doPlace page pageLimit ((s.tile t).xlt.fetching.contains page) fun s => (s.mapFetched t page).serveWaiting t
/-- COUNTER_FETCH_COMPLETE (R285). -/
def execCounterFetchComplete (t : TileId) (group : Nat) (s : State) : Out :=
  s.doPlace group groupLimit ((s.tile t).sec.fetching.contains group) fun s => (s.ctrFetched t group).serveWaiting t
/-- MERGE_COMPLETE (R134). -/
def execMergeComplete (t : TileId) (pl : PartLine) (s : State) : Out := s.doIf true fun s => s.merged t pl
/-- CHECK_OUTCOME (R285, R286). -/
def execCheckOutcome (t : TileId) (pl : PartLine) (tagOk treeOk : Bool) (s : State) : Out :=
  s.doIf true fun s => (s.checks t pl tagOk treeOk).settleAll
/-- CHECK_TIMEOUT (R285). -/
def execCheckTimeout (t : TileId) (pl : PartLine) (s : State) : Out :=
  s.doIf true fun s => (s.checked t pl false 2).settleAll
/-- SQUALL (R286). -/
def execSquall (x : SessId) (s : State) : Out := s.doIf true fun s => (s.squall x).settle x
/-- TILE_FAULT_REPLAY (R150, R151). -/
def execTileFaultReplay (t : TileId) (s : State) : Out := s.doIf true fun s => (s.replayed t).settleAll

end Sys2Proof.Machine
end

