-- ==== Sys2Proof/Machine/CmdEvent.lean ====
section
/-! DEFINITION. Commands of faults, events and counters: uncorrectable words, the clears of pending and trouble bits, performance
counters and the clears of every counter set (R12, R14, R168, R297, R303, R308 to R312). -/

namespace Sys2Proof.Machine

/-- SRAM_UNCORRECTABLE (R297), and the corrections of R296. -/
def execSramUncorrectable (w : SramSite) (s : State) : Out := s.doAll true fun s => s.sramBad w
/-- EVT_PEND_CLEAR (R14). -/
def execEvtPendClear (k : Fin 9) (mask : Word) (s : State) : Out :=
  s.doIf (s.reach (0x40100 + 4 * k.val)) fun s => s.clearPend k.val mask
/-- EVT_TRB_CLR (R303). -/
def execEvtTrbClear (src : BitVec 9) (clr all : Bool) (s : State) : Out :=
  s.doIf (s.reach 0x40004) fun s => s.clearTrouble src.toNat clr all
/-- PMC_COUNTER_OVERFLOW: the occurrence that takes a running counter past 2^48 − 1 (R309). -/
def execPmcCounterOverflow (t : TileId) (i : Fin 64) (s : State) : Out :=
  s.doIf (s.pmcRuns t i && decide (Tab.get 0 (s.tile t).pmc.cnt i.val = 0xFFFFFFFFFFFF#48)) fun s => s.pmcOnce t i
/-- PMC_SAMPLE: the occurrence that takes a sampling counter to a multiple of PERIOD (R311). -/
def execPmcSample (t : TileId) (i : Fin 64) (s : State) : Out :=
  s.doIf (s.pmcRuns t i && pmcSample (Tab.get 0 (s.tile t).pmc.cfg i.val) && decide ((s.tile t).pmc.period ≠ 0 ∧
      ((Tab.get 0 (s.tile t).pmc.cnt i.val).toNat + 1) % (s.tile t).pmc.period.toNat = 0)) fun s => s.pmcOnce t i
/-- CLR_ALL (R308). -/
def execClrAll (t : TileId) (s : State) : Out := s.doIf (s.reach (tileAddr t 0x70000)) fun s => s.pmcClear t
/-- PMC_CFG.CLR (R308). -/
def execPmcCfgClr (t : TileId) (i : Fin 64) (s : State) : Out :=
  s.doIf (s.reach (tileAddr t (0x70100 + 4 * i.val))) fun s => s.pmcClear1 t i.val
/-- POP (R311). -/
def execPop (t : TileId) (s : State) : Out := s.doIf (s.reach (tileAddr t 0x70014)) fun s => s.pmcPop t
/-- PORT_CNT_CLR (R12). -/
def execPortCntClr (p : PortId) (mask : BitVec 4) (s : State) : Out :=
  s.doIf (s.reach (portAddr p 0x10)) fun s => s.portCntClear p mask
/-- ADM_CNT_CLR (R12). -/
def execAdmCntClr (t : TileId) (s : State) : Out := s.doIf (s.reach (tileAddr t 0x20014)) fun s => s.admCntClear t
/-- XLT_CNT_CLR (R12). -/
def execXltCntClr (t : TileId) (s : State) : Out := s.doIf (s.reach (tileAddr t 0x30030)) fun s => s.xltCntClear t
/-- MED_CCNT_CLR (R12). -/
def execMedCcntClr (t : TileId) (c : ChanId) (s : State) : Out :=
  s.doIf (s.reach (tileAddr t (0x400F0 + 0x1000 * c.val))) fun s => s.medCcntClear t c
/-- MED_TCNT_CLR (R12). -/
def execMedTcntClr (t : TileId) (s : State) : Out := s.doIf (s.reach (tileAddr t 0x48018)) fun s => s.medTcntClear t
/-- SCH_CNT_CLR (R12). -/
def execSchCntClr (t : TileId) (s : State) : Out := s.doIf (s.reach (tileAddr t 0x5001C)) fun s => s.schCntClear t
/-- SEC_CNT_CLR (R12). -/
def execSecCntClr (t : TileId) (s : State) : Out := s.doIf (s.reach (tileAddr t 0x60014)) fun s => s.secCntClear t
/-- SEC_ECC_CLR (R12). -/
def execSecEccClr (t : TileId) (s : State) : Out := s.doIf (s.reach (tileAddr t 0x80000)) fun s => s.eccClear t
/-- SUP_CTL.CNT_CLR (R12). -/
def execCntClr (s : State) : Out := s.doIf (s.reach 0x10000) State.supCntClear
/-- XLT_CTL.TOKEN_ROLL (R168). -/
def execTokenRoll (t : TileId) (s : State) : Out := s.doIf (s.reach (tileAddr t 0x30000)) fun s => s.rollToken t
/-- THM_CTL.MAX_CLR (R12). -/
def execMaxClr (mask : Byte) (s : State) : Out := s.doIf (s.reach 0x30000) fun s => s.maxClr mask

end Sys2Proof.Machine
end

