-- ==== Sys2Proof/Machine/CmdLedger.lean ====
section
/-! DEFINITION. Commands of the ledger and the configuration block (chapter 14). -/

namespace Sys2Proof.Machine

/-- LEDGER_COMMIT_COMPLETE (R375). -/
def execLedgerCommitComplete (s : State) : Out := s.doAll true State.commitDone
/-- LEDGER_WINDOW_WRITE (R381). -/
def execLedgerWindowWrite (addr v : Word) (s : State) : Out :=
  s.doIf (s.reach addr.toNat && decide (0x80000 ≤ addr.toNat ∧ addr.toNat < 0xFF000)) fun s =>
    s.windowWrite (addr.toNat - 0x80000) [v]
/-- LDG_PROV.COMMIT (R370). -/
def execCommit (s : State) : Out := s.doIf (s.reach 0xFF060) State.provision
/-- CFG_CTL.RETRY (R369). -/
def execRetry (s : State) : Out := s.doIf (s.reach 0x50004) State.retryConfig

end Sys2Proof.Machine
end

