-- ==== Sys2Proof/Machine/CmdManage.lean ====
section
/-! DEFINITION. Commands of management access: the SMBus target and register writes (chapters 0 and 16). -/

namespace Sys2Proof.Machine

/-- REG_WRITE: a Block Write on the bus (R398). -/
def execRegWrite (w : SmbWrite) (s : State) : Out := s.doAll true fun s => s.blockWrite w
/-- READ_SET: a Block Write on the bus (R398). -/
def execReadSet (w : SmbWrite) (s : State) : Out := s.doAll true fun s => s.blockWrite w
/-- REG_READ (R398). -/
def execRegRead (s : State) : Out := s.doIf true State.regRead
/-- XSTATUS (R398). -/
def execXstatus (s : State) : Out := s.doIf true State.xstatus
/-- ALERT_RESPONSE (R403). -/
def execAlertResponse (s : State) : Out := s.doIf true State.alertAnswer
/-- SMBUS_STRETCH_TIMEOUT (R402). -/
def execSmbusStretchTimeout (s : State) : Out := s.doIf true State.stretchEnds
/-- SMBUS_CLOCK_HELD_LOW (R422). -/
def execSmbusClockHeldLow (s : State) : Out := s.doIf true State.smbTimedOut
/-- REGISTER_WRITE (R12). -/
def execRegisterWrite (addr v : Word) (s : State) : Out :=
  s.doAll (s.reach addr.toNat) fun s => s.writeAt addr.toNat v

end Sys2Proof.Machine
end

