-- ==== Sys2Proof/Machine/CmdMedium.lean ====
section
/-! DEFINITION. Commands of the medium: programs, erases, dies, collection, drift, patrol, checkpoints, rollover (chapters 6, 7, 10
and 15). -/

namespace Sys2Proof.Machine

/-- PROGRAM_COMPLETE (R172 to R174, R192). -/
def execProgramComplete (t : TileId) (c : ChanId) (d : DieId) (s : State) : Out :=
  s.doIf true fun s => s.programmed t c.val d.val
/-- PROGRAM_FAIL (R196, R197). -/
def execProgramFail (t : TileId) (c : ChanId) (d : DieFail) (s : State) : Out :=
  s.doIf true fun s => s.progFail t c.val d.die.val d.recovered
/-- ERASE_FAIL (R196). -/
def execEraseFail (t : TileId) (c : ChanId) (d : DieFail) (s : State) : Out :=
  s.doIf true fun s => s.eraseFailed t c.val d.die.val d.recovered
/-- ERASE_COMPLETE (R181). -/
def execEraseComplete (t : TileId) (stratum : Nat) (s : State) : Out :=
  s.doPlace stratum strataLimit true fun s => s.eraseDone t stratum
/-- ERASE_BEGIN (R182). -/
def execEraseBegin (t : TileId) (stratum : Nat) (s : State) : Out :=
  s.doPlace stratum strataLimit true fun s => s.eraseStart t stratum
/-- CHECKPOINT (R176). -/
def execCheckpoint (t : TileId) (s : State) : Out := s.doIf (s.tile t).sch.run fun s => s.checkpoint t
/-- DIE_COMMAND_TIMEOUT (R200). -/
def execDieCommandTimeout (t : TileId) (c : ChanId) (d : DieId) (s : State) : Out :=
  s.doIf (s.hasTile t && s.mioOn t) fun s => s.dieTimeout t c.val d.val
/-- MICROSEQUENCER_INTERNAL_FAULT (R200). -/
def execMicrosequencerInternalFault (t : TileId) (c : ChanId) (d : DieId) (s : State) : Out :=
  s.doIf (s.hasTile t && s.mioOn t && !(s.die t c.val d.val).recs.lost) fun s => s.loseDie t c.val d.val 1
/-- HOUSEKEEPING_ROUND (R382 to R384). -/
def execHousekeepingRound (t : TileId) (diode : DiodeConv) (railsMv : List (BitVec 12)) (s : State) : Out :=
  s.doIf true fun s => s.round t diode railsMv
/-- STRATUM_BUCKET_ENTRY (R207, R210). -/
def execStratumBucketEntry (t : TileId) (stratum : Nat) (s : State) : Out :=
  s.doPlace stratum strataLimit true fun s => s.bucketEntry t stratum
/-- STRATUM_PAD (R208). -/
def execStratumPad (t : TileId) (stratum : Nat) (s : State) : Out :=
  s.doPlace stratum strataLimit true fun s => s.pad t stratum
/-- PATROL_FINDING (R211 to R213, R215). -/
def execPatrolFinding (t : TileId) (cwa : BitVec 34) (first : Option Nat) (next : Recourse) (sets : List (Option Nat)) (s : State) : Out :=
  s.doAll true fun s => s.found t cwa first next sets
/-- SURVEY_COMPLETE (R215). -/
def execSurveyComplete (t : TileId) (s : State) : Out := s.doIf true fun s => s.surveyDone t
/-- ROLLOVER_IMAGE (R280). -/
def execRolloverImage (t : TileId) (group : Nat) (s : State) : Out :=
  s.doPlace group groupLimit true fun s => s.rollImage t group
/-- REKEY_PASS_END (R283). -/
def execRekeyPassEnd (r : RegionId) (s : State) : Out := s.doIf true fun s => s.passEnds r

end Sys2Proof.Machine
end

