-- ==== Sys2Proof/Machine/CmdMesh.lean ====
section
/-! DEFINITION. Commands of the mesh: messages between home and owning tiles, markers, barriers (chapters 1 and 4). -/

namespace Sys2Proof.Machine

/-- CLAIM (R99). -/
def execClaim (src dst : TileId) (s : State) : Out := s.doIf true fun s => s.msgClaim src dst
/-- CLAIM_RESULT (R98). -/
def execClaimResult (src dst : TileId) (s : State) : Out := s.doIf true fun s => s.msgResult src dst
/-- ARM (R100). -/
def execArm (src dst : TileId) (s : State) : Out := s.doIf true fun s => s.msgArm src dst
/-- DROP_REMAINDER (R102). -/
def execDropRemainder (src dst : TileId) (s : State) : Out := s.doIf true fun s => s.msgDrop src dst
/-- REWIND (R103). -/
def execRewind (src dst : TileId) (s : State) : Out := s.doIf true fun s => s.msgRewind src dst
/-- MARKER_SEAL_TIMEOUT (R108). -/
def execMarkerSealTimeout (x : SessId) (s : State) : Out := s.doIf true fun s => s.sealLate x
/-- PART_COMPLETION (R30). -/
def execPartCompletion (src dst : TileId) (s : State) : Out := s.doIf true fun s => s.msgDone src dst
/-- BARRIER_ACK (R138). -/
def execBarrierAck (x : SessId) (s : State) : Out := s.doIf true fun s => s.barrierAck x

end Sys2Proof.Machine
end

