-- ==== Sys2Proof/Machine/CmdPort.lean ====
section
/-! DEFINITION. Commands of the ports and links (R74, R356, R427). -/

namespace Sys2Proof.Machine

/-- PORT_CTL.ENABLE = 1 (R74). -/
def execPortEnable (p : PortId) (v : Word) (s : State) : Out :=
  s.doIf (s.reach (portAddr p 0)) fun s => s.portCtl p (v ||| 1#32)
/-- PORT_CTL.ENABLE = 0 (R74). -/
def execPortDisable (p : PortId) (v : Word) (s : State) : Out :=
  s.doIf (s.reach (portAddr p 0)) fun s => s.portCtl p (v &&& 0xFFFFFFFE#32)
/-- PORT_STOP_COMPLETE (R74). -/
def execPortStopComplete (p : PortId) (s : State) : Out := s.doIf true fun s => s.portStopped p
/-- PORT_RESET (R356). -/
def execPortReset (p : PortId) (s : State) : Out := s.doIf (s.reach (portAddr p 0)) fun s => s.portRst p
/-- LINK_UP (R427). -/
def execLinkUp (p : PortId) (l : LinkId) (s : State) : Out := s.doIf true fun s => s.trained p l
/-- LINK_LOSS (R427). -/
def execLinkLoss (p : PortId) (l : LinkId) (s : State) : Out := s.doIf true fun s => s.lostLink p l

end Sys2Proof.Machine
end

