-- ==== Sys2Proof/Machine/CmdPower.lean ====
section
/-! DEFINITION. Commands of the supervisor: power loss, the sequencer, domains, rails, off and on requests (chapter 12). A command of
the sequencer executes the instruction at PC where it is of that kind. -/

namespace Sys2Proof.Machine

/-- PWRFAIL_FALL (R336). -/
def execPwrfailFall (lowClocks : Nat) (s : State) : Out := s.doAll true fun s => s.pwrfailFalls lowClocks
/-- DRAIN_RECORD_COMMIT: the tile's record is requested (R329, R339); its commit is LEDGER_COMMIT_COMPLETE. -/
def execDrainRecordCommit (t : TileId) (s : State) : Out :=
  s.doIf (s.hasTile t && !s.clk.refHold) fun s => s.requestRecord t
/-- FINAL_RECORD (R339). -/
def execFinalRecord (s : State) : Out := s.doIf true State.finalRecord
/-- VAON_WARNING (R339). -/
def execVaonWarning (s : State) : Out := s.doIf true State.vaonWarns
/-- PWRFAIL_RISE (R340). -/
def execPwrfailRise (s : State) : Out := s.doIf true State.pwrfailRises
/-- AUTO_ON (R340). -/
def execAutoOn (s : State) : Out := s.doIf true State.autoOns
/-- END (R318). -/
def execSeqEnd (s : State) : Out := s.doIf true State.seqEnd
/-- ENABLE of the sequencer (R319). -/
def execSeqEnable (s : State) : Out := s.doIf true State.seqEnable
/-- DISABLE of the sequencer (R319). -/
def execSeqDisable (s : State) : Out := s.doAll true State.seqDisable
/-- WAIT (R318). -/
def execWait (s : State) : Out := s.doIf true State.seqWait
/-- CHECK (R322). -/
def execCheck (s : State) : Out := s.doIf true State.seqCheck
/-- JUMP (R318). -/
def execJump (s : State) : Out := s.doIf true State.seqJump
/-- MARK (R318). -/
def execMark (s : State) : Out := s.doIf true State.seqMark
/-- WAIT_EXPIRY (R318). -/
def execWaitExpiry (s : State) : Out := s.doIf true State.waitEnds
/-- CHECK_PASS (R322). -/
def execCheckPass (transitions : Byte) (s : State) : Out := s.doIf true fun s => s.checkPasses transitions
/-- CHECK_TIMEOUT_RAIL_FAIL (R323). -/
def execCheckTimeoutRailFail (transitions : Byte) (s : State) : Out := s.doAll true fun s => s.checkFails transitions
/-- DOMAIN_ON (R316). -/
def execDomainOn (d : DomainId) (s : State) : Out :=
  s.doAll (s.hasDom d && decide ((s.sup.dom d).st = .starting)) fun s => (s.domStarted d).seqGoOn.retryEnds
/-- DOMAIN_START_TIMEOUT: 20 µs after the enable (R316). -/
def execDomainStartTimeout (d : DomainId) (s : State) : Out :=
  s.doAll (s.hasDom d && decide ((s.sup.dom d).st = .starting)) fun s =>
    ((s.till (s.sup.since + us 20)).modDom d fun x => { x with st := .off, failed := true }).seqGoOn.retryEnds
/-- DOMAIN_OFF (R334). -/
def execDomainOff (d : DomainId) (s : State) : Out :=
  s.doAll (s.hasDom d && decide ((s.sup.dom d).st = .stopping)) fun s =>
    ((s.domLost d).modDom d fun x =>
      if x.pendEn then { x with st := .starting, pendEn := false, failed := false } else x).seqGoOn.retryFalls
/-- PG_FALL (R324): PG falls for so many AON clocks; 0 clocks: a PG that had fallen for good is high again (R314). -/
def execPgFall (x : RailId) (clocks : Nat) (s : State) : Out := s.doAll true fun s => s.pgPulse x clocks
/-- RUNNING_FAULT (R324). -/
def execRunningFault (x : RailId) (s : State) : Out := s.doAll true fun s => s.pgFalls x true
/-- RETRY_OFF_EXPIRY (R325). -/
def execRetryOffExpiry (x : RailId) (s : State) : Out := s.doAll true fun s => s.retryAgain x
/-- SYSTEM_ACTION (R327). -/
def execSystemAction (s : State) : Out := s.doAll true State.systemBegins
/-- SYSTEM_DRAIN_TIMEOUT (R327). -/
def execSystemDrainTimeout (s : State) : Out := s.doIf true State.systemTimeout
/-- SUP_CTL.OFF (R328). -/
def execOff (s : State) : Out := s.doAll (s.reach 0x10000) State.offReq
/-- SUP_CTL.ON (R328). -/
def execOn (s : State) : Out := s.doIf (s.reach 0x10000) State.onReq
/-- CLEAN_STOP_TIMEOUT (R329). -/
def execCleanStopTimeout (t : TileId) (s : State) : Out := s.doAll true fun s => s.cleanStopLate t
/-- MINIMUM_OFF_TIME_EXPIRY (R331). -/
def execMinimumOffTimeExpiry (s : State) : Out := s.doIf true State.offTimeEnds
/-- VGPIO_PRELUDE (R317). -/
def execVgpioPrelude (p : Prelude) (s : State) : Out := s.doIf true fun s => s.prelude_ p
/-- PRELUDE_REPEAT (R317). -/
def execPreludeRepeat (s : State) : Out := s.doIf true State.preludeAgain
/-- ON_PROGRAMME_BEGINS (R336). -/
def execOnProgrammeBegins (s : State) : Out := s.doIf true State.onBegins

end Sys2Proof.Machine
end

