-- ==== Sys2Proof/Machine/CmdRegion.lean ====
section
/-! DEFINITION. Commands of the regions: the admin steps of Table 10.2, each a write of one register by the lock's holder, and the
ends of shutdowns and leases (chapters 4 and 10). -/

namespace Sys2Proof.Machine

/-- A step of the lock's holder that writes one register of a region. -/
def State.regionStep (s : State) (r : RegionId) (o : Nat) (w : Writes) : Out :=
  s.doIf (s.reach (rgnAddr r o).toNat) fun s => (s.holderStep r w (rgnAddr r o)).settleAll

/-- A command of Table 10.2, with MODE as it stands. -/
def State.cmdWrite (s : State) (r : RegionId) (cmd : Nat) : Writes :=
  { ctl := some (BitVec.ofNat 32 (bit 0 (s.rgn r).compact + 2 * cmd)) }

/-- RGN_BASE (R267). -/
def execRgnBaseWrite (r : RegionId) (v : Word) (s : State) : Out := s.regionStep r 0 { base := some v }
/-- RGN_SIZE (R267). -/
def execRgnSizeWrite (r : RegionId) (v : Word) (s : State) : Out := s.regionStep r 4 { size := some v }
/-- RGN_CTL with CMD 0 (R265). -/
def execModeWrite (r : RegionId) (compact : Bool) (s : State) : Out :=
  s.regionStep r 8 { ctl := some (BitVec.ofNat 32 (bit 0 compact)) }
/-- ENABLE (R267). -/
def execEnable (r : RegionId) (s : State) : Out := s.regionStep r 8 (s.cmdWrite r 1)
/-- ONLINE (R267). -/
def execOnline (r : RegionId) (s : State) : Out := s.regionStep r 8 (s.cmdWrite r 2)
/-- READ_ONLY (R267). -/
def execReadOnly (r : RegionId) (s : State) : Out := s.regionStep r 8 (s.cmdWrite r 3)
/-- OFFLINE (R267). -/
def execOffline (r : RegionId) (s : State) : Out := s.regionStep r 8 (s.cmdWrite r 4)
/-- ZEROIZE (R268). -/
def execZeroize (r : RegionId) (s : State) : Out := s.regionStep r 8 (s.cmdWrite r 5)
/-- DISABLE (R267). -/
def execDisable (r : RegionId) (s : State) : Out := s.regionStep r 8 (s.cmdWrite r 6)
/-- REKEY (R283). -/
def execRekey (r : RegionId) (s : State) : Out := s.regionStep r 8 (s.cmdWrite r 7)
/-- LOST_ZEROIZE (R291). -/
def execLostZeroize (r : RegionId) (s : State) : Out := s.regionStep r 8 (s.cmdWrite r 8)
/-- LOST_REKEY (R291). -/
def execLostRekey (r : RegionId) (s : State) : Out := s.regionStep r 8 (s.cmdWrite r 9)
/-- REGION_SHUTDOWN_COMPLETE (R269). -/
def execRegionShutdownComplete (r : RegionId) (s : State) : Out := s.doIf true fun s => (s.shutdown r).settleAll
/-- LEASE_EXPIRY (R120). -/
def execLeaseExpiry (r : RegionId) (s : State) : Out := s.doIf true fun s => s.leaseExpires r
/-- LEASE_BREAK_RESOLUTION (R121). -/
def execLeaseBreakResolution (r : RegionId) (s : State) : Out := s.doIf true fun s => (s.resolveLease r).settleAll

end Sys2Proof.Machine
end

