-- ==== Sys2Proof/Machine/CmdReset.lean ====
section
/-! DEFINITION. Commands of clocks, resets and start-up (chapter 13), with the loss of VAON. -/

namespace Sys2Proof.Machine

/-- COLD_RESET (R413). -/
def execColdReset (c : ColdCause) (s : State) : Out := .next (s.cold c)
/-- LOSS_OF_VAON (R375). -/
def execLossOfVaon (s : State) : Out := .next s.loseVaon
/-- WARM_RESET (R354). -/
def execWarmReset (s : State) : Out := s.doIf true State.warmReset
/-- TILE_FAULT_RESET, with a cause of Table 13.6 (R356). -/
def execTileFaultReset (t : TileId) (cause : Byte) (s : State) : Out :=
  s.doIf (s.hasTile t && s.coreOn t && !s.clk.refHold && faultCause cause) fun s => s.tileFault t cause
/-- WATCHDOG (R356). -/
def execWatchdog (t : TileId) (s : State) : Out :=
  s.doIf (s.hasTile t && s.coreOn t && !s.clk.refHold) fun s => s.tileFault t 7
/-- DEV_CTL.WARM (R353). -/
def execWarm (s : State) : Out := s.doIf (s.reach 0x8) fun s => s.askWarm 0
/-- REFCLK_LOSS (R348). -/
def execRefclkLoss (s : State) : Out := s.doIf true State.refLoss
/-- REFCLK_RESTORED (R348). -/
def execRefclkRestored (s : State) : Out := s.doIf true State.refBack
/-- PLL_LOCK_LOSS (R349). -/
def execPllLockLoss (g : GenId) (s : State) : Out := s.doIf true fun s => s.pllLoss g
/-- PENDING_ACCESS_COMPLETE (R351). -/
def execPendingAccessComplete (inBand : Bool) (s : State) : Out := s.doAll true fun s => s.pendGoesOn inBand
/-- PENDING_ACCESS_RELEASE (R351). -/
def execPendingAccessRelease (inBand : Bool) (s : State) : Out := s.doAll true fun s => s.pendReleased inBand
/-- CLK_XCTL.RESET_PEND (R352). -/
def execResetPend (inBand : Bool) (s : State) : Out := s.doIf (s.reach 0x20004) fun s => s.resetPend inBand
/-- TCTL_CTL.ENABLE = 0 (R357). -/
def execTileStop (t : TileId) (s : State) : Out := s.doIf (s.reach (tileAddr t 0)) fun s => s.tileStop t
/-- TCTL_CTL.ENABLE = 1 (R357). -/
def execTileStart (t : TileId) (s : State) : Out := s.doIf (s.reach (tileAddr t 0)) fun s => s.tileStart t
/-- TCTL_CTL.FAULT_RESET (R356). -/
def execFaultReset (t : TileId) (s : State) : Out := s.doIf (s.reach (tileAddr t 0)) fun s => s.tileFault t 1
/-- LEDGER_RECALL: step 1 of Table 13.7 (R376). -/
def execLedgerRecall (s : State) : Out := s.doIf s.ldg.recalling fun s => s.recall.mile 0
/-- CONFIGURATION_READ: step 3 (R368). -/
def execConfigurationRead (f : Flash) (s : State) : Out := s.doIf true fun s => s.configRead f
/-- TILE_PHASE_LOAD: step 6 (R253). -/
def execTilePhaseLoad (f : Flash) (readbackFail : Byte) (s : State) : Out :=
  s.doIf true fun s => s.tilePhase f readbackFail
/-- MESH_TABLE_LOAD: step 5 (R358). -/
def execMeshTableLoad (s : State) : Out := s.doIf true State.tablesLoad
/-- MEDIUM_INITIALISATION: step 7 (R194). -/
def execMediumInitialisation (t : TileId) (m : MedInit) (s : State) : Out := s.doIf true fun s => s.medStart t m
/-- ENGINE_START: step 8 (R246). -/
def execEngineStart (t : TileId) (s : State) : Out := s.doIf true fun s => s.engineStart t
/-- TILE_RECOVERY: step 9 (R359). -/
def execTileRecovery (t : RecoveryAt) (s : State) : Out := s.doAll true fun s => s.recoverTile t.tile
/-- ADMISSION_OPEN: step 10 (R358). -/
def execAdmissionOpen (t : TileId) (s : State) : Out := s.doIf true fun s => s.admitTile t

end Sys2Proof.Machine
end

