-- ==== Sys2Proof/Machine/CmdSession.lean ====
section
/-! DEFINITION. Commands of the sessions: enrollment, rollover, the ends of sessions, credentials (chapter 3). -/

namespace Sys2Proof.Machine

/-- An unprotected enrollment frame, with the opcode of its row. -/
def EnrFrameOf (f : EnrFrame) (op : BitVec 8) : EnrFrame := { f with rq := { f.rq with hdr := { f.rq.hdr with opcode := op } } }

/-- ENROLL (R82). -/
def execEnroll (p : PortId) (l : LinkId) (f : EnrFrame) (s : State) : Out :=
  s.doIf (decide (s.link p l = .up)) fun s => s.enrFrame p l (EnrFrameOf f opEnroll)
/-- ENROLL_FINISH (R82). -/
def execEnrollFinish (p : PortId) (l : LinkId) (f : EnrFrame) (s : State) : Out :=
  s.doIf (decide (s.link p l = .up)) fun s => s.enrFrame p l (EnrFrameOf f opFinish)
/-- ENROLL_QUEUE_SERVICE (R82, R428). -/
def execEnrollQueueService (s : State) : Out := s.doIf true State.serveEnr
/-- ENROLLMENT_COMPLETE (R83). -/
def execEnrollmentComplete (x : SessId) (s : State) : Out := s.doIf true fun s => s.completeEnr x
/-- ROLLOVER_ENROLL (R88). -/
def execRolloverEnroll (r : Rq) (s : State) : Out := s.doIf true fun s => s.request opEnroll r
/-- ROLLOVER_ENROLL_FINISH (R89). -/
def execRolloverEnrollFinish (r : Rq) (s : State) : Out := s.doIf true fun s => s.request opFinish r
/-- OLD_RECEIVE_SA_DELETE: 10 ms after the rollover's ACK (R89). -/
def execOldReceiveSaDelete (x : SessId) (s : State) : Out := s.doIf true fun s =>
  match (s.ses x).oldAt with
  | some n => (s.till n).modSes x fun S => { S with rx := S.rx.take 1, oldAt := none }
  | none => s
/-- PENDING_EXCHANGE_EXPIRY: 100 ms after the ACK of an ENROLL (R82). DESIGN CHOICE (log 114): a pending rollover does not expire. -/
def execPendingExchangeExpiry (x : SessId) (s : State) : Out := s.doIf true fun s =>
  match (s.ses x).exch with
  | some o => (s.till (o.at_ + ms 100)).modSes x Sess.exchGone
  | none => s
/-- SESSION_CLOSE_COMPLETE (R92). -/
def execSessionCloseComplete (x : SessId) (s : State) : Out := s.doIf true fun s => s.closeDone x
/-- SES_KILL (R91). -/
def execSesKill (x : SessId) (s : State) : Out := s.doIf (s.reach 0x100004) fun s => s.killSession x 4
/-- SES_STRG_CLR (R93). -/
def execSesStrgClr (p : PortId) (l : LinkId) (s : State) : Out := s.doIf (s.reach 0x100008) fun s => s.strangerClear p l
/-- CREDENTIAL_DISABLE (R78). -/
def execCredentialDisable (x : SessId) (s : State) : Out :=
  s.doIf (s.reach (0x101000 + 0x40 * x.val)) fun s => s.credDisable x
/-- CREDENTIAL_ENABLE (R78). -/
def execCredentialEnable (x : SessId) (s : State) : Out :=
  s.doIf (s.reach (0x101000 + 0x40 * x.val)) fun s => s.credEnable x

end Sys2Proof.Machine
end

