-- ==== Sys2Proof/Machine/CmdThermal.lean ====
section
/-! DEFINITION. Commands of thermal supervision (chapter 15). -/

namespace Sys2Proof.Machine

/-- THERMAL_STATE_FALL (R384). -/
def execThermalStateFall (t : TileId) (s : State) : Out := s.doIf (s.hasTile t) fun s => s.thmFall t
/-- THERMAL_STOP (R388). -/
def execThermalStop (t : TileId) (s : State) : Out := s.doAll true fun s => s.thermalStop t
/-- SENSOR_STOP (R388). -/
def execSensorStop (t : TileId) (s : State) : Out := s.doAll true fun s => s.sensorStop t
/-- THM_CTL.RESUME (R390). -/
def execResume (mask : Byte) (s : State) : Out := s.doIf (s.reach 0x30000) fun s => s.resumeAll mask

end Sys2Proof.Machine
end

