-- ==== Sys2Proof/Machine/CmdTransport.lean ====
section
/-! DEFINITION. Commands of the transport: a frame at a link, and the requests and unsequenced frames of a LIVE session (chapter 2,
and the requests of chapters 4, 5 and 16). -/

namespace Sys2Proof.Machine

/-- RECEIVE_FRAME (R39 to R46). -/
def execReceiveFrame (p : PortId) (l : LinkId) (f : RxFrame) (s : State) : Out := s.doIf true fun s => s.receive p l f
/-- READ (R49). -/
def execRead (r : Rq) (s : State) : Out := s.doIf true fun s => s.request opRead r
/-- WRITE (R31). -/
def execWrite (r : Rq) (s : State) : Out := s.doIf true fun s => s.request opWrite r
/-- WRITE_PARTIAL (R134). -/
def execWritePartial (r : Rq) (s : State) : Out := s.doIf true fun s => s.request opPartial r
/-- CAS64 (R136). -/
def execCas64 (r : Rq) (s : State) : Out := s.doIf true fun s => s.request opCas r
/-- FADD64 (R136). -/
def execFadd64 (r : Rq) (s : State) : Out := s.doIf true fun s => s.request opFadd r
/-- BARRIER (R138). -/
def execBarrier (r : Rq) (s : State) : Out := s.doIf true fun s => s.request opBarrier r
/-- LOCK (R116). -/
def execLock (r : Rq) (s : State) : Out := s.doIf true fun s => s.request opLock r
/-- UNLOCK (R119). -/
def execUnlock (r : Rq) (s : State) : Out := s.doIf true fun s => s.request opUnlock r
/-- MGMT_READ (R404). -/
def execMgmtRead (r : Rq) (s : State) : Out := s.doIf true fun s => s.request opMgmtRead r
/-- MGMT_WRITE (R404). -/
def execMgmtWrite (r : Rq) (s : State) : Out := s.doAll true fun s => s.request opMgmtWrite r
/-- KEEPALIVE of the host (R56). -/
def execKeepalive (r : Rq) (s : State) : Out := s.doIf true fun s => s.request opKeepalive r
/-- GAP NAK of the host (R61). -/
def execHostGapNak (r : Rq) (s : State) : Out :=
  s.doIf true fun s => s.request opNak { r with hdr := { r.hdr with status := stGap } }
/-- GAP_NAK_RESEND: 20 µs after the last GAP NAK of an open gap (R59). -/
def execGapNakResend (x : SessId) (s : State) : Out := s.doIf (decide ((s.ses x).st = .live)) fun s =>
  match (s.ses x).gap with
  | some (t, aux) => (s.till (t + us 20)).gapNak x (s.ses x).e aux
  | none => s
/-- RETRANSMISSION_TIMEOUT (R64). -/
def execRetransmissionTimeout (x : SessId) (s : State) : Out := s.doIf true fun s => s.rtoExpires x
/-- TAIL_KEEPALIVE_SEND: 10 µs with unacknowledged frames and nothing sent (R65). -/
def execTailKeepaliveSend (x : SessId) (s : State) : Out :=
  s.doIf (decide ((s.ses x).st = .live ∧ (s.ses x).retain ≠ [])) fun s => (s.till ((s.ses x).txAt + us 10)).keepAlive x
/-- KA_LIMIT_KEEPALIVE_SEND: KA_LIMIT / 4 with nothing sent (R90). -/
def execKaLimitKeepaliveSend (x : SessId) (s : State) : Out :=
  s.doIf (decide ((s.ses x).st = .live)) fun s => (s.till ((s.ses x).txAt + 500000 * (s.ses x).ka)).keepAlive x
/-- KEEP_ALIVE_LOST: no frame has passed MACsec for KA_LIMIT (R90). -/
def execKeepAliveLost (x : SessId) (s : State) : Out :=
  s.doIf (decide ((s.ses x).st = .live)) fun s => (s.till ((s.ses x).rxAt + ms (s.ses x).ka)).endSession x 1
/-- RETENTION_ROOM_SEND (R63). -/
def execRetentionRoomSend (x : SessId) (s : State) : Out := s.doIf true fun s => s.settle x

end Sys2Proof.Machine
end

