-- ==== Sys2Proof/Machine/Dispatch.lean ====
section
/-! DEFINITION. The dispatch: one arm for each command, each one call of its meaning. -/

namespace Sys2Proof.Machine

/-- The effect of a command on everything but the queue. -/
def exec (i : Instr) (s : State) : Host.Outcome State Fault Refusal :=
  match i with
  | .receiveFrame p l f => Sys2Proof.Machine.execReceiveFrame p l f s
  | .read r => Sys2Proof.Machine.execRead r s
  | .write r => Sys2Proof.Machine.execWrite r s
  | .writePartial r => Sys2Proof.Machine.execWritePartial r s
  | .cas64 r => Sys2Proof.Machine.execCas64 r s
  | .fadd64 r => Sys2Proof.Machine.execFadd64 r s
  | .barrier r => Sys2Proof.Machine.execBarrier r s
  | .lock r => Sys2Proof.Machine.execLock r s
  | .unlock r => Sys2Proof.Machine.execUnlock r s
  | .mgmtRead r => Sys2Proof.Machine.execMgmtRead r s
  | .mgmtWrite r => Sys2Proof.Machine.execMgmtWrite r s
  | .enroll p l f => Sys2Proof.Machine.execEnroll p l f s
  | .enrollFinish p l f => Sys2Proof.Machine.execEnrollFinish p l f s
  | .enrollQueueService => Sys2Proof.Machine.execEnrollQueueService s
  | .enrollmentComplete x => Sys2Proof.Machine.execEnrollmentComplete x s
  | .rolloverEnroll r => Sys2Proof.Machine.execRolloverEnroll r s
  | .rolloverEnrollFinish r => Sys2Proof.Machine.execRolloverEnrollFinish r s
  | .oldReceiveSaDelete x => Sys2Proof.Machine.execOldReceiveSaDelete x s
  | .pendingExchangeExpiry x => Sys2Proof.Machine.execPendingExchangeExpiry x s
  | .keepalive r => Sys2Proof.Machine.execKeepalive r s
  | .hostGapNak r => Sys2Proof.Machine.execHostGapNak r s
  | .gapNakResend x => Sys2Proof.Machine.execGapNakResend x s
  | .retransmissionTimeout x => Sys2Proof.Machine.execRetransmissionTimeout x s
  | .tailKeepaliveSend x => Sys2Proof.Machine.execTailKeepaliveSend x s
  | .kaLimitKeepaliveSend x => Sys2Proof.Machine.execKaLimitKeepaliveSend x s
  | .keepAliveLost x => Sys2Proof.Machine.execKeepAliveLost x s
  | .retentionRoomSend x => Sys2Proof.Machine.execRetentionRoomSend x s
  | .sessionCloseComplete x => Sys2Proof.Machine.execSessionCloseComplete x s
  | .sesKill x => Sys2Proof.Machine.execSesKill x s
  | .sesStrgClr p l => Sys2Proof.Machine.execSesStrgClr p l s
  | .credentialDisable x => Sys2Proof.Machine.execCredentialDisable x s
  | .credentialEnable x => Sys2Proof.Machine.execCredentialEnable x s
  | .claim src dst => Sys2Proof.Machine.execClaim src dst s
  | .claimResult src dst => Sys2Proof.Machine.execClaimResult src dst s
  | .arm src dst => Sys2Proof.Machine.execArm src dst s
  | .dropRemainder src dst => Sys2Proof.Machine.execDropRemainder src dst s
  | .rewind src dst => Sys2Proof.Machine.execRewind src dst s
  | .markerSealTimeout x => Sys2Proof.Machine.execMarkerSealTimeout x s
  | .partCompletion src dst => Sys2Proof.Machine.execPartCompletion src dst s
  | .barrierAck x => Sys2Proof.Machine.execBarrierAck x s
  | .frameStart t => Sys2Proof.Machine.execFrameStart t s
  | .galeLong t => Sys2Proof.Machine.execGaleLong t s
  | .slotDecision t => Sys2Proof.Machine.execSlotDecision t s
  | .stepOverdue t c d erase => Sys2Proof.Machine.execStepOverdue t c d erase s
  | .variantLatch t => Sys2Proof.Machine.execVariantLatch t s
  | .superframeStart => Sys2Proof.Machine.execSuperframeStart s
  | .codewordDecoded t id ok => Sys2Proof.Machine.execCodewordDecoded t id ok s
  | .rebuildComplete t id => Sys2Proof.Machine.execRebuildComplete t id s
  | .mapFetchComplete t page => Sys2Proof.Machine.execMapFetchComplete t page s
  | .counterFetchComplete t group => Sys2Proof.Machine.execCounterFetchComplete t group s
  | .mergeComplete t pl => Sys2Proof.Machine.execMergeComplete t pl s
  | .checkOutcome t pl tagOk treeOk => Sys2Proof.Machine.execCheckOutcome t pl tagOk treeOk s
  | .checkTimeout t pl => Sys2Proof.Machine.execCheckTimeout t pl s
  | .squall x => Sys2Proof.Machine.execSquall x s
  | .tileFaultReplay t => Sys2Proof.Machine.execTileFaultReplay t s
  | .programComplete t c d => Sys2Proof.Machine.execProgramComplete t c d s
  | .programFail t c d => Sys2Proof.Machine.execProgramFail t c d s
  | .eraseFail t c d => Sys2Proof.Machine.execEraseFail t c d s
  | .eraseComplete t stratum => Sys2Proof.Machine.execEraseComplete t stratum s
  | .eraseBegin t stratum => Sys2Proof.Machine.execEraseBegin t stratum s
  | .checkpoint t => Sys2Proof.Machine.execCheckpoint t s
  | .dieCommandTimeout t c d => Sys2Proof.Machine.execDieCommandTimeout t c d s
  | .housekeepingRound t diode railsMv => Sys2Proof.Machine.execHousekeepingRound t diode railsMv s
  | .stratumBucketEntry t stratum => Sys2Proof.Machine.execStratumBucketEntry t stratum s
  | .stratumPad t stratum => Sys2Proof.Machine.execStratumPad t stratum s
  | .patrolFinding t cwa first next sets => Sys2Proof.Machine.execPatrolFinding t cwa first next sets s
  | .surveyComplete t => Sys2Proof.Machine.execSurveyComplete t s
  | .rolloverImage t group => Sys2Proof.Machine.execRolloverImage t group s
  | .rekeyPassEnd r => Sys2Proof.Machine.execRekeyPassEnd r s
  | .rgnBaseWrite r v => Sys2Proof.Machine.execRgnBaseWrite r v s
  | .rgnSizeWrite r v => Sys2Proof.Machine.execRgnSizeWrite r v s
  | .modeWrite r compact => Sys2Proof.Machine.execModeWrite r compact s
  | .enable r => Sys2Proof.Machine.execEnable r s
  | .online r => Sys2Proof.Machine.execOnline r s
  | .readOnly r => Sys2Proof.Machine.execReadOnly r s
  | .offline r => Sys2Proof.Machine.execOffline r s
  | .zeroize r => Sys2Proof.Machine.execZeroize r s
  | .disable r => Sys2Proof.Machine.execDisable r s
  | .rekey r => Sys2Proof.Machine.execRekey r s
  | .lostZeroize r => Sys2Proof.Machine.execLostZeroize r s
  | .lostRekey r => Sys2Proof.Machine.execLostRekey r s
  | .regionShutdownComplete r => Sys2Proof.Machine.execRegionShutdownComplete r s
  | .leaseExpiry r => Sys2Proof.Machine.execLeaseExpiry r s
  | .leaseBreakResolution r => Sys2Proof.Machine.execLeaseBreakResolution r s
  | .sramUncorrectable w => Sys2Proof.Machine.execSramUncorrectable w s
  | .evtPendClear k mask => Sys2Proof.Machine.execEvtPendClear k mask s
  | .evtTrbClear src clr all => Sys2Proof.Machine.execEvtTrbClear src clr all s
  | .pmcCounterOverflow t c => Sys2Proof.Machine.execPmcCounterOverflow t c s
  | .pmcSample t c => Sys2Proof.Machine.execPmcSample t c s
  | .clrAll t => Sys2Proof.Machine.execClrAll t s
  | .pmcCfgClr t c => Sys2Proof.Machine.execPmcCfgClr t c s
  | .pop t => Sys2Proof.Machine.execPop t s
  | .portCntClr p mask => Sys2Proof.Machine.execPortCntClr p mask s
  | .admCntClr t => Sys2Proof.Machine.execAdmCntClr t s
  | .xltCntClr t => Sys2Proof.Machine.execXltCntClr t s
  | .medCcntClr t c => Sys2Proof.Machine.execMedCcntClr t c s
  | .medTcntClr t => Sys2Proof.Machine.execMedTcntClr t s
  | .schCntClr t => Sys2Proof.Machine.execSchCntClr t s
  | .secCntClr t => Sys2Proof.Machine.execSecCntClr t s
  | .secEccClr t => Sys2Proof.Machine.execSecEccClr t s
  | .cntClr => Sys2Proof.Machine.execCntClr s
  | .tokenRoll t => Sys2Proof.Machine.execTokenRoll t s
  | .maxClr mask => Sys2Proof.Machine.execMaxClr mask s
  | .portEnable p v => Sys2Proof.Machine.execPortEnable p v s
  | .portDisable p v => Sys2Proof.Machine.execPortDisable p v s
  | .portStopComplete p => Sys2Proof.Machine.execPortStopComplete p s
  | .portReset p => Sys2Proof.Machine.execPortReset p s
  | .linkUp p l => Sys2Proof.Machine.execLinkUp p l s
  | .linkLoss p l => Sys2Proof.Machine.execLinkLoss p l s
  | .pwrfailFall lowClocks => Sys2Proof.Machine.execPwrfailFall lowClocks s
  | .drainRecordCommit t => Sys2Proof.Machine.execDrainRecordCommit t s
  | .finalRecord => Sys2Proof.Machine.execFinalRecord s
  | .vaonWarning => Sys2Proof.Machine.execVaonWarning s
  | .pwrfailRise => Sys2Proof.Machine.execPwrfailRise s
  | .autoOn => Sys2Proof.Machine.execAutoOn s
  | .seqEnd => Sys2Proof.Machine.execSeqEnd s
  | .seqEnable => Sys2Proof.Machine.execSeqEnable s
  | .seqDisable => Sys2Proof.Machine.execSeqDisable s
  | .wait => Sys2Proof.Machine.execWait s
  | .check => Sys2Proof.Machine.execCheck s
  | .jump => Sys2Proof.Machine.execJump s
  | .mark => Sys2Proof.Machine.execMark s
  | .waitExpiry => Sys2Proof.Machine.execWaitExpiry s
  | .checkPass transitions => Sys2Proof.Machine.execCheckPass transitions s
  | .checkTimeoutRailFail transitions => Sys2Proof.Machine.execCheckTimeoutRailFail transitions s
  | .domainOn d => Sys2Proof.Machine.execDomainOn d s
  | .domainStartTimeout d => Sys2Proof.Machine.execDomainStartTimeout d s
  | .domainOff d => Sys2Proof.Machine.execDomainOff d s
  | .pgFall x clocks => Sys2Proof.Machine.execPgFall x clocks s
  | .runningFault x => Sys2Proof.Machine.execRunningFault x s
  | .retryOffExpiry x => Sys2Proof.Machine.execRetryOffExpiry x s
  | .systemAction => Sys2Proof.Machine.execSystemAction s
  | .systemDrainTimeout => Sys2Proof.Machine.execSystemDrainTimeout s
  | .off => Sys2Proof.Machine.execOff s
  | .on => Sys2Proof.Machine.execOn s
  | .cleanStopTimeout t => Sys2Proof.Machine.execCleanStopTimeout t s
  | .minimumOffTimeExpiry => Sys2Proof.Machine.execMinimumOffTimeExpiry s
  | .vgpioPrelude p => Sys2Proof.Machine.execVgpioPrelude p s
  | .preludeRepeat => Sys2Proof.Machine.execPreludeRepeat s
  | .coldReset c => Sys2Proof.Machine.execColdReset c s
  | .warmReset => Sys2Proof.Machine.execWarmReset s
  | .tileFaultReset t cause => Sys2Proof.Machine.execTileFaultReset t cause s
  | .watchdog t => Sys2Proof.Machine.execWatchdog t s
  | .warm => Sys2Proof.Machine.execWarm s
  | .refclkLoss => Sys2Proof.Machine.execRefclkLoss s
  | .refclkRestored => Sys2Proof.Machine.execRefclkRestored s
  | .pllLockLoss g => Sys2Proof.Machine.execPllLockLoss g s
  | .pendingAccessComplete inBand => Sys2Proof.Machine.execPendingAccessComplete inBand s
  | .pendingAccessRelease inBand => Sys2Proof.Machine.execPendingAccessRelease inBand s
  | .resetPend inBand => Sys2Proof.Machine.execResetPend inBand s
  | .tileStop t => Sys2Proof.Machine.execTileStop t s
  | .tileStart t => Sys2Proof.Machine.execTileStart t s
  | .faultReset t => Sys2Proof.Machine.execFaultReset t s
  | .ledgerRecall => Sys2Proof.Machine.execLedgerRecall s
  | .configurationRead f => Sys2Proof.Machine.execConfigurationRead f s
  | .tilePhaseLoad f readbackFail => Sys2Proof.Machine.execTilePhaseLoad f readbackFail s
  | .meshTableLoad => Sys2Proof.Machine.execMeshTableLoad s
  | .mediumInitialisation t m => Sys2Proof.Machine.execMediumInitialisation t m s
  | .engineStart t => Sys2Proof.Machine.execEngineStart t s
  | .tileRecovery t => Sys2Proof.Machine.execTileRecovery t s
  | .admissionOpen t => Sys2Proof.Machine.execAdmissionOpen t s
  | .ledgerCommitComplete => Sys2Proof.Machine.execLedgerCommitComplete s
  | .ledgerWindowWrite addr v => Sys2Proof.Machine.execLedgerWindowWrite addr v s
  | .commit => Sys2Proof.Machine.execCommit s
  | .retry => Sys2Proof.Machine.execRetry s
  | .thermalStateFall t => Sys2Proof.Machine.execThermalStateFall t s
  | .thermalStop t => Sys2Proof.Machine.execThermalStop t s
  | .sensorStop t => Sys2Proof.Machine.execSensorStop t s
  | .resume mask => Sys2Proof.Machine.execResume mask s
  | .regWrite w => Sys2Proof.Machine.execRegWrite w s
  | .readSet w => Sys2Proof.Machine.execReadSet w s
  | .regRead => Sys2Proof.Machine.execRegRead s
  | .xstatus => Sys2Proof.Machine.execXstatus s
  | .alertResponse => Sys2Proof.Machine.execAlertResponse s
  | .smbusStretchTimeout => Sys2Proof.Machine.execSmbusStretchTimeout s
  | .smbusClockHeldLow => Sys2Proof.Machine.execSmbusClockHeldLow s
  | .idcode => Sys2Proof.Machine.execIdcode s
  | .samplePreload => Sys2Proof.Machine.execSamplePreload s
  | .extest => Sys2Proof.Machine.execExtest s
  | .clamp => Sys2Proof.Machine.execClamp s
  | .highz => Sys2Proof.Machine.execHighz s
  | .dapReg data addr write go => Sys2Proof.Machine.execDapReg data addr write go s
  | .dapMem data struct tile write => Sys2Proof.Machine.execDapMem data struct tile write s
  | .bypass code => Sys2Proof.Machine.execBypass code s
  | .tapReset => Sys2Proof.Machine.execTapReset s
  | .lockDebug => Sys2Proof.Machine.execLockDebug s
  | .dmaStart t => Sys2Proof.Machine.execDmaStart t s
  | .dmaComplete => Sys2Proof.Machine.execDmaComplete s
  | .registerWrite addr v => Sys2Proof.Machine.execRegisterWrite addr v s
  | .lossOfVaon => Sys2Proof.Machine.execLossOfVaon s
  | .microsequencerInternalFault t c d => Sys2Proof.Machine.execMicrosequencerInternalFault t c d s
  | .onProgrammeBegins => Sys2Proof.Machine.execOnProgrammeBegins s

end Sys2Proof.Machine
end

