-- ==== Sys2Proof/Safety.lean ====
section
/-! DEFINITION. What claims use to say that a run is sound: the canonical form of the media, what every step keeps, and states that
no hardware event contradicts. -/

namespace Sys2Proof.Machine

/-- The non-volatile stores of a medium are in canonical form: codeword addresses strictly rising; remap areas
strictly rising by die, none listed that is as shipped. -/
def Medium.wf (m : Medium) : Bool := Tab.rising none m.cws && Tab.wf {} m.remaps

/-- The media of a state are in canonical form, tile by tile. -/
def State.mediaWf (s : State) : Bool := Tab.wf {} s.media && s.media.all fun e => e.2.wf

/-- What every command keeps: the queue behind it, the part and its stepping; time does not run back, no number of a free value is
drawn twice, the media stay canonical, and, unless the command writes codewords (`cwr`), every stored codeword stands. -/
structure Kept (cwr : Prop) (s s' : State) : Prop where
  pending : s'.pending = s.pending
  part : s'.part = s.part
  stepping : s'.stepping = s.stepping
  now : s.now ≤ s'.now
  free : s.free ≤ s'.free
  media : s.mediaWf = true → s'.mediaWf = true
  cws : ¬cwr → ∀ u, (s'.medium u).cws = (s.medium u).cws

end Sys2Proof.Machine
end

