-- ==== Sys2Proof/Certificates/Slice0/Obligations.lean ====
section
/-! DEFINITION. The statements for the provers: one proposition each, from the rules of the spec (OBLIGATIONS.json names the rules).
Where a statement rests on a choice of the model its docstring names the log entry. -/

open Sys2Proof Sys2Proof.Machine

/-- O1. A step runs the command at the front of the queue on the state with the rest of the queue (R7). For every command c, queue
rest and state s: the step of s with c :: rest as its queue is exec of c on s with rest as its queue. -/
def Obligations.StepRunsTheFront : Prop :=
  ∀ (c : Instr) (rest : List Instr) (s : State), step { s with pending := c :: rest } = exec c { s with pending := rest }

/-- O2. With nothing commanded one core cycle passes (log 35, the model's choice), and nothing but counters, events and frames moves
(R7, R308). On an empty queue a step answers a next state one core cycle later with an empty queue. The media, the regions, the
credentials, the ports, the supervisor, the clocks, the configuration, the start-up, the debug unit, the SMBus target and the
mesh are as before, and any frame that leaves is an EVENT; where no tile runs its performance
counters, or has an overflow of them to report, only the time has changed. That a step on an
empty queue is one core cycle is the choice of log 35. -/
def Obligations.EmptyQueueIsOneCoreCycle : Prop :=
  ∀ s : State, s.pending = [] → ∃ t, step s = .next t ∧ t.now = s.now + 1 ∧ t.pending = [] ∧
      t.media = s.media ∧ t.rgns = s.rgns ∧ t.creds = s.creds ∧ t.ports = s.ports ∧ t.sup = s.sup ∧ t.clk = s.clk ∧ t.cfg = s.cfg ∧
      t.boot = s.boot ∧ t.dbg = s.dbg ∧ t.smb = s.smb ∧ t.mesh = s.mesh ∧ t.sf = s.sf ∧
      (∃ l, t.out = l ++ s.out ∧ ∀ o ∈ l, o.frame.hdr.opcode = opEvent) ∧
      ((∀ u, (s.tile u).pmc.run = false ∧ (s.tile u).pmc.due = 0) → t = { s with now := s.now + 1 })

/-- O3. What reset leaves: every domain but AON off, every session IDLE with epoch 0, nothing pending, nothing sent, nothing stored
(R21, R34, R76, R314, R355). In the reset state the supervisor is STANDBY; AON is ON and every other domain OFF; every rail but
VAON is off; every session is IDLE with epoch 0 and no association; every link is down; no event is pending; no lock is held; no
tile has a cell or a staged line; the mesh, the enrollment queue and the frames sent are empty; the media hold nothing;
DEV_SCRATCH is 0. -/
def Obligations.ResetLeavesTheDeviceDark : Prop :=
  State.reset.sup.st = .standby ∧ (∀ d : DomainId, (State.reset.sup.dom d).st = if d.val = 0 then .on else .off) ∧
      (∀ x : RailId, x.val ≠ 0 → (State.reset.sup.rail x).st = .off ∧ (State.reset.sup.rail x).en = false) ∧
      (∀ x, (State.reset.ses x).st = .idle ∧ (State.reset.ses x).epoch = 0 ∧ (State.reset.ses x).rx = [] ∧ (State.reset.ses x).tx = none) ∧
      (∀ p l, State.reset.link p l = .down) ∧ State.reset.evt.pend = [] ∧ (∀ r, (State.reset.rgn r).held = false) ∧
      (∀ u, (State.reset.tile u).adm.cells = [] ∧ (State.reset.tile u).adm.staged = []) ∧ State.reset.mesh = [] ∧
      State.reset.enrQ = [] ∧ State.reset.out = [] ∧ State.reset.media = [] ∧ State.reset.scratch = 0 ∧ State.reset.pending = []

/-- O4. The invariant of the media holds at reset (R156). The reset state's media are in canonical form: tiles, codeword addresses
and counter objects strictly rising, no entry equal to what an unlisted one reads as. The canonical form is the model's (log
29). -/
def Obligations.ResetMediaAreCanonical : Prop :=
  State.reset.mediaWf = true

/-- O5. Every step from a state whose media are canonical leaves them canonical (R156, R172, R174, R181, R359). For every state s
whose media are in canonical form (the tables of tiles, codewords and counter objects strictly rising by key and without default
entries), if the step of s answers a next state t, the media of t are in canonical form. The canonical form is the model's (log
29); the states are arbitrary, not only those a run reaches. -/
def Obligations.EveryStepKeepsTheMediaCanonical : Prop :=
  ∀ s t : State, s.mediaWf = true → step s = .next t → t.mediaWf = true

/-- O6. No step changes the part, its stepping or the rest of the queue, and neither time nor the number of free values runs back
(R1, R7). If the step of s answers t: t has the part and the stepping of s, its queue is the queue of s without its front, its
time is not before that of s, and no number of a free value is drawn twice. -/
def Obligations.EveryStepKeepsPartQueueAndTime : Prop :=
  ∀ s t : State, step s = .next t → t.part = s.part ∧ t.stepping = s.stepping ∧ t.pending = s.pending.tail ∧ s.now ≤ t.now ∧ s.free ≤ t.free

/-- O7. Every command whose operands name what exists answers a next state in every state; none is refused and none faults (R156,
R158, R274, R406). For every well-formed command i and every state s there is a state t with exec i s = next t. A command is
well-formed where its stratum, map page, counter group, fault cause or TAP code is one the spec numbers; every other operand is
bounded by its type. What each command does is the other statements'. -/
def Obligations.WellFormedCommandsComplete : Prop :=
  ∀ (i : Instr) (s : State), i.wellFormed = true → ∃ t, exec i s = .next t

/-- O8. A command that names a stratum, map page or counter group that does not exist faults by name (R156, R158, R274). With a
stratum number of 524,288 or more ERASE_COMPLETE, ERASE_BEGIN, STRATUM_BUCKET_ENTRY and STRATUM_PAD fault; with a map page of
1,310,720 or more MAP_FETCH_COMPLETE faults; with a group slot of 671,088,640 or more COUNTER_FETCH_COMPLETE and ROLLOVER_IMAGE
fault. -/
def Obligations.AbsentPlacesFault : Prop :=
  ∀ (t : TileId) (n : Nat) (s : State),
      (524288 ≤ n →
        exec (.eraseComplete t n) s = .fault (.noSuchPlace n) ∧ exec (.eraseBegin t n) s = .fault (.noSuchPlace n) ∧
        exec (.stratumBucketEntry t n) s = .fault (.noSuchPlace n) ∧ exec (.stratumPad t n) s = .fault (.noSuchPlace n)) ∧
      (1310720 ≤ n → exec (.mapFetchComplete t n) s = .fault (.noSuchPlace n)) ∧
      (671088640 ≤ n →
        exec (.counterFetchComplete t n) s = .fault (.noSuchPlace n) ∧ exec (.rolloverImage t n) s = .fault (.noSuchPlace n))

/-- O9. While VAON is out, or RESET_N is low, no command but those of reset and of VAON itself changes anything (R32, R314, R375,
R413). In a state without power every command but COLD_RESET, and LOSS_OF_VAON while RESET_N holds the device in reset, leaves the
state as it is or faults for a place that does not exist. Without VAON and with RESET_N high, a fall of RESET_N and a low pulse on
it of any length leave the state as it is too. -/
def Obligations.UnpoweredDeviceDoesNothing : Prop :=
  ∀ (i : Instr) (s : State), s.powered = false →
      ((∀ c, i ≠ .coldReset c) → (i = .lossOfVaon → s.held = false) →
        exec i s = .next s ∨ ∃ n, exec i s = .fault (.noSuchPlace n)) ∧
      (s.held = false → exec (.coldReset .resetLow) s = .next s ∧ ∀ n, exec (.coldReset (.resetN n)) s = .next s)

/-- O10. READ, WRITE, WRITE_PARTIAL, CAS64, FADD64, BARRIER, LOCK, UNLOCK, MGMT_READ, MGMT_WRITE and the rollover requests are
accepted in order (R46, R54, R56, R58, R90). On a LIVE session, for a frame of its version, epoch and session number whose SEQ is the
next number the device expects once its ACK field has been read: each of the twelve requests answers the state in which the
frame has been noted as received now, the ACK field has been read, the request has been accepted under its number, and the session
has gone on as far as it can. MGMT_WRITE may take tiles out of service, whose requests then complete. -/
def Obligations.InOrderRequestsAreAccepted : Prop :=
  ∀ (r : Rq) (s : State), s.powered = true → (s.ses r.hdr.session).st = .live → s.r46 r.hdr.session r = true →
      let x := r.hdr.session
      let s1 := (s.modSes x fun S => { S with rxAt := s.now }).readAck x r.hdr.ack
      (s1.ses x).e = r.hdr.seq →
      let done := fun (op : BitVec 8) => (s1.accept x { r with hdr := { r.hdr with opcode := op } }).settle x
      exec (.read r) s = .next (done opRead) ∧
        exec (.write r) s = .next (done opWrite) ∧
        exec (.writePartial r) s = .next (done opPartial) ∧
        exec (.cas64 r) s = .next (done opCas) ∧
        exec (.fadd64 r) s = .next (done opFadd) ∧
        exec (.barrier r) s = .next (done opBarrier) ∧
        exec (.lock r) s = .next (done opLock) ∧
        exec (.unlock r) s = .next (done opUnlock) ∧
        exec (.mgmtRead r) s = .next (done opMgmtRead) ∧
        exec (.rolloverEnroll r) s = .next (done opEnroll) ∧
        exec (.rolloverEnrollFinish r) s = .next (done opFinish) ∧
        exec (.mgmtWrite r) s = .next (s.after (done opMgmtWrite))

/-- O11. An accepted request takes one host sequence number, closes the gap and waits behind the earlier requests of its session
(R54, R58). Accepting request r on session x raises the next expected number by 1, leaves no gap open, and appends to the
session's requests one with r, still claiming, whose failure is the outcome of the checks before admission. Every other session,
and every other part of the state, is as before. -/
def Obligations.AcceptanceTakesOneSequenceNumber : Prop :=
  ∀ (s : State) (x : SessId) (r : Rq),
      ((s.accept x r).ses x).e = (s.ses x).e + 1 ∧ ((s.accept x r).ses x).gap = none ∧
      (∃ q : Req, ((s.accept x r).ses x).reqs = (s.ses x).reqs ++ [q] ∧ q.rq = r ∧ q.st = .claiming ∧ q.fail = s.screen x r) ∧
      ((s.accept x r).ses x).dseq = (s.ses x).dseq ∧ ((s.accept x r).ses x).retain = (s.ses x).retain ∧
      (∀ y, y ≠ x → (s.accept x r).ses y = s.ses y) ∧ { s.accept x r with sess := s.sess } = s

/-- O12. A misaligned address completes RANGE and no line is accessed (R22). A well-formed READ, WRITE or WRITE_PARTIAL whose
address is no multiple of 64, and a well-formed CAS64 or FADD64 whose address is no multiple of 8, fails the checks with RANGE;
the accepted request has no part, so it touches no line; and once it is the session's oldest claiming request it is refused with
RANGE, a retired completion with that status. -/
def Obligations.MisalignedAddressesCompleteRange : Prop :=
  ∀ (s : State) (x : SessId) (r : Rq),
      ((r.hdr.opcode = opRead ∨ r.hdr.opcode = opWrite ∨ r.hdr.opcode = opPartial) ∧ r.addr % 64 ≠ 0) ∨
        ((r.hdr.opcode = opCas ∨ r.hdr.opcode = opFadd) ∧ r.addr % 8 ≠ 0) →
      s.screen x r = some stRange ∧
      (∃ q : Req, ((s.accept x r).ses x).reqs = (s.ses x).reqs ++ [q] ∧ q.rq = r ∧ q.parts = [] ∧ q.fail = some stRange) ∧
      (∀ q : Req, (s.ses x).reqs.find? (fun q => decide (q.st = .claiming)) = some q → q.rq = r → q.fail = some stRange →
        q.replay = false → (s.ses x).st = .live →
        s.advance1 x = some ((s.modSes x fun S => { S with
          reqs := S.reqs.map fun o => if o = q then { q with st := .armed, parts := [] } else o }).refuse x r stRange (s.formBad x r)))

/-- O13. A request ahead of a gap, behind e, or out of the window (R46, R58, R66). For the twelve request opcodes on a LIVE session,
with d the distance of SEQ from the next expected number after the ACK field has been read: for d from 1 to 4,095 the frame is
counted and a gap is opened or extended; for d from 4,096 to 2^32 - 4,097 it is counted as out of the window; for a number among
the 4,096 before e it is counted as a duplicate where the request is still in progress or has no cached completion, waits where a
repeat of the number is being performed again, and is answered from the cache otherwise. A frame that is not of the session's version, epoch and number is counted and does nothing else. -/
def Obligations.RequestsOutOfOrderAreClassed : Prop :=
  ∀ (r : Rq) (s : State), s.powered = true → (s.ses r.hdr.session).st = .live →
      let x := r.hdr.session
      let s1 := (s.modSes x fun S => { S with rxAt := s.now }).readAck x r.hdr.ack
      let d := (r.hdr.seq - (s1.ses x).e).toNat
      let rq := fun (op : BitVec 8) => ({ r with hdr := { r.hdr with opcode := op } } : Rq)
      let counted := fun (s : State) => s.lcnt (s1.ses x).port (s1.ses x).link 6
      let all := fun (f : BitVec 8 → State) =>
        exec (.read r) s = .next (f opRead) ∧
          exec (.write r) s = .next (f opWrite) ∧
          exec (.writePartial r) s = .next (f opPartial) ∧
          exec (.cas64 r) s = .next (f opCas) ∧
          exec (.fadd64 r) s = .next (f opFadd) ∧
          exec (.barrier r) s = .next (f opBarrier) ∧
          exec (.lock r) s = .next (f opLock) ∧
          exec (.unlock r) s = .next (f opUnlock) ∧
          exec (.mgmtRead r) s = .next (f opMgmtRead) ∧
          exec (.rolloverEnroll r) s = .next (f opEnroll) ∧
          exec (.rolloverEnrollFinish r) s = .next (f opFinish) ∧
          exec (.mgmtWrite r) s = .next (s.after (f opMgmtWrite))
      (s.r46 x r = false → all fun _ => (s.modSes x fun S => { S with rxAt := s.now }).lcnt (s.ses x).port (s.ses x).link 6) ∧
      (s.r46 x r = true →
        (1 ≤ d ∧ d < 4096 → all fun op =>
          (((counted s1).modSes x fun S => S.seen (rq op).hdr.seq).ahead x (rq op).hdr.seq).settle x) ∧
        (4096 ≤ d ∧ d < 2 ^ 32 - 4096 → all fun _ => (counted s1).settle x) ∧
        (2 ^ 32 - 4096 ≤ d →
          let same := fun (q : Req) => decide (q.rq.hdr.seq = r.hdr.seq)
          ((s1.ses x).reqs.any (fun q => same q && q.replay) = true →
            all fun op => (s1.modSes x fun S => { S with repeats := S.repeats ++ [rq op] }).settle x) ∧
          ((s1.ses x).reqs.any (fun q => same q && q.replay) = false → (s1.ses x).reqs.any same = true →
            all fun _ => (counted s1).settle x) ∧
          ((s1.ses x).reqs.any same = false →
            (Tab.find (s1.ses x).cache r.hdr.seq.toNat = none → all fun _ => (counted s1).settle x) ∧
            (∀ c, Tab.find (s1.ses x).cache r.hdr.seq.toNat = some c → all fun op => (s1.again x (rq op) c).settle x))))

/-- O14. Sequence numbers are compared modulo 2^32 (R55). a precedes b exactly where (b - a) mod 2^32 lies from 1 to 2^31 - 1, for
all 32-bit numbers a and b. -/
def Obligations.PrecedesIsModular : Prop :=
  ∀ a b : Word, precedes a b = true ↔
      1 ≤ (b.toNat + (2 ^ 32 - a.toNat)) % 2 ^ 32 ∧ (b.toNat + (2 ^ 32 - a.toNat)) % 2 ^ 32 ≤ 2 ^ 31 - 1

/-- O15. KEEPALIVE and the GAP NAK of the host: neither takes a number; the NAK has the retained frames of its range sent again
(R54, R56, R58, R61). On a LIVE session, for a frame of its version, epoch and session number whose SEQ is the next expected
number: KEEPALIVE answers the state in which the ACK field has been read and the session has gone on; HOST_GAP_NAK the state in
which, besides, exactly the frames still held with SEQ from REF to AUX have been sent again, oldest first. -/
def Obligations.UnsequencedHostFrames : Prop :=
  ∀ (r : Rq) (s : State), s.powered = true → (s.ses r.hdr.session).st = .live → s.r46 r.hdr.session r = true →
      let x := r.hdr.session
      let s1 := (s.modSes x fun S => { S with rxAt := s.now }).readAck x r.hdr.ack
      (s1.ses x).e = r.hdr.seq →
      exec (.keepalive r) s = .next (s1.settle x) ∧
      exec (.hostGapNak r) s = .next ((((s1.ses x).retain.filter fun f =>
        decide ((f.hdr.seq - r.hdr.ref).toNat ≤ (r.hdr.aux - r.hdr.ref).toNat)).foldl (fun s f => s.resend x f) s1).settle x)

/-- O16. GAP_NAK_RESEND, RETRANSMISSION_TIMEOUT, TAIL_KEEPALIVE_SEND, KA_LIMIT_KEEPALIVE_SEND, KEEP_ALIVE_LOST, RETENTION_ROOM_SEND
on a LIVE session (R59, R63, R64, R65, R90). On a LIVE session: with a gap open since time n, GAP_NAK_RESEND sends the GAP NAK
for e again, no earlier than 20 us after n; with a frame unacknowledged, RETRANSMISSION_TIMEOUT sends the oldest again and
counts the attempt, no earlier than the doubled timeout, and after 16 fruitless attempts ends the session with cause 2;
TAIL_KEEPALIVE_SEND and KA_LIMIT_KEEPALIVE_SEND send a KEEPALIVE no earlier than 10 us and KA_LIMIT / 4 after the last frame
sent; KEEP_ALIVE_LOST ends the session with cause 1 no earlier than KA_LIMIT after the last frame received; RETENTION_ROOM_SEND
sends what waits for room. -/
def Obligations.TimersOfASession : Prop :=
  ∀ (x : SessId) (s : State), s.powered = true → (s.ses x).st = .live →
      (∀ n aux, (s.ses x).gap = some (n, aux) →
        exec (.gapNakResend x) s = .next ((s.till (n + us 20)).gapNak x (s.ses x).e aux)) ∧
      (∀ f l, (s.ses x).retain = f :: l →
        let s1 := s.till ((s.ses x).rtoAt + s.rtoOf x)
        ((s.ses x).tries < 16 → exec (.retransmissionTimeout x) s =
          .next ((s1.modSes x fun S => { S with tries := S.tries + 1, rtoAt := s1.now }).resend x f)) ∧
        (16 ≤ (s.ses x).tries → exec (.retransmissionTimeout x) s = .next (s1.endSession x 2)) ∧
        exec (.tailKeepaliveSend x) s = .next ((s.till ((s.ses x).txAt + us 10)).keepAlive x)) ∧
      exec (.kaLimitKeepaliveSend x) s = .next ((s.till ((s.ses x).txAt + 500000 * (s.ses x).ka)).keepAlive x) ∧
      exec (.keepAliveLost x) s = .next ((s.till ((s.ses x).rxAt + ms (s.ses x).ka)).endSession x 1) ∧
      exec (.retentionRoomSend x) s = .next (s.settle x)

/-- O17. A KEEPALIVE of the tail carries the next device number and takes none (R65). On a LIVE session with unacknowledged frames
and a transmit association that has numbers left, TAIL_KEEPALIVE_SEND answers a state whose newest frame is a KEEPALIVE to that
session with SEQ = the next device sequence number; that number, the frames held and the number expected from the host are as
before, and at least 10 us have passed since the last frame sent. -/
def Obligations.TailKeepaliveShowsTheNextNumber : Prop :=
  ∀ (x : SessId) (s : State) (a : Sa), s.powered = true → (s.ses x).st = .live → (s.ses x).retain ≠ [] →
      (s.ses x).tx = some a → a.pn ≠ 0 →
      ∃ t o, exec (.tailKeepaliveSend x) s = .next t ∧ t.out = o :: s.out ∧
        o.port = (s.ses x).port ∧ o.link = (s.ses x).link ∧ o.sec = some (a.an, a.pn) ∧
        o.frame.hdr.opcode = opKeepalive ∧ o.frame.hdr.session = x ∧ o.frame.hdr.seq = (s.ses x).dseq ∧
        (t.ses x).dseq = (s.ses x).dseq ∧ (t.ses x).retain = (s.ses x).retain ∧ (t.ses x).e = (s.ses x).e ∧
        (s.ses x).txAt + us 10 ≤ t.now

/-- O18. RECEIVE_FRAME: what a link drops and counts, and what it hands on (R39, R40, R41, R42, R43, R44, R85, R93, R94). At a link
that is not UP nothing happens. At a link that is UP the MAC counters count first; a frame that fails FEC, FCS or length does
nothing else; PAUSE is counted; a frame for another address does nothing; a frame whose C-tag is not as CLEAR_TAG asks is
counted; with the mesh off nothing more happens; a frame with a SecTAG of other control bits, of another SL (log 105), of no association, or whose ICV does not verify under
the association's key, is a stranger of its class; one that verifies but fails the replay check is counted as such; one that
passes is heard, and what it carries under the Jilum EtherType is handed to its session (another EtherType: nothing more, log
115). A frame without a SecTAG and with another EtherType, or of another opcode than ENROLL and ENROLL_FINISH, is an unprotected
stranger; ENROLL and ENROLL_FINISH are handed to enrollment. -/
def Obligations.FramesAtALink : Prop :=
  ∀ (p : PortId) (l : LinkId) (f : RxFrame) (s : State), s.powered = true →
      let b := f.bytes
      let s1 := s.macCounts p l f
      let ans := fun (t : State) => exec (.receiveFrame p l f) s = .next t
      (s.link p l ≠ .up → ans s) ∧
      (s.link p l = .up →
        (macOk f = false → ans s1) ∧
        (macOk f = true → frameDa b = pauseMac → beAt b 12 2 = pauseType → ans (s1.lcnt p l 4)) ∧
        (macOk f = true → ¬(frameDa b = pauseMac ∧ beAt b 12 2 = pauseType) →
          (frameDa b ≠ s1.linkMac p l → ans s1) ∧
          (frameDa b = s1.linkMac p l → (s1.port p).tagOk (frameTag b) = false → ans (s1.lcnt p l 5)) ∧
          (frameDa b = s1.linkMac p l → (s1.port p).tagOk (frameTag b) = true → s1.meshOn = false → ans s1) ∧
          (frameDa b = s1.linkMac p l → (s1.port p).tagOk (frameTag b) = true → s1.meshOn = true →
            (∀ c, frameSec b = some c →
              (c.tci ≠ tciGood ∨ slGood b c = false ∨ s1.bound p l c = none → ans (s1.stranger p l 1 (frameSa b))) ∧
              (∀ x a, c.tci = tciGood → slGood b c = true → s1.bound p l c = some x →
                (s1.ses x).rx.find? (fun a => decide (a.an = c.an)) = some a →
                let pn := a.recover s1.replayWin c.pn
                (unprotect a (BitVec.ofNat 64 pn) b = none → ans (s1.stranger p l 2 (frameSa b))) ∧
                (∀ plain, unprotect a (BitVec.ofNat 64 pn) b = some plain →
                  (pn < a.lowest s1.replayWin → ans (s1.modStrg p l fun g => { g with cnt := Tab.bump g.cnt 4 })) ∧
                  (a.lowest s1.replayWin ≤ pn →
                    (∀ r, beAt plain 0 2 = s1.cfg.etherType.toNat → Rq.ofBytes (plain.drop 2) = some r →
                      ans ((s1.heard x c.an pn (frameTag b)).protectedFrame x r)) ∧
                    (beAt plain 0 2 ≠ s1.cfg.etherType.toNat → ans (s1.heard x c.an pn (frameTag b))))))) ∧
            (frameSec b = none →
              (frameType b ≠ s1.cfg.etherType.toNat → ans (s1.stranger p l 0 (frameSa b))) ∧
              (∀ r, frameType b = s1.cfg.etherType.toNat → frameClear b = some r →
                let e : EnrFrame := { sa := frameSa b, ctag := frameTag b, rq := r }
                (r.hdr.opcode = opEnroll → ans (s1.enrollArrives p l e)) ∧
                (r.hdr.opcode = opFinish → ans (s1.finishArrives p l e)) ∧
                (r.hdr.opcode ≠ opEnroll → r.hdr.opcode ≠ opFinish → ans (s1.stranger p l 0 (frameSa b))))))))

/-- O19. ENROLL and ENROLL_FINISH at a link that is UP: queued, replacing an older ENROLL of the session, or dropped and counted
(R42, R80, R82, R93, R428). On a link that is UP a frame whose C-tag is not as CLEAR_TAG asks is counted and dropped, and with the mesh off nothing
more happens. An ENROLL of 56
bytes that the device answers takes the place of an ENROLL of the same session that waits in the enrollment queue, else joins
the queue's end while fewer than 256 wait, else is counted as ENROLL_DROP with its source. An ENROLL that is not answered, or of
another length, is counted so. An ENROLL_FINISH of 64 bytes that matches the pending exchange, or repeats one that was answered or
whose enrollment waits, joins the queue while fewer than 256 wait, else is counted; any other is counted. -/
def Obligations.EnrollmentFramesAreQueued : Prop :=
  ∀ (p : PortId) (l : LinkId) (f : EnrFrame) (s : State), s.powered = true → s.link p l = .up →
      let a := EnrFrameOf f opEnroll
      let b := EnrFrameOf f opFinish
      let x := f.rq.hdr.session
      let older := fun (o : Queued) => decide (o.frame.rq.hdr.opcode = opEnroll ∧ o.frame.rq.hdr.session = x)
      let drop := s.stranger p l 3 f.sa
      ((s.port p).tagOk f.ctag = false →
        exec (.enroll p l f) s = .next (s.lcnt p l 5) ∧ exec (.enrollFinish p l f) s = .next (s.lcnt p l 5)) ∧
      ((s.port p).tagOk f.ctag = true → s.meshOn = false →
        exec (.enroll p l f) s = .next s ∧ exec (.enrollFinish p l f) s = .next s) ∧
      ((s.port p).tagOk f.ctag = true → s.meshOn = true →
        (f.rq.payload.length = 56 → s.enrollOk p l a.rq = true →
          (s.enrQ.any older = true → exec (.enroll p l f) s =
            .next { s with enrQ := s.enrQ.map fun o => if older o then { port := p, link := l, frame := a } else o }) ∧
          (s.enrQ.any older = false → s.enrQ.length < 256 →
            exec (.enroll p l f) s = .next { s with enrQ := s.enrQ ++ [{ port := p, link := l, frame := a }] }) ∧
          (s.enrQ.any older = false → 256 ≤ s.enrQ.length → exec (.enroll p l f) s = .next drop)) ∧
        (f.rq.payload.length ≠ 56 ∨ s.enrollOk p l a.rq = false → exec (.enroll p l f) s = .next drop) ∧
        (f.rq.payload.length = 64 → (s.ses x).finishMatches p l b.rq = true ∨ (s.ses x).finishRepeats b.rq = true →
          (s.enrQ.length < 256 →
            exec (.enrollFinish p l f) s = .next { s with enrQ := s.enrQ ++ [{ port := p, link := l, frame := b }] }) ∧
          (256 ≤ s.enrQ.length → exec (.enrollFinish p l f) s = .next drop)) ∧
        (f.rq.payload.length ≠ 64 ∨ ((s.ses x).finishMatches p l b.rq = false ∧ (s.ses x).finishRepeats b.rq = false) →
          exec (.enrollFinish p l f) s = .next drop))

/-- O20. A stranger frame is counted in its class, with its source, and takes nothing (R93, R94, R300). Counting a stranger frame of
class i from sa on link l of port p puts sa in STRG_LAST and raises counter i of that link by one, up to its last value; no
other link's record changes, and nothing else of the state but the event block, where the occurrence of the rate-limited source
waits. -/
def Obligations.StrangersAreCountedAndNothingElse : Prop :=
  ∀ (s : State) (p : PortId) (l : LinkId) (i : Nat) (sa : BitVec 48),
      ((s.stranger p l i sa).strgL p l).last = sa ∧
      (Tab.get 0 ((s.stranger p l i sa).strgL p l).cnt i).toNat = min ((Tab.get 0 (s.strgL p l).cnt i).toNat + 1) 0xFFFFFFFF ∧
      (∀ j, j ≠ i → Tab.get 0 ((s.stranger p l i sa).strgL p l).cnt j = Tab.get 0 (s.strgL p l).cnt j) ∧
      (∀ q k, (q, k) ≠ (p, l) → (s.stranger p l i sa).strgL q k = s.strgL q k) ∧
      { s.stranger p l i sa with strg := s.strg, evt := s.evt } = s

/-- O21. ENROLL_QUEUE_SERVICE, ENROLLMENT_COMPLETE, SESSION_CLOSE_COMPLETE, PENDING_EXCHANGE_EXPIRY, OLD_RECEIVE_SA_DELETE (R82,
R83, R89, R91, R92, R428). The front of a nonempty enrollment queue leaves it: an ENROLL of a session without an exchange is
answered; one identical to the pending exchange's from the same source on the same link has that exchange's ACK sent again; any
other is answered anew; an ENROLL_FINISH of the pending exchange that verifies becomes the enrollment to be completed, and one
that does not has the exchange discarded and DENIED sent; one that repeats a FINISH that was answered has that answer sent again, and one
that repeats the FINISH whose enrollment waits is answered with it; any other is counted. A verified enrollment of an ENROLLING session is installed, and one of a LIVE session ends the old binding with cause 5.
A CLOSING session that has emptied takes the verified enrollment that waits, or becomes ENROLLING with a pending exchange, or
IDLE. A pending exchange is discarded 100 ms after its ACK, and the session returns from ENROLLING to IDLE unless its enrollment
is completing. The old receive association is deleted when its 10 ms have passed. -/
def Obligations.EnrollmentAndClosingGoOn : Prop :=
  ∀ (x : SessId) (s : State), s.powered = true →
      (∀ q rest, s.enrQ = q :: rest →
        let r := q.frame.rq
        let y := r.hdr.session
        let s1 : State := { s with enrQ := rest }
        let ans := fun (t : State) => exec .enrollQueueService s = .next t
        let again := fun (a : Frame) => ans (s1.emitEnr q.port q.link q.frame.sa q.frame.pcp a)
        (r.hdr.opcode = opEnroll →
          ((s.ses y).exch = none → ans (s1.answerEnroll q y)) ∧
          (∀ o, (s.ses y).exch = some o →
            let same := o.rq = r ∧ o.mac = q.frame.sa ∧ o.port = q.port ∧ o.link = q.link
            (same → again o.ackFrame) ∧ (¬same → ans (s1.answerEnroll q y)))) ∧
        (r.hdr.opcode ≠ opEnroll →
          (∀ o, (s.ses y).finishMatches q.port q.link r = true → (s.ses y).exch = some o →
            (o.verifies (s.cred y).key r.payload = true → ans (s1.modSes y fun S => { S with
              exch := none, fin := some { o with mac := q.frame.sa, pcp := q.frame.pcp, finish := some r } })) ∧
            (o.verifies (s.cred y).key r.payload = false →
              let a : Frame := { hdr := enrAckHdr r stDenied o.e (o.d + 1) 0 }
              ans ((s1.modSes y fun S => { S with
                exch := none, st := if S.st = .enrolling ∧ S.fin = none then .idle else S.st
                finAck := (r, a) :: S.finAck }).emitEnr q.port q.link q.frame.sa q.frame.pcp a))) ∧
          (∀ e, (s.ses y).finishMatches q.port q.link r = false → (s.ses y).finAck.find? (fun e => decide (e.1 = r)) = some e →
            again e.2) ∧
          (∀ o, (s.ses y).finishMatches q.port q.link r = false → (s.ses y).finAck.find? (fun e => decide (e.1 = r)) = none →
            (s.ses y).fin = some o → o.finish = some r → ans (s1.modSes y fun S => { S with
              fin := some { o with repeats := o.repeats ++ [(q.port, q.link, q.frame.sa, q.frame.pcp)] } })) ∧
          ((s.ses y).finishMatches q.port q.link r = false → (s.ses y).finishRepeats r = false →
            ans (s1.stranger q.port q.link 3 q.frame.sa)))) ∧
      (∀ o, (s.ses x).fin = some o →
        ((s.ses x).st = .enrolling → exec (.enrollmentComplete x) s = .next (s.install x o)) ∧
        ((s.ses x).st = .live → exec (.enrollmentComplete x) s = .next (s.endSession x 5)) ∧
        ((s.ses x).st = .closing → s.emptied x = true → exec (.sessionCloseComplete x) s = .next (s.install x o))) ∧
      ((s.ses x).fin = none → (s.ses x).st = .closing → s.emptied x = true →
        exec (.sessionCloseComplete x) s = .next (s.modSes x fun S => { S with st := if S.exch = none then .idle else .enrolling })) ∧
      (∀ o, (s.ses x).exch = some o → exec (.pendingExchangeExpiry x) s = .next
        ((s.till (o.at_ + ms 100)).modSes x fun S => { S with
          exch := none, st := if S.st = .enrolling ∧ S.fin = none then .idle else S.st })) ∧
      (∀ n, (s.ses x).oldAt = some n → exec (.oldReceiveSaDelete x) s = .next
        ((s.till n).modSes x fun S => { S with rx := S.rx.take 1, oldAt := none }))

/-- O22. A completed enrollment: associations on number 0, epoch E, next host number H + 2, next device number D + 2, LIVE, and the
ACK leaves (R76, R82, R83, R88). Installing verified exchange o on session x makes x LIVE on the exchange's link with epoch E; the
next expected host number is H + 2 and the next device number D + 2, where H and D are the numbers of the ENROLL and of its ACK,
or D + 3 where SESSION_UP goes to x itself at once; both associations stand on association number 0; no frame but that EVENT
is held and no request waits. The ACK of ENROLL_FINISH leaves unprotected, and after it nothing but the same ACK, once for each
repeat of the FINISH that waited for it, and EVENT frames. Every
other session keeps its state, epoch and expected number. -/
def Obligations.InstallMakesTheSessionLive : Prop :=
  ∀ (s : State) (x : SessId) (o : Exch),
      let t := s.install x o
      (t.ses x).st = .live ∧ (t.ses x).epoch = o.e ∧ (t.ses x).e = o.rq.hdr.seq + 2 ∧
      ((t.ses x).dseq = o.d + 2 ∨ ((Tab.get {} s.evt.route 14).frame ≠ 0 ∧ (t.ses x).dseq = o.d + 3)) ∧
      (t.ses x).port = o.port ∧ (t.ses x).link = o.link ∧ (t.ses x).rx = [o.up 0] ∧ (∃ n, (t.ses x).tx = some { o.down 0 with pn := n }) ∧
      (∀ f ∈ (t.ses x).retain, f.hdr.opcode = opEvent) ∧ (t.ses x).reqs = [] ∧
      (∀ y, y ≠ x → (t.ses y).st = (s.ses y).st ∧ (t.ses y).epoch = (s.ses y).epoch ∧ (t.ses y).e = (s.ses y).e) ∧
      (∃ l f, t.out = l ++ f :: s.out ∧ (∀ o ∈ l, o.frame.hdr.opcode = opEvent ∨ o.frame = f.frame) ∧ f.port = o.port ∧ f.link = o.link ∧ f.sec = none ∧ f.frame.hdr.opcode = opAck ∧
        f.frame.hdr.epoch = o.e ∧ f.frame.hdr.ref = o.rq.hdr.seq + 1)

/-- O23. A LIVE session that ends is CLOSING at once, with its cause, without associations, frames, requests or gap (R91, R92, R111,
R120). Ending LIVE session x with cause c makes it CLOSING with LAST_END = c and its epoch; its associations, retained and
waiting frames, requests, completion cache, gap and pending rollover are gone; every lease x held and not yet broken is to be
resolved with cause 2; nothing is sent but EVENT frames to others. Sessions y other than x keep their state, expected number and
requests. On every tile that is in no fault reset and no replay the session's cells end in their order, and what waited for them
goes on: a claimed one is freed, its frames and tokens given back, unless its request's other part has been armed and its own ARM
is still on the way (log 149); an armed write, a granted part and an executed merge stay to be finished; a cell without lines, and
every other armed part, is freed. None of these touches what is staged. A session that is not LIVE does not end. -/
def Obligations.EndOfASession : Prop :=
  ∀ (s : State) (x : SessId) (c : BitVec 3),
      ((s.ses x).st ≠ .live → s.endSession x c = s) ∧
      ((s.ses x).st = .live →
        let t := s.endSession x c
        (t.ses x).st = .closing ∧ (t.ses x).lastEnd = c ∧ (t.ses x).epoch = (s.ses x).epoch ∧ (t.ses x).rx = [] ∧
        (t.ses x).tx = none ∧ (t.ses x).retain = [] ∧ (t.ses x).waitQ = [] ∧ (t.ses x).reqs = [] ∧ (t.ses x).cache = [] ∧ (t.ses x).gap = none ∧
        (t.ses x).roll = none ∧ (∀ y, y ≠ x → (t.ses y).st = (s.ses y).st ∧ (t.ses y).e = (s.ses y).e ∧
          (t.ses y).reqs = (s.ses y).reqs) ∧
        (∀ r, (s.rgn r).held = true → (s.rgn r).holder = x → (s.rgn r).resolving = none → (t.rgn r).resolving = some 2) ∧
        (∃ l, t.out = l ++ s.out ∧ ∀ o ∈ l, o.frame.hdr.opcode = opEvent) ∧
        t.tiles = ((List.finRange 8).foldl (fun v u =>
          if (v.tile u).ctl.st = .faultReset ∨ (v.tile u).ctl.st = .replay then v
          else (v.queue u x).foldl (fun v id => (v.endPart u id).serveWaiting u) v)
            ((s.modSes x fun _ => t.ses x).voidArms x)).tiles) ∧
      (∀ u id d, s.cell? u id = some d →
        let v := s.endPart u id
        let back := fun (b : Bool) => (d.took.filter fun k => decide (k = b)).length
        (v.tile u).adm.staged = (s.tile u).adm.staged ∧
        (d.st = .claimed → s.armComes u d.sess d.seq = false → v.cell? u id = none ∧
          (v.tile u).adm.stFree = (s.tile u).adm.stFree + back false + d.extra ∧
          (v.tile u).adm.cbFree = (s.tile u).adm.cbFree + back true + d.cbuf ∧
          (v.tile u).adm.level = min (s.tile u).adm.depth ((s.tile u).adm.level + d.wtok)) ∧
        (d.st = .claimed → s.armComes u d.sess d.seq = true → v = s) ∧
        (d.st ≠ .claimed → d.n ≠ 0 → d.finishes = true → v = s) ∧
        (d.st ≠ .claimed → d.n = 0 ∨ d.finishes = false → v.cell? u id = none))

/-- O24. SES_KILL, SES_STRG_CLR, CREDENTIAL_DISABLE, CREDENTIAL_ENABLE where their registers answer (R14, R78, R91, R93, R375).
SES_KILL returns an ENROLLING session to IDLE without its exchange, ends a LIVE one with cause 4, and leaves one that is IDLE or
CLOSING as it is; SES_STRG_CLR zeroes the counters of one link; CREDENTIAL_DISABLE of a steward-written entry that is enabled, or
whose enable is pending, commits the entry disabled, and its effect waits for the commit; CREDENTIAL_ENABLE of one that is
disabled, or whose disable is pending, commits the whole entry before it takes effect; an entry that stands as asked, and one of
the image, is untouched by both. -/
def Obligations.StewardEndsSessionsAndCredentials : Prop :=
  ∀ (x : SessId) (p : PortId) (l : LinkId) (s : State), s.powered = true →
      (s.reach 0x100004 = true →
        ((s.ses x).st = .enrolling →
          exec (.sesKill x) s = .next (s.modSes x fun S => { S with st := .idle, exch := none, fin := none })) ∧
        ((s.ses x).st = .live → exec (.sesKill x) s = .next (s.endSession x 4)) ∧
        ((s.ses x).st = .idle ∨ (s.ses x).st = .closing → exec (.sesKill x) s = .next s)) ∧
      (s.reach 0x100008 = true → exec (.sesStrgClr p l) s = .next (s.modStrg p l fun g => { g with cnt := [] })) ∧
      (s.reach (0x101000 + 0x40 * x.val) = true →
        let on := (s.cred x).want.getD (s.cred x).enable
        ((s.cred x).fromImage = false → on = true → exec (.credentialDisable x) s = .next
            ((s.modCred x fun c => { c with want := some false }).commit (baseCred x.val)
              ({ s.cred x with enable := false } : Cred).body [.credOff x]) ∧
          exec (.credentialEnable x) s = .next s) ∧
        ((s.cred x).fromImage = false → on = false → exec (.credentialEnable x) s = .next
            ((s.modCred x fun c => { c with want := some true }).commit (baseCred x.val)
              ({ s.cred x with enable := true } : Cred).body [.credSet x]) ∧
          exec (.credentialDisable x) s = .next s) ∧
        ((s.cred x).fromImage = true → exec (.credentialDisable x) s = .next s ∧ exec (.credentialEnable x) s = .next s))

/-- O25. CLAIM, CLAIM_RESULT, ARM, DROP_REMAINDER, REWIND, PART_COMPLETION act on the oldest message of their kind between two tiles
(R20, R30, R97, R98, R99, R100, R102, R103, R152). Where the oldest message from src to dst is of the command's kind and dst
hears the mesh, the message leaves the mesh and: CLAIM of a LIVE session has dst take the part in, answer with a CLAIM_RESULT, and
arm it at once where the part is alone (its region checked once more, log 123); ARM arms the named part's cell, and of a session that has ended it does so
only where the other part has been armed, whose cell then ends (log 149); DROP_REMAINDER
and REWIND take the rest of the session's claims off dst's queue; a PART_COMPLETION of the session's epoch is recorded at the
home tile and the session goes on; a CLAIM_RESULT that a drop has made stale is counted off; a CLAIM, CLAIM_RESULT or
PART_COMPLETION for a session that is no longer LIVE, or a PART_COMPLETION of another epoch, does nothing more. A message that
dst cannot hear stays where it is. -/
def Obligations.MeshMessagesAreTakenInOrder : Prop :=
  ∀ (src dst : TileId) (s : State), s.powered = true →
      (∀ m, s.hears dst = true → s.firstMsg src dst = some m →
        let s1 := s.takeMsg src dst
        (∀ x rq part first n tla mark armNow, m.body = .claim x rq part first n tla mark armNow →
          let c := s1.claim dst src x rq first n tla mark
          let s2 := c.1.send dst src (.claimResult x rq.hdr.seq part c.2)
          let id := freeId (s.tile dst).adm.cells
          ((s.ses x).st = .live → (armNow = false ∨ c.2 ≠ none) → exec (.claim src dst) s = .next s2) ∧
          ((s.ses x).st = .live → armNow = true → c.2 = none →
            (s2.barsNow rq = none → exec (.claim src dst) s = .next (s2.armPart dst id)) ∧
            (∀ st, s2.barsNow rq = some st → exec (.claim src dst) s =
              .next ((s2.modCell dst id fun c => { c with res := { c.res with status := st } }).armPart dst id))) ∧
          ((s.ses x).st ≠ .live → exec (.claim src dst) s = .next s1)) ∧
        (∀ x seq part f, m.body = .claimResult x seq part f →
          ((s.ses x).st ≠ .live → exec (.claimResult src dst) s = .next s1) ∧
          (∀ n, (s.ses x).st = .live → Tab.get 0 (s.ses x).stale src.val = n + 1 →
            exec (.claimResult src dst) s = .next (s1.modSes x fun S =>
              { S with stale := Tab.upd 0 S.stale src.val fun n => n - 1 }))) ∧
        (∀ x seq part, m.body = .arm x seq part →
          (∀ id, s1.cellOf dst x seq = some id →
            ((s.ses x).st = .live → exec (.arm src dst) s = .next (s1.armPart dst id)) ∧
            ((s.ses x).st ≠ .live → part = 0 → exec (.arm src dst) s = .next ((s1.armPart dst id).endCell dst id)) ∧
            ((s.ses x).st ≠ .live → part ≠ 0 → exec (.arm src dst) s = .next s1)) ∧
          (s1.cellOf dst x seq = none → exec (.arm src dst) s = .next s1)) ∧
        (∀ x seq, m.body = .drop x seq → exec (.dropRemainder src dst) s = .next (s1.dropPart dst x seq)) ∧
        (∀ x, m.body = .rewind x → exec (.rewind src dst) s = .next (s1.rewind dst x)) ∧
        (∀ x epoch seq part r, m.body = .completion x epoch seq part r →
          ((s.ses x).st = .live → (s.ses x).epoch = epoch →
            exec (.partCompletion src dst) s = .next ((s1.partDone x seq part r).settle x)) ∧
          ((s.ses x).st ≠ .live ∨ (s.ses x).epoch ≠ epoch → exec (.partCompletion src dst) s = .next s1))) ∧
      (s.hears dst = false → exec (.claim src dst) s = .next s ∧ exec (.claimResult src dst) s = .next s ∧
        exec (.arm src dst) s = .next s ∧ exec (.dropRemainder src dst) s = .next s ∧ exec (.rewind src dst) s = .next s ∧
        exec (.partCompletion src dst) s = .next s)

/-- O26. The claim result of a request: one part admitted, the request is armed; one of several, or short, it is recorded; the session
goes on (R98, R100, R104). For a LIVE session x with a claiming request q with a part sent to src, when that tile's result for it is
the oldest message from src to dst: a single part admitted leaves the request and the part armed, and the session's marker is
sealed where one is open; one of several parts admitted is recorded as claimed, and a short one as failed, the request still
claiming; in each case the session then goes on. -/
def Obligations.ClaimResultArmsASinglePart : Prop :=
  ∀ (src dst : TileId) (x : SessId) (seq : Word) (part : Nat) (f : Option Short) (m : Msg) (q : Req) (s : State),
      s.powered = true → s.hears dst = true → (s.ses x).st = .live → Tab.get 0 (s.ses x).stale src.val = 0 →
      s.firstMsg src dst = some m → m.body = .claimResult x seq part f →
      (s.ses x).reqs.find? (fun q => decide (q.rq.hdr.seq = seq ∧ q.st = .claiming) &&
        q.parts.any fun p => decide (p.tile = src ∧ p.first = part ∧ p.st = .sent)) = some q →
      let with_ := fun (q' : Req) => (s.takeMsg src dst).modSes x fun S => { S with reqs := S.reqs.map fun o => if o = q then q' else o }
      let parts := fun (st : PartSt) => q.parts.map fun p => if p.tile = src then { p with st } else p
      (f = none → q.parts.length = 1 → exec (.claimResult src dst) s =
        .next (((with_ { q with st := .armed, parts := parts .armed }).sealMarker x (s.ses x).consumed).settle x)) ∧
      (f = none → q.parts.length ≠ 1 → exec (.claimResult src dst) s =
        .next ((with_ { q with st := .claiming, parts := parts .claimed }).settle x)) ∧
      (∀ e, f = some e → exec (.claimResult src dst) s =
        .next ((with_ { q with st := .claiming, parts := parts (.failed e) }).settle x))

/-- O27. MARKER_SEAL_TIMEOUT and BARRIER_ACK (R104, R108, R138). On a LIVE session whose marker is open, MARKER_SEAL_TIMEOUT seals
it no earlier than 1 us after it was opened, and what may be sent is sent. On a LIVE session whose oldest request is an armed
BARRIER, with no earlier DATA unsettled and no completion of it waiting, BARRIER_ACK completes it OK and the session goes on. -/
def Obligations.MarkersAndBarriers : Prop :=
  ∀ (x : SessId) (s : State), s.powered = true → (s.ses x).st = .live →
      ((s.ses x).marker.st = 1 →
        exec (.markerSealTimeout x) s = .next (((s.till ((s.ses x).marker.at_ + us 1)).sealMarker x (s.ses x).consumed).flush x)) ∧
      (∀ q l, (s.ses x).reqs = q :: l → q.rq.hdr.opcode = opBarrier → q.st = .armed → q.fail = none → (s.ses x).unset = none →
        (s.ses x).waitQ.any (fun w => decide (w.rseq = some q.rq.hdr.seq)) = false →
        exec (.barrierAck x) s = .next ((s.ack x q.rq stOk).settle x))

/-- O28. FRAME_START, SLOT_DECISION, VARIANT_LATCH, GALE_LONG, SUPERFRAME_START at the instants the engine has them (R105, R113,
R211, R218, R219, R220, R234, R238, R239, R243). Where slot 0 of a frame is next, FRAME_START begins the frame, then does its
background work and links the patrol's next read. In a frame with fewer than 64 slots behind it SLOT_DECISION first waives what is to
be waived and takes the grants of the slot before away; then the eight channels decide in order, each from what stood before the slot's decisions; and the slot is counted. At
slot 0 of frame 1,023 VARIANT_LATCH sets NEXT to the variant R233 chooses. In a gale of 4,096 superframes, counted in frames, whose
event has not occurred GALE_LONG makes it occur, once. Where the timebase runs and every running engine has had its last slot
SUPERFRAME_START adds 1 to SF, takes every tile over the boundary, and then lets the rate-limited sources occur and gathers the
counts. -/
def Obligations.SlotsFramesAndSuperframes : Prop :=
  ∀ (t : TileId) (s : State), s.powered = true →
      (s.frameDue t = true → exec (.frameStart t) s = .next ((((s.frame t).walk t).bgWork t).patrol t)) ∧
      ((s.tile t).sch.run = true → (s.tile t).sch.fresh = false → (s.tile t).sch.k < 64 → exec (.slotDecision t) s =
        .next (let e := (s.waive t).modSch t fun a => { a with grants := [] }
          ((List.range 8).foldl (fun s1 c => s1.channelSlot t c e) e).modSch t fun a => { a with k := a.k + 1 })) ∧
      ((s.tile t).sch.run = true → (s.tile t).sch.fresh = false → (s.tile t).sch.f = 1023 → (s.tile t).sch.k = 0 →
        exec (.variantLatch t) s = .next (s.modSch t fun a => { a with next := s.variant t })) ∧
      ((s.tile t).sch.gale = true → (s.tile t).sch.galeLongDone = false → 4096 * 1024 ≤ (s.tile t).sch.galeFrames →
        exec (.galeLong t) s = .next ((s.modSch t fun a => { a with galeLongDone := true }).raise (tsrc t 7)
          (fld 0 (s.tile t).sch.gsf.toNat))) ∧
      ((s.tile t).sch.galeLongDone = true → exec (.galeLong t) s = .next s) ∧
      (s.meshOn = true → s.coreOn 0 = true → s.clk.refHold = false →
        (∀ u ∈ s.fitted, (s.tile u).sch.run = true → (s.tile u).sch.f = 1023 ∧ (s.tile u).sch.k = 64) → exec .superframeStart s =
        .next ((s.fitted.foldl State.tileBoundary { s with sf := s.sf + 1 }).limitedOccur.gatherCounts))

/-- O29. The latched variant takes effect at slot 0 of frame 0 of the next superframe; R233 chooses by temperature (R219, R233, R234).
At a superframe boundary a running engine that is not to halt takes NEXT as its variant and stands at slot 0 of frame 0; one that
is to halt stops; one that is due to begin, on a tile that may run it, runs from there in the variant R233 chooses, and one that is
not due, or may not run, stays as it is. A tile may run its engine while its schedule is loaded, its medium initialised, its three
domains ON and its two PLLs locked, it is neither stopped nor out, and no thermal hold stands on it. No other tile is touched. The
variant R233 chooses is LEAN where asked for and present, else, whether LEAN is asked for or not, by thermal state: HOT (2) in HOT, in
WARM the image's WARM (1) or, where it has none, HOT, and NORMAL (0) in every other state; in TOO_HOT, where a hold stands, the
engine does not begin. -/
def Obligations.LatchedVariantTakesEffectAtTheBoundary : Prop :=
  ∀ (t : TileId) (s : State),
      ((s.tile t).sch.run = true → (s.tile t).sch.haltDue = false → ((s.boundary t).tile t).sch.var = (s.tile t).sch.next ∧
        ((s.boundary t).tile t).sch.f = 0 ∧ ((s.boundary t).tile t).sch.k = 0 ∧ ((s.boundary t).tile t).sch.run = true) ∧
      ((s.tile t).sch.run = true → (s.tile t).sch.haltDue = true → ((s.boundary t).tile t).sch.run = false) ∧
      ((s.tile t).sch.run = false → (s.tile t).sch.startDue = true → s.mayRun t = true →
        ((s.boundary t).tile t).sch.run = true ∧ ((s.boundary t).tile t).sch.var = s.variant t ∧
        ((s.boundary t).tile t).sch.f = 0 ∧ ((s.boundary t).tile t).sch.k = 0) ∧
      ((s.tile t).sch.run = false → (s.tile t).sch.startDue = false ∨ s.mayRun t = false → s.boundary t = s) ∧
      (s.mayRun t = true ↔ (s.tile t).ctl.loaded = true ∧ (s.tile t).ctl.medInit = true ∧ s.coreOn t = true ∧ s.sramOn t = true ∧
        s.mioOn t = true ∧ s.gated (8 * t.val) = false ∧ s.gated (8 * t.val + 1) = false ∧ (s.tile t).ctl.st ≠ .stopped ∧
        (s.tile t).ctl.st ≠ .out ∧ (s.thmT t).hold = false) ∧
      (∀ u, u ≠ t → (s.boundary t).tile u = s.tile u) ∧
      ((s.tile t).sch.leanReq = true → (s.tile t).sch.present.getLsbD 3 = true → s.variant t = 3) ∧
      ((s.tile t).sch.leanReq = false ∨ (s.tile t).sch.present.getLsbD 3 = false →
        ((s.thmT t).st = .hot → s.variant t = 2) ∧ ((s.thmT t).st = .normal ∨ (s.thmT t).st = .tooHot → s.variant t = 0) ∧
        ((s.thmT t).st = .warm → s.variant t = if (s.tile t).sch.present.getLsbD 1 then 1 else 2))

/-- O30. STEP_OVERDUE, CODEWORD_DECODED, REBUILD_COMPLETE, MAP_FETCH_COMPLETE, COUNTER_FETCH_COMPLETE (R146, R163, R190, R193,
R200, R217, R229, R285). A step of a program, or with none under way of a record of the remap area (log 151), that has waited 6 us,
and an erase step that has waited 12 us, becomes overdue. A codeword read that is under way at its die, and is no calibration read,
has its die acknowledged; where it decodes it ends with the stored payload; where it does not, or nothing is programmed there, a
first attempt waits for its retry one bucket older (in a stratum of uncertain age, and not for a recovery, under the bucket recorded),
counted, and a read of a recovery goes on to each older bucket; a last failed retry begins the rebuild, or, of a rebuild's member,
ends with nothing. A rebuild with no read left ends with what was gathered where that stands its own check, and with nothing where a
member failed. A map page or a counter group that was being fetched is taken in and the lines that waited for it go on. After each of
these reads the lines that can be served then are. -/
def Obligations.OverdueStepsAndCompletedReads : Prop :=
  ∀ (t : TileId) (c : ChanId) (d : DieId) (s : State), s.powered = true →
      (∀ g, (s.die t c.val d.val).prog = some g → g.steps < 12 → g.overdue = false → exec (.stepOverdue t c d false) s =
        .next ((s.till (g.at_ + us 6)).modDie t c.val d.val fun x => { x with prog := some { g with overdue := true } })) ∧
      (∀ h r, (s.die t c.val d.val).prog = none → (s.die t c.val d.val).changes = h :: r → h.steps < 12 → h.overdue = false →
        exec (.stepOverdue t c d false) s =
          .next ((s.till (h.at_ + us 6)).modDie t c.val d.val fun x => { x with changes := { h with overdue := true } :: r })) ∧
      (∀ n k at_, (s.die t c.val d.val).erase = some (n, k, at_, false) → k < 704 → exec (.stepOverdue t c d true) s =
        .next ((s.till (at_ + us 12)).modDie t c.val d.val fun x => { x with erase := some (n, k, at_, true) })) ∧
      (∀ id f, s.fetch? t id = some f → f.owner ≠ .patrol →
        let s1 := s.modDie t (cwaChan f.cwa).val (cwaDie f.cwa).val fun x => { x with timeouts := 0 }
        let ans := fun (ok : Bool) (v : State) => exec (.codewordDecoded t id ok) s = .next (s.after (v.serveWaiting t))
        (f.flying = true →
          (∀ v, Tab.find (s1.medium t).cws f.cwa.toNat = some v → ans true (s1.endRead t id f (some v))) ∧
          (∀ ok, ok = false ∨ Tab.find (s1.medium t).cws f.cwa.toNat = none →
            let more : Prop := f.stage = .first ∨ (f.owner = .recovery ∧ f.stage = .retry ∧ f.bucket < 15)
            let g := s1.stratum t (cwaStratum f.cwa)
            (more → ans ok ((s1.medCcnt t (cwaChan f.cwa).val 4).setFetch t id (some { f with
              stage := .retry, flying := false, since := s.now, ahead := (s1.medCcnt t (cwaChan f.cwa).val 4).foreground t f
              bucket := if g.uncertain = true ∧ f.owner ≠ .recovery then g.bucket.toNat else min (f.bucket + 1) 15 }))) ∧
            (¬more → (∀ par, f.owner ≠ .child par) → ans ok (s1.startRebuild t id f)) ∧
            (∀ par, ¬more → f.owner = .child par → ans ok (s1.endRead t id f none)))) ∧
        (∀ acc bad, f.stage = .rebuild 0 acc bad → exec (.rebuildComplete t id) s =
          .next (s.after ((s.endRead t id f (if bad = true ∨ s.ownTags t f.cwa acc = false then none else some acc)).serveWaiting t)))) ∧
      (∀ n, n < pageLimit → (s.tile t).xlt.fetching.contains n = true →
        exec (.mapFetchComplete t n) s = .next ((s.mapFetched t n).serveWaiting t)) ∧
      (∀ n, n < groupLimit → (s.tile t).sec.fetching.contains n = true →
        exec (.counterFetchComplete t n) s = .next ((s.ctrFetched t n).serveWaiting t))

/-- O31. MERGE_COMPLETE, CHECK_OUTCOME, CHECK_TIMEOUT, SQUALL, TILE_FAULT_REPLAY (R71, R134, R150, R151, R276, R285, R286). A merge
whose data has been checked is executed on the line and what waits for it goes on. A check of a line that is not yet settled and whose reads are in
is good where the tag that was delivered and the tree over the line's block both verify and neither is reported bad, a block that is
cached having verified already; a block whose tree verifies is cached; a bad check is of class 0 where the tag fails and 1 where the
tree does. A check that times out is of class 2. A good check is the line's outcome; a tree that fails fails every line checked under
the object that does not match; a tag that fails fails the line and has its codeword rebuilt in the background where it has one; a
time-out fails the line. The sessions then go on. A LIVE session whose DATA has no check pending and a failed one has a SQUALL naming the
failed lines put first. A tile due to replay whose engine runs replays what it had in flight, and a tile in REPLAY returns to
service. -/
def Obligations.ChecksMergesSquallsAndReplay : Prop :=
  ∀ (t : TileId) (pl : PartLine) (x : SessId) (s : State), s.powered = true →
      (∀ id i c d, s.lineCell t pl = some (id, i) → s.cell? t id = some c → c.phaseAt i = .checking d true →
        exec (.mergeComplete t pl) s = .next (((s.setSpan t (c.line i)).execLine t id i d 0).serveWaiting t)) ∧
      (∀ id i c a b, s.lineCell t pl = some (id, i) → s.cell? t id = some c → c.pending.contains i = true →
        let slot := s.slotAt t (c.line i)
        let tag := a && !c.tagBad.contains i
        let tree := (b || (Tab.get none (s.tile t).sec.cached (treeKey 0 slot)).isSome) && s.treeHolds t slot
        (c.checks i = true → s.treeBusy t slot = false → exec (.checkOutcome t pl a b) s =
          .next ((if tree = true then s.ctrVerified t slot else s).checked t pl (tag && tree) (if tag = true then 1 else 0)).settleAll) ∧
        exec (.checkTimeout t pl) s = .next (s.checked t pl false 2).settleAll ∧
        (c.checks i = true → ∀ v : State, v.slotAt t (c.line i) = slot → v.lineCell t pl = some (id, i) → v.cell? t id = some c →
          let out := v.modSec t fun a => { a with arrived := a.arrived.filter fun x => decide (x ≠ slot) }
          v.checked t pl true 0 = out.lineOutcome t pl true ∧
          v.checked t pl false 1 = v.treeFails t (v.badObject t (treeKey 0 slot)) ∧
          v.checked t pl false 2 = out.failLine t pl 2 ∧
          (∀ cwa, (out.failLine t pl 0).placeOf t (c.line i) = some cwa →
            v.checked t pl false 0 = (out.failLine t pl 0).rebuildNow t cwa (.check cwa (c.line i))) ∧
          ((out.failLine t pl 0).placeOf t (c.line i) = none → v.checked t pl false 0 = out.failLine t pl 0))) ∧
      (∀ u, (s.ses x).unset = some u → u.pending = 0 → u.failed ≠ 0 → (s.ses x).st = .live → exec (.squall x) s =
        .next ((((s.wait x
          { hdr := { opcode := opSquall, status := stIntegrity, flags := flagsOf true false false false false false
                     count := u.count, ref := u.dseq, aux := u.rseq, addr := u.addr }
            payload := beBytes 8 u.failed.toNat, squall := true }).flush x).settle x))) ∧
      ((s.tile t).ctl.replayDue = true → (s.tile t).sch.run = true → exec (.tileFaultReplay t) s =
        .next ((((s.replayTile t).modCtl t fun c =>
          { c with replayDue := false, st := if c.st = .replay then .inService else c.st }).serveWaiting t).settleAll))

/-- O32. PROGRAM_COMPLETE, PROGRAM_FAIL, ERASE_BEGIN, ERASE_COMPLETE, ERASE_FAIL, CHECKPOINT, the die faults, STRATUM_BUCKET_ENTRY,
STRATUM_PAD, SURVEY_COMPLETE (R172, R176, R181, R182, R192, R195, R196, R197, R200, R207, R208, R215, R229, R337). A program whose 12
steps have been issued completes, its pages written and their records journalled; with no program under way PROGRAM_COMPLETE
completes the die's oldest record of the remap area once its 12 steps have been issued (log 151), which then stands in the table and
in the remap area, or, on a tile that is being drained, a program of its cairn, and the next one goes to the die's next cairn page
position; one of the cairn that fails is programmed again at that position, its slab noted. A program step of a page being written
that fails is counted; recovered by a repeated step, the step is
due again; else the slab's page is carried over to a replacement, and where it was a replacement that failed, that slab goes to the bad
list and another takes its place. A stratum that waits for its erase, with no read of it
outstanding, enters the erase order; when every channel has had its 704 steps the erase is done and no codeword of the stratum is
left. A failed erase step is counted; recovered, it is due again; else its slab is retired for the youngest spare. A running
engine whose last checkpoint is 64 superframes old, or that has none, starts one. A die's command without an answer is counted, and the
fourth in a row takes the die out, as a fault of the microsequencer does. A closed stratum, or one that waits for its erase, that
has gone through its bucket enters the next. An open one 16 s old and not being written is padded. A survey with nothing left ends
AGE_UNKNOWN, reported. -/
def Obligations.MediumCommands : Prop :=
  ∀ (t : TileId) (c : ChanId) (d : DieId) (n : Nat) (s : State), s.powered = true →
      (∀ g, (s.die t c.val d.val).prog = some g → g.steps = 12 →
        (g.carried = false → exec (.programComplete t c d) s = .next (s.progDone t c.val d.val g)) ∧
        exec (.programComplete t c d) s = .next (s.programmed t c.val d.val)) ∧
      ((s.die t c.val d.val).prog = none →
        ((s.tile t).ctl.draining = false → ∃ v, exec (.programComplete t c d) s = .next v ∧
          (∀ h r, (s.die t c.val d.val).changes = h :: r → h.steps = 12 → (v.die t c.val d.val).recs = h.recs ∧
            Tab.get {} (v.medium t).remaps (8 * c.val + d.val) = h.recs ∧
            (v.die t c.val d.val).changes = r.map fun k => { k with at_ := s.now }) ∧
          ((∀ h r, (s.die t c.val d.val).changes = h :: r → h.steps < 12) → v = s)) ∧
        ((s.tile t).ctl.draining = true → (s.tile t).ctl.cairnLeft ≠ 0 → (s.die t c.val d.val).recs.lost = false →
          Tab.get 0 (s.tile t).ctl.cairnPos (8 * c.val + d.val) < 256 →
          let p := Tab.get 0 (s.tile t).ctl.cairnPos (8 * c.val + d.val)
          let on := fun (k : Nat) => s.modCtl t fun a => { a with
            cairnPos := Tab.put 0 a.cairnPos (8 * c.val + d.val) (p + 1), cairnLeft := a.cairnLeft - k }
          exec (.programComplete t c d) s = .next (on 1) ∧
          exec (.programFail t c ⟨d, false⟩) s = .next (((on 0).medCcnt t c.val 0).modMedium t fun m =>
            let e := (8 * c.val + d.val, cairnSlab + p / 64)
            { m with cairnBad := if m.cairnBad.contains e then m.cairnBad else m.cairnBad ++ [e] }))) ∧
      (∀ g k, (s.die t c.val d.val).prog = some g → 0 < g.steps → g.carried = true → (s.die t c.val d.val).carry = some k →
        let s1 := (s.medCcnt t c.val 0).modDie t c.val d.val fun x => { x with prog := none }
        let s2 := ((s1.change t c.val d.val fun r => { r.take k.dest with bad := k.dest :: r.bad }).countRetired t c.val d.val).retireEnds t c.val d.val
        ((s2.die t c.val d.val).recs.lost = true → exec (.programFail t c ⟨d, false⟩) s = .next s2) ∧
        ((s2.die t c.val d.val).recs.lost = false → exec (.programFail t c ⟨d, false⟩) s = .next
          (((s2.dropFetches t fun f => decide (f.owner = .carry (8 * c.val + d.val))).modDie t c.val d.val
            fun x => { x with carry := none }).beginCarry t c.val d.val k.failed))) ∧
      (∀ g, (s.die t c.val d.val).prog = some g → 0 < g.steps →
        let s1 := s.medCcnt t c.val 0
        exec (.programFail t c ⟨d, true⟩) s = .next ((s1.modDie t c.val d.val fun x =>
          { x with prog := some { g with steps := g.steps - 1 } }).countFail t c.val d.val (g.stratum % 65536)) ∧
        (g.carried = false → (g.pages.any fun j => j.gc) = false → exec (.programFail t c ⟨d, false⟩) s =
          .next ((s1.modDie t c.val d.val fun x => { x with prog := none }).beginCarry t c.val d.val g)) ∧
        (g.carried = false → (g.pages.any fun j => j.gc) = true → exec (.programFail t c ⟨d, false⟩) s =
          .next (((s1.modDie t c.val d.val fun x => { x with prog := none }).xltCnt t 8).beginCarry t c.val d.val g))) ∧
      (∀ m k a b, (s.die t c.val d.val).erase = some (m, k, a, b) →
        let s1 := s.medCcnt t c.val 1
        exec (.eraseFail t c ⟨d, true⟩) s = .next ((s1.modDie t c.val d.val fun x =>
          { x with erase := some (m, k - 1, a, b) }).countFail t c.val d.val (m % 65536)) ∧
        exec (.eraseFail t c ⟨d, false⟩) s =
          .next (((s1.modDie t c.val d.val fun x => { x with erase := none }).modStratum t m fun g => { g with
            erased := if g.erased.contains c.val then g.erased else c.val :: g.erased
            spared := if g.spared.contains c.val then g.spared else c.val :: g.spared }).retire t c.val d.val (m % 65536)
              ((s1.die t c.val d.val).last.youngest (s1.die t c.val d.val).spares))) ∧
      (n < strataLimit →
        ((s.stratum t n).st = .pendErase →
          (s.tile t).sch.fetches.any (fun e => match e.2 with
            | some f => (f.flying || f.seen || decide (f.stage ≠ .first)) && decide (cwaStratum f.cwa = n)
            | none => false) = false →
          ((s.tile t).adm.cells.any fun e => e.2.phase.any fun p => match p.2 with
            | .counter _ cwa _ _ => decide (cwaStratum cwa = n)
            | _ => false) = false →
          (s.tile t).sch.erases.contains n = false →
          exec (.eraseBegin t n) s = .next (s.modSch t fun a => { a with erases := a.erases ++ [n] })) ∧
        ((s.stratum t n).st = .pendErase → (s.tile t).sch.erases.contains n = true →
          (∀ k < 8, (s.die t k (n / 65536)).recs.lost = false → (s.stratum t n).narrow.map Fin.val ≠ some k →
            (s.stratum t n).erased.contains k = true ∨ ∃ x y, (s.die t k (n / 65536)).erase = some (n, 704, x, y)) →
          exec (.eraseComplete t n) s = .next (s.eraseDone t n) ∧
            ∀ a, a / 32768 = n → Tab.find ((s.eraseDone t n).medium t).cws a = none) ∧
        ((s.stratum t n).st = .closed ∨ (s.stratum t n).st = .pendErase → (s.stratum t n).bucket.toNat < 15 →
          bucketWidth (s.stratum t n).bucket.toNat ≤ (s.stratum t n).progress →
          exec (.stratumBucketEntry t n) s = .next (s.setBucket t n ((s.stratum t n).bucket.toNat + 1)
            ((s.stratum t n).progress - bucketWidth (s.stratum t n).bucket.toNat))) ∧
        ((s.stratum t n).st = .opened → 256000 ≤ (s.tile t).med.dc.toNat - (s.stratum t n).openedDc → s.stratumBusy t n = false →
          exec (.stratumPad t n) s = .next (s.pad t n))) ∧
      ((s.tile t).sch.run = true →
        ((s.tile t).xlt.ckptSf = none → exec (.checkpoint t) s = .next (s.startCkpt t)) ∧
        (∀ f, (s.tile t).xlt.ckptSf = some f → 64 ≤ s.sf.toNat - f.toNat → exec (.checkpoint t) s = .next (s.startCkpt t))) ∧
      (s.hasTile t = true → s.mioOn t = true → (s.die t c.val d.val).recs.lost = false →
        ((s.die t c.val d.val).asked = true →
          ((s.die t c.val d.val).timeouts < 3 → exec (.dieCommandTimeout t c d) s =
            .next (s.modDie t c.val d.val fun x => { x with timeouts := x.timeouts + 1, asked := false })) ∧
          (3 ≤ (s.die t c.val d.val).timeouts → exec (.dieCommandTimeout t c d) s = .next (s.loseDie t c.val d.val 0))) ∧
        exec (.microsequencerInternalFault t c d) s = .next (s.loseDie t c.val d.val 1)) ∧
      ((s.tile t).med.ageUnknown = true → s.surveyLeft t = 0 → exec (.surveyComplete t) s =
        .next ((s.modMed t fun a => { a with ageUnknown := false }).raise (tsrc t 14) 1 false))

/-- O33. PATROL_FINDING, HOUSEKEEPING_ROUND, ROLLOVER_IMAGE, REKEY_PASS_END (R206, R211, R212, R213, R215, R280, R283, R284, R382,
R383, R384). The calibration reads of the codeword that the patrol is at end: in a stratum no longer closed the patrol goes on
behind it; in a closed one of certain age the codeword is clean with fewer than 120 bits corrected under its bucket's set, weak
from 120 on (its slab weak at erase, its stratum to be refreshed), and is read again where it does not decode; in one of uncertain
age what the sixteen sets correct is added up, the set that corrects fewest classes the codeword, and it is rebuilt where none decodes
it. Once that read and the rebuild have ended the codeword is shifted where the next set decoded it (the stratum takes
that bucket), rebuilt where only its siblings gave it, and lost where they did not: poison, or a map page to be written back. A
round on a tile whose core runs and whose reference is present takes the rail readings; a valid conversion gives the
temperature, its maximum and its run of hot readings, ages the medium and raises the thermal state; an invalid one is counted
with its kind. A group whose lines are resident, free of claims and of work on their way, is written under its new counters in
the background. A re-key pass that has reached every tract ends: the old secret goes, PASS_END occurs, and where a group is
stalled the next pass begins. -/
def Obligations.PatrolHousekeepingRolloverAndPasses : Prop :=
  ∀ (t : TileId) (s : State), s.powered = true →
      (∀ cwa first next sets, s.patrolled t cwa ≠ [] →
        let n := cwaStratum cwa
        let c := (cwaChan cwa).val
        let s0 := s.dropFetches t fun f => decide (f.owner = .patrol)
        let ans := fun (v : State) => exec (.patrolFinding t cwa first next sets) s = .next (s.after v)
        ((s.stratum t n).st ≠ .closed → ans (s0.passFrom t (n + 1))) ∧
        ((s.stratum t n).st = .closed → (s.stratum t n).uncertain = false →
          (∀ k, first = some k → k < 120 → ans ((s0.medTcnt t 0).passOn t n cwa)) ∧
          (∀ k, first = some k → 120 ≤ k → ans ((((s0.medTcnt t 1).modStratum t n fun g =>
            { g with weak := if g.weak.contains c then g.weak else c :: g.weak }).toRefresh t n).passOn t n cwa)) ∧
          (first = none → ans s)) ∧
        ((s.stratum t n).st = .closed → (s.stratum t n).uncertain = true →
          let s1 := s0.modMed t fun a => { a with psums := addSums a.psums sets }
          (∀ k, fewest sets = some k → ans ((s1.finding t cwa (some k) next).passOn t n cwa)) ∧
          (fewest sets = none → ans (s1.rebuildNow t cwa .patrol)))) ∧
      (∀ cwa next sets, s.patrolled t cwa = [] → (s.tile t).med.pfound = some next → (s.tile t).med.pnext = some cwa →
        let n := cwaStratum cwa
        let s0 := s.modMed t fun a => { a with pfound := none }
        let b := (s0.stratum t n).bucket.toNat
        let map : Prop := (s0.stratum t n).stream = .map ∨ (s0.stratum t n).stream = .counters
        let ans := fun (v : State) => exec (.patrolFinding t cwa none next sets) s = .next (s.after v)
        ((s0.stratum t n).st ≠ .closed → ans (s0.passFrom t (n + 1))) ∧
        ((s0.stratum t n).st = .closed →
          (next = .retried → ans ((((s0.medTcnt t 2).setBucket t n (min (b + 1) 15) 0).toRefresh t n).passOn t n cwa)) ∧
          (next = .rebuilt → ans (((s0.medTcnt t 3).toRefresh t n).passOn t n cwa)) ∧
          (next = .lost → map → ans ((s0.mapUnreadable t cwa).passOn t n cwa)) ∧
          (next = .lost → ¬map → ans ((s0.poisonCw t cwa 0).passOn t n cwa)))) ∧
      (∀ dc rails, s.thmLive t = true →
        let s1 := s.modThm t fun h => { h with
          rails := (List.range 12).foldl (fun (m : Tab (BitVec 12)) i => Tab.put 0 m i (rails.getD i 0)) [] }
        (∀ k, diodeReads dc = .inr k → exec (.housekeepingRound t dc rails) s = .next (s1.modThm t fun h =>
          { h with valid := false, kind := k, tinv := min 65535 (h.tinv + 1), badRun := min 255 (h.badRun + 1)
                   badHold := h.badHold || h.hold, last := (none :: h.last).take 255 })) ∧
        (∀ q, diodeReads dc = .inl q →
          let s2 := s1.modThm t fun h => { h with
            temp := q, valid := true, tmax := if h.tmaxSet then max h.tmax q else q, tmaxSet := true, badRun := 0
            hotRun := if s.cfg.tooHot ≤ q then min 255 (h.hotRun + 1) else 0
            last := (some q :: h.last).take 255, valids := (q :: h.valids).take 255 }
          ((s.tile t).ctl.loaded = true → (s.tile t).ctl.st ≠ .faultReset → exec (.housekeepingRound t dc rails) s =
            .next ((s2.drift t (s2.weight t q)).thmRise t q)) ∧
          ((s.tile t).ctl.loaded = false ∨ (s.tile t).ctl.st = .faultReset → exec (.housekeepingRound t dc rails) s =
            .next ((s2.modMed t fun a => { a with dcDue := a.dcDue + s2.weight t q }).thmRise t q)))) ∧
      (∀ n r, n < groupLimit → (s.tile t).sec.rolling.find? (fun e => decide (e.1 = n)) = some (n, []) →
        s.rgnOfLine t (n * 64) = some r →
        let lines := groupLines (s.compactAt t (n * 64)) n
        let tracts := if s.compactAt t (n * 64) = true then [n, n + 1] else [n]
        s.lostAt t (n * 64) = false → s.imagedAt t n = false → (s.passing r = true → (s.rgn r).pass = true) →
        (∀ l ∈ lines, s.claimed t l = false ∧ s.pinnedAt t l = false ∧ (s.resident t l = true ∨ s.placeOf t l = none) ∧
          ∀ f, Tab.find (s.tile t).adm.staged l = some f → f.packing = false ∧ f.older = 0) →
        (∀ tr ∈ tracts, s.tractDue t tr = false ∧ s.unmapping t tr = false ∧ s.mayChange t (tr / 512) = true ∧
          ∀ f ∈ (s.tile t).xlt.folds, f.tract ≠ tr) →
        s.ctrReady t n = true → (s.tile t).sec.room = true →
        ∃ v jobs, exec (.rolloverImage t n) s = .next v ∧ (v.tile t).xlt.bgPages = (s.tile t).xlt.bgPages ++ jobs ∧
          jobs.length = tracts.length ∧ (∀ j ∈ jobs, j.stream = .hot) ∧
          (v.tile t).sec.imaged = Tab.put none (s.tile t).sec.imaged n (some (s.rollTo t n))) ∧
      (∀ r, (s.rgn r).pass = true → s.passReached r = true →
        let again := s.fitted.any fun u => decide (s.stalledIn u r ≠ [])
        let v := ((s.modRgn r fun g => { g with pass := false, reached := [], lostCmd := 0, stalled := again }).rgnCommit r
            [.secret (!(s.rgn r).cur) none, .stalled again]).raise 19 (fld 0 r.val)
        (again = false → exec (.rekeyPassEnd r) s = .next v) ∧ (again = true → exec (.rekeyPassEnd r) s = .next (v.beginPass r)))

/-- O34. The parity channel of a stratum with no lost member, and its seven data channels (R191). For stratum s = die * 65,536 +
slab without a narrow form: its parity channel is (slab + die) mod 8, which equals (s + (s >> 16)) mod 8; its data channels are
the other seven. -/
def Obligations.ParityChannelOfAStratum : Prop :=
  ∀ (s : State) (t : TileId) (die slab : Nat), slab < 65536 → s.narrowOf t (die * 65536 + slab) = none →
      let n := die * 65536 + slab
      s.parityOf t n = (slab + die) % 8 ∧ s.parityOf t n = (n + (n >>> 16)) % 8 ∧
      (∀ c, c ∈ s.dataChans t n ↔ c < 8 ∧ c ≠ s.parityOf t n) ∧ (s.dataChans t n).length = 7

/-- O35. The twelve admin steps of a lock holder are recorded in the journal before they act (R116, R117, R118, R265, R266, R267,
R283, R291). For a region whose lock is held, whose lease is not being resolved, with fewer than 16 steps and no change of the
region waiting, and a register that answers: each of RGN_BASE, RGN_SIZE, MODE, ENABLE, ONLINE, READ_ONLY, OFFLINE, ZEROIZE,
DISABLE, REKEY, LOST_ZEROIZE and LOST_REKEY that Table 10.2 admits adds one step with its old and new values to the journal and
commits it; it takes effect with that commit. A step the region's state does not allow changes nothing. -/
def Obligations.AdminStepsAreJournalled : Prop :=
  ∀ (r : RegionId) (v : Word) (m : Bool) (s : State), s.powered = true → (s.rgn r).held = true → (s.rgn r).resolving = none →
      (s.rgn r).steps.length < 16 → s.rgnBusy r = false →
      (∀ o, o = 0 ∨ o = 4 ∨ o = 8 → s.reach (rgnAddr r o).toNat = true) →
      let step_ := fun (o : Nat) (w : Writes) =>
        let p := s.stepRecord r w (rgnAddr r o) 0
        (((s.modRgn r fun g => { g with
            steps := g.steps ++ [p]
            acts := g.acts ++ [{ id := (s.rgn r).jid, k := (s.rgn r).steps.length, cmd := w.cmd, step := some p, req := none }] }).commit
          (baseJstep r.val (s.rgn r).steps.length) (.jstep p (s.rgn r).jid)
          [.stepApply r (s.rgn r).steps.length (s.rgn r).jid]).settleAll)
      let row := fun (i : Instr) (o : Nat) (w : Writes) =>
        (s.stepStatus r w = none → exec i s = .next (step_ o w)) ∧
        (∀ st, s.stepStatus r w = some st → exec i s = .next s.settleAll)
      row (.rgnBaseWrite r v) 0 { base := some v } ∧ row (.rgnSizeWrite r v) 4 { size := some v } ∧
      row (.modeWrite r m) 8 { ctl := some (BitVec.ofNat 32 (bit 0 m)) } ∧ row (.enable r) 8 (s.cmdWrite r 1) ∧
      row (.online r) 8 (s.cmdWrite r 2) ∧ row (.readOnly r) 8 (s.cmdWrite r 3) ∧ row (.offline r) 8 (s.cmdWrite r 4) ∧
      row (.zeroize r) 8 (s.cmdWrite r 5) ∧ row (.disable r) 8 (s.cmdWrite r 6) ∧ row (.rekey r) 8 (s.cmdWrite r 7) ∧
      row (.lostZeroize r) 8 (s.cmdWrite r 8) ∧ row (.lostRekey r) 8 (s.cmdWrite r 9)

/-- O36. Which region states allow which command of Table 10.2 (R265, R267, R268, R269, R283, R291). With g the region's entry as
it will be once what is on its way to it has been committed (log 121). Of the commands written alone: ONLINE is admitted in
READ_ONLY, OFFLINE and STOPPING; READ_ONLY only in ONLINE; ZEROIZE only in OFFLINE; OFFLINE in ONLINE and READ_ONLY, and in
STOPPING with a pending enable; DISABLE in OFFLINE, and in a DISABLE in progress with a pending enable; ENABLE in DISABLED with a
valid geometry, and in a DISABLE in progress. Every other state answers RANGE. A re-key, and the handling of a lost range, is
admitted in ONLINE, READ_ONLY and OFFLINE (the latter in every enabled state with a lost range), BUSY while a pass is on,
READ_ONLY where a tile is read-only. -/
def Obligations.AdminCommandsNeedTheirState : Prop :=
  ∀ (s : State) (r : RegionId),
      let g := s.planned r
      let st := fun (c : Nat) => s.stepStatus r (s.cmdWrite r c)
      (st 2 = none ↔ g.st = .readOnly ∨ g.st = .offline ∨ g.st = .stopping) ∧
      (st 3 = none ↔ g.st = .online) ∧
      (st 4 = none ↔ g.st = .online ∨ g.st = .readOnly ∨ (g.st = .stopping ∧ g.pendEn = true)) ∧
      (st 5 = none ↔ g.st = .offline) ∧
      (st 6 = none ↔ g.st = .offline ∨ (g.st = .zeroizing ∧ g.disabling = true ∧ g.pendEn = true)) ∧
      (st 1 = none ↔ (g.st = .disabled ∧ s.geometryFor r (((s.cmdWrite r 1).upds g).foldl Region.upd g) = true) ∨
          (g.st = .zeroizing ∧ g.disabling = true)) ∧
      (∀ c, 1 ≤ c → c ≤ 6 → st c = none ∨ st c = some stRange) ∧
      (let may := fun (c : Nat) (b : Prop) =>
        (¬b → st c = some stRange) ∧ (b → s.passPlanned r = true → st c = some stBusy) ∧
        (b → s.passPlanned r = false → (∃ u ∈ s.fitted, (s.tile u).med.roCause ≠ 0) → st c = some stReadOnly) ∧
        (b → s.passPlanned r = false → (∀ u ∈ s.fitted, (s.tile u).med.roCause = 0) → st c = none)
      may 7 (g.st = .online ∨ g.st = .readOnly ∨ g.st = .offline) ∧
        may 8 (g.enabled = true ∧ s.lostMeets r = true) ∧ may 9 (g.enabled = true ∧ s.lostMeets r = true))

/-- O37. REGION_SHUTDOWN_COMPLETE, LEASE_EXPIRY, LEASE_BREAK_RESOLUTION (R120, R121, R267, R268, R269). With no change of region r
waiting, and after READ_ONLY steps that have no write part left to wait for are done: a STOPPING region in which no part is left
commits OFFLINE; a ZEROIZING one whose tiles have programmed its unmapping commits OFFLINE with a fresh secret, or DISABLED without
secrets where a DISABLE caused it. A lease expires no earlier than its time and its journal is to be resolved with cause 0. The
journal of a broken lease: its first idempotent step that is not finished runs, or counts as done where the region no longer
admits it; with none left the other steps are undone, newest first, and the journal's closing is committed. -/
def Obligations.ShutdownsAndLeases : Prop :=
  ∀ (r : RegionId) (s : State), s.powered = true → s.rgnBusy r = false →
      (let s1 := s.roDone r
      ((s1.rgn r).st = .stopping → s1.partsIn r false = false → exec (.regionShutdownComplete r) s =
        .next (s1.rgnCommit r [.st .offline] (s1.doneActs r [4])).settleAll) ∧
      ((s1.rgn r).st = .zeroizing → s1.unmapped r = true → (s1.rgn r).disabling = true → exec (.regionShutdownComplete r) s =
        .next (s1.rgnCommit r [.secret false none, .secret true none, .cur false, .st .disabled, .disabling false]
          (s1.doneActs r [6])).settleAll) ∧
      ((s1.rgn r).st = .zeroizing → s1.unmapped r = true → (s1.rgn r).disabling = false → exec (.regionShutdownComplete r) s =
        .next (({ s1 with free := s1.free + 1 } : State).rgnCommit r
          [.secret false (some (Config.freeValue 256 s1.free)), .secret true none, .cur false, .st .offline]
          (({ s1 with free := s1.free + 1 } : State).doneActs r [5])).settleAll)) ∧
      (∀ n, (s.rgn r).expiry = some n → exec (.leaseExpiry r) s = .next ((s.till n).breakLease r 0)) ∧
      (∀ c, (s.rgn r).resolving = some c → s.ldg.waits (fun d => decide (d = .resolved r)) = false →
        let id := (s.rgn r).jid
        let s1 := s.modRgn r fun g => { g with acts := g.acts.map fun a => if a.id = g.jid then { a with ran := true } else a }
        let due := (List.range (s.rgn r).steps.length).filter fun k => decide ((s.rgn r).finished ≤ k) &&
          (match (s.rgn r).steps[k]? with | some p => p.idem | none => false)
        (∀ k l p, due = k :: l → (s.rgn r).steps[k]? = some p → (s1.rgn r).acts.any (fun a => decide (a.k = k ∧ a.id = id)) = true →
          (s1.stepStatus r p.writes = none →
            exec (.leaseBreakResolution r) s = .next (s1.runStep r p.writes [.stepDone r k id]).settleAll) ∧
          (s1.stepStatus r p.writes ≠ none → (s.rgn r).st ≠ .zeroizing → s1.passing r = false →
            exec (.leaseBreakResolution r) s = .next (s1.stepDone r k id).settleAll)) ∧
        (due = [] →
          let us := (s1.rgn r).undoAll (((List.range (s.rgn r).steps.length).reverse.filterMap fun k => (s.rgn r).steps[k]?).filter
            fun p => !p.idem)
          (us = [] → exec (.leaseBreakResolution r) s = .next (s1.headCommit r false [.resolved r]).settleAll) ∧
          (us ≠ [] → exec (.leaseBreakResolution r) s = .next ((s1.rgnCommit r us).headCommit r false [.resolved r]).settleAll)))

/-- O38. A broken lease is to be resolved; a lock that is free or already broken is untouched (R120, R121). Breaking the lease of
region r with cause c sets a held lock's resolution to c and ends its expiry where it was not already being resolved, and
changes nothing else of the region and no other region; a region whose lock is free, or already being resolved, is as before. -/
def Obligations.LeaseBreaksOnce : Prop :=
  ∀ (s : State) (r : RegionId) (c : BitVec 2),
      ((s.rgn r).held = true → (s.rgn r).resolving = none →
        (s.breakLease r c).rgn r = { s.rgn r with resolving := some c, expiry := none }) ∧
      ((s.rgn r).held = false ∨ (s.rgn r).resolving ≠ none → (s.breakLease r c).rgn r = s.rgn r) ∧
      (∀ q, q ≠ r → (s.breakLease r c).rgn q = s.rgn q) ∧ { s.breakLease r c with rgns := s.rgns } = s

/-- O39. SRAM_UNCORRECTABLE: counted, reported, and then what Table 11.2 says of its structure (R296, R297, R354). A word of a tile
whose SRAM is on sets the tile's ECC record and uncorrectable counter, has its event occur, and then: the staged line of a
staging frame is poisoned; the line of a cell's buffer is bad; an intake cell, a translation structure, a clean map page, a tree
object, a schedule word, a frame of the retention store, a completion of the cache and the token key have the effect of their
structure; a word of the ordering markers (3) the marker of its session at that home tile; of any other structure a tile fault of cause 2. One of the mesh has its event occur and
asks for a warm reset with cause 2. A corrected word of a tile is recorded, counted and gathered for its event, and one of the
mesh counted, and nothing else. Requests of a tile that leaves service by it complete. -/
def Obligations.SramUncorrectableWords : Prop :=
  ∀ (t : TileId) (k : BitVec 4) (item : Nat) (w : BitVec 24) (b : Byte) (s : State), s.powered = true →
      (s.hasTile t = true → s.sramOn t = true →
        let s1 := (s.modTile t fun T => { T with
          eccLast := BitVec.ofNat 32 (k.toNat + 16 + w.toNat * 32)
          eccCnt := Tab.bump T.eccCnt (2 * k.toNat + 1) }).raise (tsrc t 1) (fld 0 k.toNat ||| fld 4 w.toNat)
        let ans := fun (v : State) => exec (.sramUncorrectable (.tile t k item w)) s = .next (s.after v)
        (∀ f, k = 0 → Tab.find (s1.tile t).adm.staged item = some f →
          ans (s1.modAdm t fun a => { a with staged := Tab.ins item { f with poison := true } a.staged })) ∧
        (k = 1 → ans (s1.modCell t (item / 64) fun c => { c with bad := item % 64 :: c.bad })) ∧
        (k = 2 → ans (s1.cellLost t item)) ∧
        (k = 3 → s1.home (sessOf item) = t → ans (s1.markerLost (sessOf item))) ∧
        (k = 3 → s1.home (sessOf item) ≠ t → ans s1) ∧ (k = 4 ∨ k = 6 → ans (s1.restoreXlt t)) ∧
        (k = 5 → ans (s1.modXlt t fun a => { a with cache := a.cache.filter fun e => decide (e.1 ≠ item) || e.2.dirty })) ∧
        (k = 7 → ans (s1.treeWordLost t item)) ∧
        (k = 8 → ans (s1.modSch t fun a => { a with badWords := if a.badWords.contains item then a.badWords else item :: a.badWords })) ∧
        (k = 9 → ans (s1.frameLost (sessOf (item / 4096)) (item % 4096))) ∧
        (k = 10 → ans (s1.cacheLost (sessOf (item / 2 ^ 32)) (item % 2 ^ 32))) ∧ (k = 11 → ans (s1.rollToken t)) ∧
        (11 < k.toNat → ans (s1.tileFault t 2)) ∧
        exec (.sramUncorrectable (.corrected t k w)) s = .next (s.after ((s.modTile t fun T => { T with
          eccLast := BitVec.ofNat 32 (k.toNat + w.toNat * 32)
          eccCnt := Tab.bump T.eccCnt (2 * k.toNat) }).raise (tsrc t 2) 1 true
            fun d => BitVec.ofNat 64 (min (d.toNat + 1) 0xFFFFFFFF)))) ∧
      (s.meshOn = true →
        exec (.sramUncorrectable (.mesh b)) s = .next (s.after ((s.raise 11 (fld 0 b.toNat)).askWarm 2)) ∧
        exec (.sramUncorrectable .meshCorrected) s =
          .next (s.after (s.modEvt fun e => { e with mecc := BitVec.ofNat 32 (min (e.mecc.toNat + 1) 0xFFFFFFFF) })))

/-- O40. EVT_PEND_CLEAR clears the pending bits written 1; EVT_TRB_CLR asks for the clear of one trouble entry or all (R14, R301,
R303, R304). Where the register answers, EVT_PEND_CLEAR of word k removes exactly the pending sources 32k + i whose bit i is
written 1. EVT_TRB_CLR with ALL has every entry's clear committed, with CLR that of the source named, and without both changes
nothing. -/
def Obligations.PendingAndTroubleClears : Prop :=
  ∀ (k : Fin 9) (m : Word) (src : BitVec 9) (s : State), s.powered = true →
      (s.reach (0x40100 + 4 * k.val) = true → exec (.evtPendClear k m) s = .next { s with evt := { s.evt with
        pend := s.evt.pend.filter fun n => !(decide (n / 32 = k.val) && m.getLsbD (n % 32)) } }) ∧
      (s.reach 0x40004 = true →
        (∀ c, exec (.evtTrbClear src c true) s = .next (s.askClear (List.range 288))) ∧
        (src.toNat < 288 → exec (.evtTrbClear src true false) s = .next (s.askClear [src.toNat])) ∧
        exec (.evtTrbClear src false false) s = .next s)

/-- O41. A performance counter that passes 2^48 - 1 continues from 0, sets its bit of PMC_OVF and has PMC_OVF occur (R309). For a
running counter i at 2^48 - 1 PMC_COUNTER_OVERFLOW answers a state in which counter i is 0, bit i of the overflow word is set, the
tile's other counters are as before, and PMC_OVF of that tile is pending, or, before the EVT block is loaded, waits with the
counter's bit as its detail. With PERIOD 0, so that no counter samples, and the EVT block loaded, nothing else is changed (but one
free value may have been drawn for the channel that counted) before PMC_OVF occurs with the counter's bit as its detail. -/
def Obligations.CounterOverflowContinuesFromZero : Prop :=
  ∀ (t : TileId) (i : Fin 64) (s : State), s.powered = true → s.pmcRuns t i = true →
      Tab.get 0 (s.tile t).pmc.cnt i.val = 0xFFFFFFFFFFFF#48 →
      (∃ v, exec (.pmcCounterOverflow t i) s = .next v ∧ Tab.get 0 (v.tile t).pmc.cnt i.val = 0 ∧
        (v.tile t).pmc.ovf = (s.tile t).pmc.ovf ||| (1#64 <<< i.val) ∧
        (∀ j, j ≠ i.val → Tab.get 0 (v.tile t).pmc.cnt j = Tab.get 0 (s.tile t).pmc.cnt j) ∧
        (s.evt.loaded = true → tsrc t 25 ∈ v.evt.pend) ∧
        (s.evt.loaded = false → (tsrc t 25, 1#64 <<< i.val, true) ∈ v.evt.early)) ∧
      (s.evt.loaded = true → (s.tile t).pmc.period = 0 → ∃ k, k ≤ 1 ∧ exec (.pmcCounterOverflow t i) s =
        .next ((({ s with free := s.free + k } : State).modPmc t fun p => { p with
          cnt := Tab.put 0 p.cnt i.val 0, ovf := p.ovf ||| (1#64 <<< i.val) }).occur (tsrc t 25) (1#64 <<< i.val)))

/-- O42. PMC_SAMPLE, CLR_ALL, PMC_CFG_CLR, POP (R12, R308, R309, R311). A running counter with SAMPLE set whose next value is a
multiple of PERIOD takes its occurrence, and a sample. CLR_ALL zeroes every counter of the tile, PMC_CFG_CLR one, POP takes the
oldest sample away; each leaves the rest of the state as it is. -/
def Obligations.PerformanceCountersAndSamples : Prop :=
  ∀ (t : TileId) (i : Fin 64) (s : State), s.powered = true →
      (s.pmcRuns t i = true → pmcSample (Tab.get 0 (s.tile t).pmc.cfg i.val) = true → (s.tile t).pmc.period ≠ 0 →
        ((Tab.get 0 (s.tile t).pmc.cnt i.val).toNat + 1) % (s.tile t).pmc.period.toNat = 0 →
        exec (.pmcSample t i) s = .next (s.pmcOnce t i)) ∧
      (s.reach (tileAddr t 0x70000) = true →
        exec (.clrAll t) s = .next (s.modPmc t fun p => { p with cnt := [] })) ∧
      (s.reach (tileAddr t (0x70100 + 4 * i.val)) = true →
        exec (.pmcCfgClr t i) s = .next (s.modPmc t fun p => { p with cnt := Tab.del i.val p.cnt })) ∧
      (s.reach (tileAddr t 0x70014) = true →
        exec (.pop t) s = .next (s.modPmc t fun p => { p with recs := p.recs.drop 1 }))

/-- O43. The clears of the counter sets, and of the thermal maxima: each zeroes its own set and nothing else (R12, R95, R312, R384).
Where its register answers: PORT_CNT_CLR zeroes the link counters of the links written 1; ADM_CNT_CLR the set of the tile, its
minimum of free cells starting again from the number free; XLT_CNT_CLR, MED_CCNT_CLR (of one channel), MED_TCNT_CLR, SEC_CNT_CLR
and SEC_ECC_CLR their sets; SCH_CNT_CLR the first ten of its set; CNT_CLR the glitch and fault counts of every rail; MAX_CLR the
maxima of the tiles written 1; TOKEN_ROLL draws a new token key. -/
def Obligations.CounterSetsAreCleared : Prop :=
  ∀ (t : TileId) (c : ChanId) (p : PortId) (m : BitVec 4) (k : Byte) (s : State), s.powered = true →
      (s.reach (portAddr p 0x10) = true → exec (.portCntClr p m) s =
        .next (s.modPort p fun q => { q with cnt := Tab.keep (fun j => !m.getLsbD (j / 8)) q.cnt })) ∧
      (s.reach (tileAddr t 0x20014) = true → exec (.admCntClr t) s =
        .next (s.modAdm t fun a => { a with cnt := [], minFree := 32704 - a.cells.length })) ∧
      (s.reach (tileAddr t 0x30030) = true → exec (.xltCntClr t) s = .next (s.modXlt t fun a => { a with cnt := [] })) ∧
      (s.reach (tileAddr t (0x400F0 + 0x1000 * c.val)) = true → exec (.medCcntClr t c) s =
        .next (s.modMed t fun a => { a with ccnt := Tab.keep (fun j => decide (j / 8 ≠ c.val)) a.ccnt })) ∧
      (s.reach (tileAddr t 0x48018) = true → exec (.medTcntClr t) s = .next (s.modMed t fun a => { a with tcnt := [] })) ∧
      (s.reach (tileAddr t 0x5001C) = true → exec (.schCntClr t) s =
        .next (s.modSch t fun a => { a with cnt := Tab.keep (fun j => decide (10 ≤ j)) a.cnt })) ∧
      (s.reach (tileAddr t 0x60014) = true → exec (.secCntClr t) s = .next (s.modSec t fun a => { a with cnt := [] })) ∧
      (s.reach (tileAddr t 0x80000) = true → exec (.secEccClr t) s = .next (s.modTile t fun T => { T with eccCnt := [] })) ∧
      (s.reach 0x10000 = true → exec .cntClr s =
        .next (s.modSup fun u => { u with rails := u.rails.map fun e => (e.1, { e.2 with glitch := 0, faults := 0 }) })) ∧
      (s.reach 0x30000 = true → exec (.maxClr k) s = .next (s.fitted.foldl (fun s u =>
        if k.getLsbD u.val then s.modThm u fun h => { h with tmax := 0, tmaxSet := false } else s) s)) ∧
      (s.reach (tileAddr t 0x30000) = true → exec (.tokenRoll t) s =
        .next (({ s with free := s.free + 1 } : State).modXlt t fun a => { a with tokenKey := Config.freeValue 128 s.free }))

/-- O44. A counter of a set saturates at its last value and touches no other counter (R312). Adding n to counter k of a set gives
min(old + n, 2^32 - 1) for k and leaves every other counter of the set as it was. -/
def Obligations.CountersSaturate : Prop :=
  ∀ (c : Tab Word) (k n j : Nat), (Tab.get 0 (Tab.bump c k n) k).toNat = min ((Tab.get 0 c k).toNat + n) 0xFFFFFFFF ∧
      (j ≠ k → Tab.get 0 (Tab.bump c k n) j = Tab.get 0 c j)

/-- O45. An occurrence sets its pending bit, and a fault's occurrence its trouble entry, and neither clears any other (R299, R301,
R302, R304). An occurrence of source n makes n pending and keeps every other source pending; where n is a fault its trouble
entry is set, counts one more up to 65,535, and holds the superframe of its first occurrence; every other entry is as before.
The tiles, the media, the regions and the supervisor are untouched, and any frame that leaves is an EVENT with AUX n. -/
def Obligations.OccurrencesArePendingAndRecorded : Prop :=
  ∀ (s : State) (n : Nat) (d : BitVec 64),
      n ∈ (s.occur n d).evt.pend ∧ (∀ m, m ≠ n → (m ∈ (s.occur n d).evt.pend ↔ m ∈ s.evt.pend)) ∧
      (isFault n = true →
        (Tab.get {} (s.occur n d).evt.trb n).set = true ∧
        (Tab.get {} (s.occur n d).evt.trb n).count = min ((Tab.get {} s.evt.trb n).count + 1) 65535 ∧
        (Tab.get {} (s.occur n d).evt.trb n).firstSf =
          (if (Tab.get {} s.evt.trb n).set then (Tab.get {} s.evt.trb n).firstSf else s.sf)) ∧
      (∀ m, m ≠ n → Tab.get {} (s.occur n d).evt.trb m = Tab.get {} s.evt.trb m) ∧
      (isFault n = false → (s.occur n d).evt.trb = s.evt.trb ∧ (s.occur n d).ldg = s.ldg) ∧
      (s.occur n d).tiles = s.tiles ∧ (s.occur n d).media = s.media ∧ (s.occur n d).rgns = s.rgns ∧
      (s.occur n d).sup = s.sup ∧
      (∃ l, (s.occur n d).out = l ++ s.out ∧ ∀ o ∈ l, o.frame.hdr.opcode = opEvent ∧ o.frame.hdr.aux = BitVec.ofNat 32 n)

/-- O46. PORT_ENABLE, PORT_DISABLE, PORT_STOP_COMPLETE, PORT_RESET, LINK_UP, LINK_LOSS (R36, R74, R356, R427). Where PORT_CTL
answers, PORT_ENABLE writes its fields with ENABLE 1; a port that was disabled then starts, a stopping one starts after its stop;
PORT_DISABLE writes them with ENABLE 0 and begins the stop, every link that is not DOWN becoming STOPPING; with PORT_RESET written
1 beside it a port reset follows. A port reset brings every link down, zeroes the counters and starts the port again, or waits
for a stop in progress. A start of a port that may run, is enabled and is down has the links of its mode train. A stop that
completes leaves every link DOWN, takes a port reset that waited, and starts an enabled port again. A training link comes UP, and
the last port that has to be is ready; a link that is UP and lost goes back to TRAINING. -/
def Obligations.PortsAndLinks : Prop :=
  ∀ (p : PortId) (l : LinkId) (v : Word) (s : State), s.powered = true →
      (s.reach (portAddr p 0) = true →
        let on := s.modPort p fun q => { (q.writeFields (v ||| 1#32)).setEnable true with rxOff := q.rxOff && (s.port p).enable }
        let off := s.modPort p fun q => ((q.writeFields (v &&& 0xFFFFFFFE#32)).setEnable false).setPend false
        (v.getLsbD 7 = false →
          (s.portStopping p = true → exec (.portEnable p v) s = .next (on.modPort p fun q => q.setPend true)) ∧
          (s.portStopping p = false → (s.port p).enable = true → exec (.portEnable p v) s = .next on) ∧
          (s.portStopping p = false → (s.port p).enable = false → exec (.portEnable p v) s = .next (on.portStart p)) ∧
          exec (.portDisable p v) s = .next (off.portStop p)) ∧
        (v.getLsbD 7 = true →
          exec (.portEnable p v) s = .next ((s.portOn1 p (v ||| 1#32)).portRst p) ∧
          exec (.portDisable p v) s = .next ((off.portStop p).portRst p)) ∧
        (s.portStopping p = false → exec (.portReset p) s = .next ((((List.finRange 4).foldl (fun s j => s.setLink p j .down) s).modPort p
          fun q => { q with cnt := [], rstPend := false }).hitPends (portDom p) |>.portStart p)) ∧
        (s.portStopping p = true → exec (.portReset p) s = .next (s.modPort p fun q => { q with rstPend := true }))) ∧
      (s.portStop p).link p l = (if s.link p l = .down then .down else .stopping) ∧
      (s.portMay p = true → (s.port p).enable = true → s.portDown p = true →
        (s.portStart p).link p l = if l.val < modeLinks (s.port p).mode then .training else .down) ∧
      (s.portStopping p = true →
        let dn := ((List.finRange 4).foldl (fun s j => s.setLink p j .down) s).modPort p fun q => { q with rxOff := true }
        ((s.port p).rstPend = false → exec (.portStopComplete p) s = .next ((dn.modPort p fun q => q.setPend false).portStart p)) ∧
        ((s.port p).rstPend = true →
          exec (.portStopComplete p) s = .next (((dn.portClear p).modPort p fun q => q.setPend false).portStart p))) ∧
      (s.link p l = .training →
        let up := (s.setLink p l .up).mile 6
        ((∀ q, up.portMay q = true → (up.port q).enable = true → up.portReady q = true) → exec (.linkUp p l) s = .next (up.mile 7)) ∧
        (∀ q, up.portMay q = true → (up.port q).enable = true → up.portReady q = false → exec (.linkUp p l) s = .next up)) ∧
      (s.link p l = .up → exec (.linkLoss p l) s = .next (s.setLink p l .training))

/-- O47. A link that leaves UP takes its own sessions with it, and no other link or session changes its state (R91, R427). Setting
link l of port p to another state x leaves it in x and every other link as it was. Where it was UP every LIVE session bound to
it is CLOSING with cause 3; a session bound elsewhere keeps its state; where it was not UP every session keeps its state. -/
def Obligations.LinkStatesAndTheirSessions : Prop :=
  ∀ (s : State) (p : PortId) (l : LinkId) (x : LinkSt), s.link p l ≠ x →
      (s.setLink p l x).link p l = x ∧ (∀ q k, (q, k) ≠ (p, l) → (s.setLink p l x).link q k = s.link q k) ∧
      (∀ y, s.link p l = .up → (s.ses y).st = .live → (s.ses y).port = p → (s.ses y).link = l →
        ((s.setLink p l x).ses y).st = .closing ∧ ((s.setLink p l x).ses y).lastEnd = 3) ∧
      (∀ y, (s.link p l ≠ .up ∨ (s.ses y).port ≠ p ∨ (s.ses y).link ≠ l) → ((s.setLink p l x).ses y).st = (s.ses y).st)

/-- O48. PWRFAIL_FALL, DRAIN_RECORD_COMMIT, FINAL_RECORD, VAON_WARNING, PWRFAIL_RISE, AUTO_ON (R329, R336, R337, R338, R339, R340,
R348). A low level on PWRFAIL_N of fewer than 4 clocks does nothing. A longer one seen in ON, DEGRADED, RECOVERING or STOPPING makes
the supervisor drain: DRAINING, the programme and every action given up, the ledger to close to ordinary producers 10 us later, the
tiles whose records stand counted as seen, and with the reference present the tiles signalled; one seen in POWERING_UP or
POWERING_DOWN, or in STANDBY with a rail or a domain on, begins the off programme; elsewhere the final record alone follows. A
draining tile's record is asked for once, with its cairn, when the last of the cairn's programs has completed; a packing tile's once
its packing and the checkpoint after it are done. The final record is committed once, when what it waits for is in. The warning of
VAON closes the ledger, puts the final record's first copy ahead of every other copy, and has the record made where it has not been. The rise of PWRFAIL_N in STANDBY
opens the ledger. AUTO_ON in OFF after a power failure is an on request, no earlier than 10 ms after the rise. -/
def Obligations.PowerLossAndItsRecords : Prop :=
  ∀ (n : Nat) (t : TileId) (s : State), s.powered = true →
      (n < 4 → exec (.pwrfailFall n) s = .next (s.after s)) ∧
      (4 ≤ n → s.sup.pwrfail = false →
        let ldg := { s.ldg with closeAt := some (s.now + us 10) }
        let seen := { s.sup with pwrfail := true, pwrHighAt := none, fellIn := s.sup.st, finalReq := false, finalDone := false }
        let ans := fun (v : State) => exec (.pwrfailFall n) s = .next (s.after v)
        (s.sup.st = .on ∨ s.sup.st = .degraded ∨ s.sup.st = .recovering ∨ s.sup.st = .stopping →
          let s1 : State := { s with
            ldg := ldg
            sup := { seen with
              st := .draining, finalCause := 1, byPwrfail := true, running := false, busy := false, subset := none, resume := none
              action := none, waiting := [], sysPhase := 0, held := [], heldOff := false, drainSeen := s.seenTiles
              drainTiles := s.seenTiles, retryDoms := [], clean := false } }
          (s.clk.refHold = false → ans s1.signalDrain) ∧ (s.clk.refHold = true → ans s1)) ∧
        (s.sup.st = .poweringUp ∨ s.sup.st = .poweringDown ∨ (s.sup.st = .standby ∧ s.sup.anyOn = true) →
          ans { s with ldg := ldg, sup := { seen.powerDown with finalCause := 3, byPwrfail := true } }) ∧
        ((s.sup.st = .standby ∧ s.sup.anyOn = false) ∨ s.sup.st = .offWait ∨ s.sup.st = .off → ans { s with ldg := ldg, sup := { seen with finalCause := 3 } })) ∧
      (s.hasTile t = true → s.clk.refHold = false → (s.tile t).ctl.recReq = false →
        ((s.tile t).ctl.draining = true → (s.tile t).ctl.cairnLeft = 0 →
          exec (.drainRecordCommit t) s = .next ((s.writeCairn t).drainRecord t 1 s.ldg.start)) ∧
        ((s.tile t).ctl.draining = false → (s.tile t).ctl.packing = true → s.packed t = true → (s.tile t).ctl.lastCkpt = 2 →
          exec (.drainRecordCommit t) s = .next (s.drainRecord t 2 s.ldg.start))) ∧
      (s.sup.finalCause ≠ 0 → s.sup.finalReq = false → (s.sup.finalCause = 1 → s.sup.drained = true) → s.ldg.warned = false →
        exec .finalRecord s = .next (({ s with sup := { s.sup with finalReq := true } } : State).commit baseFinal
          (.final s.sup.finalCause (BitVec.ofNat 8 s.sup.fellIn.code)
            (BitVec.ofNat 8 ((s.sup.drainSeen.map fun u => bit u.val true).sum)) s.ldg.start s.sf (BitVec.ofNat 16 s.sup.lastUs))
          [.finalDone])) ∧
      (s.sup.finalReq = true → exec .vaonWarning s =
        .next { s with ldg := ({ s.ldg with closed := true, warned := true } : Ledger).finalFirst }) ∧
      (s.sup.finalReq = false → exec .vaonWarning s = .next (({ s with
        ldg := ({ s.ldg with closed := true, warned := true } : Ledger).finalFirst
        sup := { s.sup with finalCause := 2, fellIn := if s.sup.pwrfail then s.sup.fellIn else s.sup.st } } : State).finalRecord)) ∧
      (s.sup.pwrfail = true →
        (s.sup.st ≠ .standby → exec .pwrfailRise s =
          .next { s with sup := { s.sup with pwrfail := false, pwrHighAt := some s.now } }) ∧
        (s.sup.st = .standby → exec .pwrfailRise s = .next { s with
          sup := { s.sup with pwrfail := false, pwrHighAt := some s.now }
          ldg := ({ s.ldg with closed := s.ldg.warned, closeAt := none } : Ledger).pump })) ∧
      (∀ m, s.sup.pwrHighAt = some m → s.sup.st = .off → s.sup.autoOn = true → s.sup.byPwrfail = true → s.sup.pwrfail = false →
        exec .autoOn s = .next (((s.till (m + ms 10)).modSup fun u => { u with byPwrfail := false }).onReq))

/-- O49. OFF, ON, CLEAN_STOP_TIMEOUT, MINIMUM_OFF_TIME_EXPIRY, VGPIO_PRELUDE, PRELUDE_REPEAT, ON_PROGRAMME_BEGINS (R317, R322, R328,
R329, R330, R331, R332, R336, R362, R378, R397). Where SUP_CTL answers: OFF in ON or DEGRADED begins the clean stop; ON in OFF asks for a warm
reset with cause 6; in STOPPING, DRAINING, POWERING_DOWN and OFF_WAIT OFF clears PENDING_ON and ON sets it; OFF clears it in OFF and RECOVERING too, where a
SYSTEM action then ends in OFF and any other request is held. A tile whose clean
stop has no record drains no earlier than 1 s after it began, of what it holds or would have taken up (log 154). OFF_WAIT ends in OFF no earlier than 50 ms after the last programme,
and PENDING_ON then asks for the warm reset; after a SYSTEM action the same time ends in OFF or in a warm reset with cause 5. The
prelude after the recall, in STANDBY, or in ON or DEGRADED after a warm reset, asserts EN_VGPIO and has its check under way, with the
strap pins as the board sets them. No earlier than a dwell later the check passes, its transitions noted and reported: VGPIO is on,
START_COUNT is one higher and committed, the discovery of the flash begins, and SMB_ADDR is sampled; or it fails, no earlier than 10 ms
after the prelude began, which deasserts EN_VGPIO and leaves STANDBY. It is repeated no earlier than 1 s after it began. In those states the on
programme of start-up begins when it is due, no earlier than 10 ms after PWRFAIL_N rose, and in OFF a waiting on request then asks
for its warm reset. -/
def Obligations.OffOnAndTheirTimes : Prop :=
  ∀ (t : TileId) (n : Byte) (s : State), s.powered = true →
      (s.reach 0x10000 = true →
        (s.sup.st = .on ∨ s.sup.st = .degraded → exec .off s = .next (s.after s.cleanStop)) ∧
        (s.sup.st = .off → exec .on s = .next (s.askWarm 6)) ∧
        (s.sup.st = .stopping ∨ s.sup.st = .draining ∨ s.sup.st = .poweringDown ∨ s.sup.st = .offWait →
          exec .off s = .next (s.after { s with sup := { s.sup with pendOn := false } }) ∧
          exec .on s = .next { s with sup := { s.sup with pendOn := true } }) ∧
        (s.sup.st = .off → exec .off s = .next (s.after { s with sup := { s.sup with pendOn := false } })) ∧
        (∀ x, s.sup.st = .recovering → s.sup.action = some (.system x) →
          exec .off s = .next (s.after { s with sup := { s.sup with sysOff := true, pendOn := false } })) ∧
        (s.sup.st = .recovering → (∀ x, s.sup.action ≠ some (.system x)) →
          exec .off s = .next (s.after { s with sup := { s.sup with held := s.sup.held ++ [false], pendOn := false } }))) ∧
      (s.sup.st = .stopping → s.sup.drainTiles.contains t = true → s.sup.drainSeen.contains t = false →
        exec (.cleanStopTimeout t) s = .next (s.after ((s.till (s.sup.drainAt + ms 1000)).drainTile t))) ∧
      (s.sup.st = .offWait →
        let s1 := (s.till (s.sup.offAt + ms 50)).modSup fun u =>
          { u with st := .off, action := none, waiting := [], sysPhase := 0, sysOff := false }
        (s.sup.pendOn = false ∨ s.sup.pwrfail = true → exec .minimumOffTimeExpiry s = .next s1) ∧
        (s.sup.pendOn = true → s.sup.pwrfail = false → (∀ m, s.sup.pwrHighAt = some m → m + ms 10 ≤ s1.now) →
          exec .minimumOffTimeExpiry s = .next ((s1.modSup fun u => { u with pendOn := false }).askWarm 6))) ∧
      (∀ x, s.sup.st = .recovering → s.sup.action = some (.system x) → s.sup.sysPhase = 3 →
        let s1 := (s.till (s.sup.offAt + ms 50)).modSup fun u => { u with action := none, waiting := [], sysPhase := 0, sysOff := false }
        (s.sup.sysOff = true → exec .minimumOffTimeExpiry s = .next (s1.modSup fun u => { u with
          st := .off, rails := u.rails.map fun e => (e.1, { e.2 with forced := false }) })) ∧
        (s.sup.sysOff = false → exec .minimumOffTimeExpiry s = .next (s1.askWarm 5))) ∧
      (s.sup.startsUp = true → s.boot.recalled = true → s.boot.vgpio = false → s.sup.preludeFail = false → s.sup.prelude = false →
        s.clk.refHold = false → ∀ b a, exec (.vgpioPrelude ⟨b, a⟩) s = .next { s with
          dbg := { s.dbg with en := b }, smb := { s.smb with pins := a }
          sup := { s.sup.modRail 1 fun r => { r with en := true, st := if r.st = .on then .on else .checking, trans := 0 } with
            prelude := true, preludeAt := s.now } }) ∧
      (s.sup.prelude = true → s.sup.running = false →
        let at_ := fun (n : Nat) => (s.till (s.sup.preludeAt + n)).modSup fun u => { u with prelude := false }
        let on := fun (n : Byte) => (at_ (aon s.sup.dwell)).modRail 1 fun r =>
          { r with pg := true, st := .on, forced := false, retrying := false, trans := n }
        let up := fun (v : State) =>
          let l := { v.ldg with start := v.ldg.start + 1 }
          let w := ({ v with ldg := l } : State).commit baseStart (.counter l.start) []
          ({ w with boot := { w.boot with vgpio := true }, cfg := { w.cfg with st := .discovery }, smb := { w.smb with addr := w.smb.pins } } : State)
        exec (.checkPass 0) s = .next (up (on 0)) ∧
        (n ≠ 0 → exec (.checkPass n) s = .next (up ((on n).raise 2 (fld 0 1 ||| fld 8 n.toNat)))) ∧
        exec (.checkTimeoutRailFail n) s = .next (s.after (((at_ (ms 10)).modRail 1 fun r =>
          { r with en := false, pg := false, st := .failed, trans := n }).modSup fun u => { u with preludeFail := true, st := .standby }))) ∧
      (s.sup.preludeFail = true → exec .preludeRepeat s = .next ((s.till (s.sup.preludeAt + ms 1000)).modSup fun u =>
        ({ u with preludeFail := false } : Sup).modRail 1 fun r => { r with st := .off })) ∧
      (∀ m, s.sup.pwrHighAt = some m → s.sup.pwrfail = false → s.sup.startsUp = true → s.sup.onDue = true →
        exec .onProgrammeBegins s = .next (((s.till (m + ms 10)).modSup fun u => { u with onDue := false }).powerUp)) ∧
      (∀ m, s.sup.pwrHighAt = some m → s.sup.pwrfail = false → s.sup.st = .off → s.sup.pendOn = true →
        exec .onProgrammeBegins s = .next (((s.till (m + ms 10)).modSup fun u => { u with pendOn := false }).askWarm 6))

/-- O50. END, SEQ_ENABLE, SEQ_DISABLE, WAIT, CHECK, JUMP, MARK at an instruction of that kind; WAIT_EXPIRY, CHECK_PASS,
CHECK_TIMEOUT_RAIL_FAIL while it runs (R318, R319, R320, R322, R323). END of the on programme leaves ON, or DEGRADED where something
is lacking, and that of start-up its milestone; END of the off programme of a whole shutdown leaves OFF_WAIT, and after rails that
failed to come up goes back to the on programme, each failure reported. SEQ_ENABLE enables the rails it names that are in the run,
not on, fed and not cut off by a failure; SEQ_DISABLE takes down those it names that are in the run and enabled. WAIT starts its
time and ends no earlier than its clocks. CHECK of a rail in the programme and enabled starts, and passes with the rail ON (of
PG low, with PG low) and its transitions noted and reported, or fails; of another rail it is passed over. JUMP takes its target
where its condition holds and goes on otherwise. MARK is recorded. -/
def Obligations.SequencerInstructions : Prop :=
  ∀ (n : Byte) (s : State), s.powered = true →
      let u := s.sup
      let w := u.word
      let c := chkRail w
      (u.at_ 0 = true → u.progOff = true →
        (u.resume = none → u.action = none → exec .seqEnd s =
          .next { s with sup := { u with running := false, subset := none, st := .offWait, offAt := s.now } }) ∧
        (∀ k, u.resume = some k → u.heldOff = false → exec .seqEnd s =
          .next (u.failed.foldl (fun (s : State) (e : RailId × Byte) => s.raise 0 (fld 0 e.1.val ||| fld 8 e.2.toNat))
            { s with sup := { u with progOff := false, pc := k, busy := false, subset := none, resume := none, failed := [] } }))) ∧
      (u.at_ 0 = true → u.progOff = false →
        let s1 : State := { s with sup := { u with running := false, st := if u.lacking then .degraded else .on, passed := [] } }
        (s.boot.onProg = true ∨ s.boot.config = false → exec .seqEnd s = .next s1) ∧
        (s.boot.onProg = false → s.boot.config = true →
          exec .seqEnd s = .next { s1.mile 2 with boot := { (s1.mile 2).boot with onProg := true } })) ∧
      (u.at_ 1 = true → ∃ v, exec .seqEnable s = .next v ∧
        ∀ x, seqRail w x = true → u.inRail x = true → (u.rail x).st ≠ .on → u.depsOn x = true → (u.rail x).st ≠ .failed →
          (∀ y, (u.rail y).st = .failed → (u.dependants y).contains x = false) → (v.sup.rail x).en = true ∧ (v.sup.rail x).st = .checking) ∧
      (u.at_ 2 = true → ∃ v, exec .seqDisable s = .next (s.after v) ∧
        ∀ x, seqRail w x = true → u.inRail x = true → (u.rail x).en = true ∨ (u.rail x).st = .on →
          (v.sup.rail x).en = false ∧ (v.sup.rail x).st = .off) ∧
      (u.at_ 3 = true → exec .wait s = .next { s with sup := { u with busy := true, since := s.now } }) ∧
      (u.running = true → u.busy = true → seqOp w = 3 → exec .waitExpiry s =
        .next ((s.till (u.since + aon (w.toNat % 2 ^ 24))).modSup Sup.advance)) ∧
      (u.at_ 4 = true →
        (u.inRail c = true → chkLow w = true ∨ (u.rail c).en = true → exec .check s =
          .next (({ s with sup := { u with busy := true, since := s.now } } : State).modRail c fun r => { r with trans := 0 })) ∧
        (u.inRail c = false ∨ (chkLow w = false ∧ (u.rail c).en = false) → exec .check s = .next (s.modSup Sup.advance))) ∧
      (u.at_ 5 = true →
        let arg := w.toNat / 4096 % 8
        let k := w.toNat / 256 % 16
        let on : Prop := ∃ x : RailId, x.val = arg ∧ (u.rail x).st = .on
        let holds : Prop := k = 0 ∨ (k = 1 ∧ on) ∨ (k = 2 ∧ ¬on) ∨ (k = 3 ∧ arg < s.part.tiles) ∨ (k = 4 ∧ s.part.tiles ≤ arg)
        (holds → exec .jump s = .next (s.modSup fun u => ({ u with pc := w.toNat % 64 - 1 } : Sup).advance)) ∧
        (¬holds → exec .jump s = .next (s.modSup Sup.advance))) ∧
      (u.at_ 6 = true → exec .mark s =
        .next (s.modSup fun u => ({ u with mark := BitVec.ofNat 16 u.word.toNat } : Sup).advance)) ∧
      (u.preludeCheck = false → u.retryCheck = none → u.running = true → u.busy = true → seqOp w = 4 →
        let s1 := s.till (u.since + aon (chkDwell w u))
        let noted := fun (v : State) => if n = 0 then v else v.raise 2 (fld 0 c.val ||| fld 8 n.toNat)
        (chkLow w = false →
          exec (.checkPass n) s = .next ((noted (s1.modRail c fun r => { r with trans := n, pg := true, st := .on })).modSup
            fun u => ({ u with passed := c :: u.passed } : Sup).advance) ∧
          exec (.checkTimeoutRailFail n) s = .next (s.after ((s.till (u.since + us (chkTimeout w))).comeUpFails c n (u.pc + 1)))) ∧
        (chkLow w = true →
          exec (.checkPass n) s = .next ((noted (s1.modRail c fun r => { r with trans := n, pg := false })).modSup Sup.advance) ∧
          exec (.checkTimeoutRailFail n) s = .next (s.after (((s.till (u.since + us (chkTimeout w))).modRail c
            fun r => { r with trans := n, faults := min (r.faults + 1) 65535 }).modSup Sup.advance)))) ∧
      (∀ x, u.preludeCheck = false → u.retryCheck = some x → exec (.checkPass n) s = .next (s.retryPasses x n) ∧
        exec (.checkTimeoutRailFail n) s = .next (s.after (s.retryFails x n)))

/-- O51. DOMAIN_ON, DOMAIN_START_TIMEOUT, DOMAIN_OFF, PG_FALL, RUNNING_FAULT, RETRY_OFF_EXPIRY, SYSTEM_ACTION, SYSTEM_DRAIN_TIMEOUT
(R316, R323, R324, R325, R326, R327, R334). A fitted domain that is STARTING comes ON and what it holds starts, or fails no earlier
than 20 us after its enable; one that is STOPPING goes OFF and loses what it holds, and starts again where an enable waits; a
retried rail whose last domain stops so then goes down. A power-good fall of an ON rail in ON, DEGRADED, RECOVERING or STOPPING
shorter than the filter is a glitch; one that is not is a running fault, with its action; in POWERING_UP a rail that had passed
fails to come up, whatever the length; in STANDBY and OFF a fall does nothing more. PG is high again behind a fall that ended, where EN
is high (log 155). A retried rail is enabled again no earlier than its off time. A SYSTEM action begins once: with the rails a drain needs in regulation the tiles drain
first, and with no tile to wait for the off programme follows at once; without them it begins without a drain. SYSTEM_DRAIN_TIMEOUT,
no earlier than 1.5 ms after its drain began, gives up the drain of each tile whose record is not seen and begins the off
programme. -/
def Obligations.DomainsRailsAndActions : Prop :=
  ∀ (d : DomainId) (x : RailId) (n : Nat) (s : State), s.powered = true →
      (s.hasDom d = true → (s.sup.dom d).st = .starting →
        exec (.domainOn d) s = .next (s.after (s.domStarted d).seqGoOn.retryEnds) ∧
        exec (.domainStartTimeout d) s = .next (s.after
          ((s.till (s.sup.since + us 20)).modDom d fun y => { y with st := .off, failed := true }).seqGoOn.retryEnds)) ∧
      (s.hasDom d = true → (s.sup.dom d).st = .stopping → exec (.domainOff d) s = .next (s.after (((s.domLost d).modDom d fun y =>
        if y.pendEn then { y with st := .starting, pendEn := false, failed := false } else y).seqGoOn.retryFalls))) ∧
      (x.val ≠ 0 →
        let low := s.modRail x fun r => { r with pg := false }
        let back := fun (v : State) => s.after (v.modRail x fun r => { r with pg := r.en })
        (n = 0 → exec (.pgFall x n) s = .next (back s)) ∧
        (0 < n → (s.sup.rail x).st = .on →
          (s.sup.st = .on ∨ s.sup.st = .degraded ∨ s.sup.st = .recovering ∨ s.sup.st = .stopping →
            (n < s.sup.filt → exec (.pgFall x n) s =
              .next (back (s.modRail x fun r => { r with glitch := min (r.glitch + 1) 65535 }))) ∧
            (s.sup.filt ≤ n → exec (.pgFall x n) s = .next (back (low.railFault x))) ∧
            exec (.runningFault x) s = .next (s.after (low.railFault x))) ∧
          (s.sup.st = .poweringUp → s.sup.passed.contains x = true →
            let v := if s.sup.filt ≤ n then low else s
            exec (.pgFall x n) s = .next (back (v.comeUpFails x (s.sup.rail x).trans s.sup.pc))) ∧
          (s.sup.st = .standby ∨ s.sup.st = .off → exec (.pgFall x n) s = .next (back (if s.sup.filt ≤ n then low else s))))) ∧
      (s.sup.action = some (.retry x) → (s.sup.rail x).en = false → exec (.retryOffExpiry x) s =
        .next (s.after (((s.till (s.sup.since + ms s.sup.retryOff)).modRail x
          fun r => { r with en := true, st := .checking, trans := 0 }).modSup fun u =>
            { u with since := (s.till (s.sup.since + ms s.sup.retryOff)).now }))) ∧
      (s.sup.action = some (.system x) → s.sup.sysPhase = 0 →
        let fed : Prop := ∀ y : RailId, y = 2 ∨ y = 3 ∨ y = 6 ∨ y = 7 → (s.sup.rail y).pg = true ∧ (s.sup.rail y).st = .on
        let s1 := (s.modSup fun u => { u with
          sysPhase := 1, drainSeen := s.seenTiles, drainTiles := s.seenTiles, clean := false }).signalDrain
        (fed → s1.sup.drained = false → exec .systemAction s = .next (s.after s1)) ∧
        (fed → s1.sup.drained = true → exec .systemAction s = .next (s.after (s1.systemDown true))) ∧
        (¬fed → exec .systemAction s = .next (s.after (s.systemDown false)))) ∧
      (s.sup.action = some (.system x) → s.sup.sysPhase = 1 → exec .systemDrainTimeout s =
        .next ((((s.sup.drainTiles.filter fun t => !s.sup.drainSeen.contains t).foldl (fun s t => s.dropDrain t)
          (s.till (s.sup.drainAt + us 1500))).systemDown true)))

/-- O52. A low level on RESET_N of 4 AON clocks or longer is a cold reset; a shorter pulse has no effect; while it is low the device is
held (R32, R413). With VAON in regulation and RESET_N high a low pulse of fewer than 4 clocks leaves the state as it is; one of 4 or
more answers a state as after a cold reset: the supervisor in STANDBY, no session, no pending event, no mesh message, no staged
line or cell on any tile, DEV_SCRATCH 0, the ledger to be recalled; the part and the time stand. A level that goes on holds the
device in that state without acting, until RESET_N is high again. -/
def Obligations.ColdResetNeedsFourClocks : Prop :=
  ∀ (n : Nat) (s : State), s.powered = true → s.held = false →
      let dark := fun (t : State) => t.sup.st = .standby ∧ (∀ x, (t.ses x).st = .idle ∧ (t.ses x).epoch = 0) ∧
        t.evt.pend = [] ∧ t.mesh = [] ∧ t.enrQ = [] ∧ t.scratch = 0 ∧ t.rgns = [] ∧ t.ldg.recalling = true ∧
        (∀ u, (t.tile u).adm.cells = [] ∧ (t.tile u).adm.staged = []) ∧ t.part = s.part ∧ t.now = s.now
      (n < 4 → exec (.coldReset (.resetN n)) s = .next s) ∧
      (4 ≤ n → ∃ t, exec (.coldReset (.resetN n)) s = .next t ∧ dark t ∧ t.powered = true) ∧
      (∃ t, exec (.coldReset .resetLow) s = .next t ∧ dark t ∧ t.powered = false ∧ t.held = true ∧
        ∃ v, exec (.coldReset (.resetN n)) t = .next v ∧ dark v ∧ v.powered = true ∧ v.held = false)

/-- O53. A warm reset that was asked for: every session IDLE with epoch 0, every table of sessions, credentials and regions cleared,
DEV_WARM to be reported (R34, R76, R353, R354). With a warm reset asked for with cause c, the reference present and the supervisor
not POWERING_UP, WARM_RESET answers a state in which every session is IDLE with epoch 0, no credential is enabled, no region is
enabled or locked, the mesh and the enrollment queue are empty, DEV_SCRATCH is 0, and the cause is recorded with the reset and
in the DEV_WARM that waits for the EVT block to be loaded; the part and the SF stand. A request on a session that is not LIVE
then changes nothing. -/
def Obligations.NoSessionSurvivesAReset : Prop :=
  ∀ (c : BitVec 4) (s : State), s.powered = true → s.clk.warmReq = some c → s.clk.refHold = false → s.sup.st ≠ .poweringUp →
      ∃ t, exec .warmReset s = .next t ∧ (∀ x, (t.ses x).st = .idle ∧ (t.ses x).epoch = 0 ∧ (t.cred x).enable = false) ∧
        (∀ r, (t.rgn r).st = .disabled ∧ (t.rgn r).held = false) ∧ t.mesh = [] ∧ t.enrQ = [] ∧ t.scratch = 0 ∧
        t.clk.warmCause = c ∧ t.clk.lastWarm = true ∧ t.clk.warmReq = none ∧ t.part = s.part ∧ t.sf = s.sf ∧ (12, fld 0 c.toNat, true) ∈ t.evt.early ∧
        (∀ r : Rq, exec (.read r) t = .next t ∧ exec (.write r) t = .next t)

/-- O54. WARM_RESET, WARM, TILE_FAULT_RESET, WATCHDOG, FAULT_RESET, TILE_STOP, TILE_START, REFCLK and PLL losses, the pending
access, COLD_RESET, LOSS_OF_VAON (R348, R349, R351, R352, R353, R354, R355, R356, R357, R375). A warm reset asked for happens outside
POWERING_UP, and is merged into the one that a lost REFCLK holds, so that start-up follows that one; DEV_CTL.WARM asks for one with
cause 0. A fault of a tile whose
core runs, its watchdog and TCTL_CTL.FAULT_RESET reset the tile with their causes; TCTL_CTL.ENABLE = 0 stops a tile in service,
packing what it holds, and ENABLE = 1 restarts one that is stopped and not held, or waits for its stop. The loss of REFCLK stops
the readings of every tile, clears what a warm reset clears, and holds; its return releases, with cause 3. A lock loss of a locked
generator is counted, gates its outputs for the 10 us of its relock, and resets what it clocks: the tile, the device, or the port. A
pending access whose register has its clock again goes on, that of the SMBus bridge first where both meet one block; one that is due
is released;
RESET_PEND resets what it waits for. The return of VAON is a cold reset, and its loss leaves every rail and domain off. -/
def Obligations.ResetsAndClocks : Prop :=
  ∀ (t : TileId) (c : Byte) (g : GenId) (b : Bool) (s : State), s.powered = true →
      (∀ w, s.clk.warmReq = some w →
        (s.clk.refHold = false → s.sup.st ≠ .poweringUp → exec .warmReset s = .next ((s.warmClear w).raise 12 (fld 0 w.toNat))) ∧
        (s.clk.refHold = true → exec .warmReset s =
          .next { s with sup := s.sup.warm, clk := { s.clk with warmReq := none, warmSram := [] } })) ∧
      (s.reach 0x8 = true → exec .warm s = .next (s.askWarm 0)) ∧
      (s.hasTile t = true → s.coreOn t = true → s.clk.refHold = false →
        (faultCause c = true → exec (.tileFaultReset t c) s = .next (s.tileFault t c)) ∧
        exec (.watchdog t) s = .next (s.tileFault t 7)) ∧
      (s.reach (tileAddr t 0) = true →
        let off := s.modCtl t fun c => { c with enable := false, pendEn := false }
        let on := s.modCtl t fun c => { c with enable := true }
        let st := (s.tile t).ctl.st
        exec (.faultReset t) s = .next (s.tileFault t 1) ∧
        (st = .inService ∨ st = .replay ∨ st = .faultReset → exec (.tileStop t) s = .next ((off.packTile t 1).stopPorts t)) ∧
        (st ≠ .inService → st ≠ .replay → st ≠ .faultReset → exec (.tileStop t) s = .next off) ∧
        (st = .stopped → (s.thmT t).hold = false → exec (.tileStart t) s = .next (on.restartTile t)) ∧
        (st = .stopped → (s.thmT t).hold = true → exec (.tileStart t) s = .next on) ∧
        (st = .stopping →
          exec (.tileStart t) s = .next (on.modCtl t fun c => { c with pendEn := true })) ∧
        (st ≠ .stopped → st ≠ .stopping → exec (.tileStart t) s = .next on)) ∧
      (s.clk.refHold = false → exec .refclkLoss s = .next
        (((s.fitted.foldl (fun (v : State) u => v.modThm u Thm.blind)
          { s with clk := { s.clk with refLost := true, refOk := false } }).warmClear 3).raise 4 0xFF |>.modClk
            fun k => { k with refHold := true })) ∧
      (s.clk.refHold = true →
        let back := fun (v : State) => (v.raise 12 3).modClk fun k =>
          { k with refHold := false, refOk := true, warmCause := 3, lastWarm := true, t0 := (v.raise 12 3).now }
        (s.clk.warmReq = none → exec .refclkRestored s = .next (back s)) ∧
        (s.clk.warmReq ≠ none → exec .refclkRestored s =
          .next (back { s with sup := s.sup.warm, clk := { s.clk with warmReq := none, warmSram := [] } }))) ∧
      (s.genDom g.val = .on ∨ s.genDom g.val = .stopping → Tab.get 0 s.clk.lockAt g.val ≤ s.now →
        let s1 := ({ s with clk := { s.clk with
          losses := Tab.put 0 s.clk.losses g.val (min 255 (Tab.get 0 s.clk.losses g.val + 1))
          lockAt := Tab.put 0 s.clk.lockAt g.val (s.now + us 10) } } : State).raise 4 (fld 0 g.val)
        (∀ u : TileId, u.val = g.val / 8 → g.val % 8 < 2 → exec (.pllLockLoss g) s = .next (s1.tileFault u 4)) ∧
        (g.val % 8 = 2 → exec (.pllLockLoss g) s = .next (s1.askWarm 3)) ∧
        (∀ p : PortId, 3 ≤ g.val % 8 → p.val = 2 * (g.val / 8) + (g.val % 8 - 3) % 2 → exec (.pllLockLoss g) s = .next (s1.portRst p))) ∧
      (∀ d, s.clk.ib = some d → d.due = false → s.stoppedAt d.addr.toNat = none →
        (s.clk.smb = none → exec (.pendingAccessComplete true) s = .next (s.after (s.pendOn true))) ∧
        (∀ e, s.clk.smb = some e →
          let same : Prop := e.due = false ∧ s.stoppedAt e.addr.toNat = none ∧
            (blockOf e.addr.toNat).map Prod.fst = (blockOf d.addr.toNat).map Prod.fst
          (same → exec (.pendingAccessComplete true) s = .next (s.after ((s.pendOn false).pendOn true))) ∧
          (¬same → exec (.pendingAccessComplete true) s = .next (s.after (s.pendOn true))))) ∧
      (∀ d, s.clk.smb = some d → d.due = false → s.stoppedAt d.addr.toNat = none → d.req = none → d.write = true →
        ∀ acc v, State.writeAll [] d.vals d.addr.toNat { s with clk := { s.clk with smb := none } } = (acc, v) → acc.stop = none →
        exec (.pendingAccessComplete false) s = .next (s.after (v.smbPendEnds d (readStatus acc.uns) acc.got))) ∧
      (∀ d, s.clk.smb = some d → d.due = true → d.req = none →
        ((d.dap || d.write) = true → exec (.pendingAccessRelease false) s = .next (s.after (s.smbPendEnds d smAborted []))) ∧
        ((d.dap || d.write) = false → exec (.pendingAccessRelease false) s =
          .next (s.after ((State.drawWords d.got.length s).2.smbPendEnds d smAborted
            ((State.drawWords d.got.length s).1 ++ List.replicate d.left 0))))) ∧
      (∀ d, (if b then s.clk.ib else s.clk.smb) = some d → s.reach 0x20004 = true → 2 ≤ d.dom →
        let j := (d.dom - 2) % 29
        (∀ u : TileId, u.val = (d.dom - 2) / 29 % 8 → j < 9 ∨ 27 ≤ j →
          exec (.resetPend b) s = .next ((s.tileFault u 8).hitPends fun i => decide (i = d.dom))) ∧
        (∀ p : PortId, 9 ≤ j → j < 27 → p.val = 2 * ((d.dom - 2) / 29 % 8) + (if j < 17 ∨ j = 25 then 0 else 1) →
          exec (.resetPend b) s = .next (s.portRst p))) ∧
      (s.held = false → exec (.coldReset .vaonUp) s = .next ({ s with powered := true } : State).coldReset) ∧
      exec .lossOfVaon s = .next { ({ s.coldReset with powered := false, held := false } : State) with
        sup := { s.coldReset.sup with rails := [], doms := [] } }

/-- O55. The steps of Table 13.7: LEDGER_RECALL, CONFIGURATION_READ, TILE_PHASE_LOAD, MESH_TABLE_LOAD, MEDIUM_INITIALISATION,
ENGINE_START, TILE_RECOVERY, ADMISSION_OPEN (R194, R246, R253, R256, R358, R359, R367, R368, R376, R378). Step 1: a ledger still to be
recalled is recalled, and START_COUNT and SERVED are what resolves in the cells where both do. Step 3, in STANDBY, or in ON or
DEGRADED after a warm reset, with VGPIO up and nothing read: the slots are read; where no slot may be used the block is in FAIL and
the supervisor in STANDBY; where an image is loaded the tile phase follows; START_COUNT stands. Step 6, with the mesh up, the slot read
and VGPIO up: a tile whose copy reads back wrong takes a tile fault reset, or is out the second time; an image that fails a tile's
check has its slot refused with that code, else every other store that is to be filled is filled; once every fitted tile has its schedule, is out, or was left without its domains by the on
programme, the block is LOADED, and a NEXT_KEY that differs from the integrator key is committed. Step 5, with the mesh up and the
configuration read, once: every entry of SES and RGN takes the value its image and its records give, EVT is loaded, and what waited
for it occurs. Step 7, after the on programme, on a tile whose CORE and MIO are ON: its medium is initialised. Step 8, with 6 and 7
done: the engine starts with the next superframe. Step 9, with step 5 done, every journal resolved and the engine running: a tile with
an unreadable MAP item is out; the codewords that the recovery of Table 13.8 needs are read first; while they are read nothing more
happens; a page of them that could not be read takes the tile out; else the recovery is performed, and regions being zeroized go on. A
reload (2), a retained (1) and a counter recovery (5) then take a checkpoint once everything is packed, and a reload has its record
marked consumed after it. Step 10, after 9, with no journal open, SERVED committed first: the tile admits, while the device is not on
its way down; a fitted tile that the on programme left without its domains has its ports train. -/
def Obligations.StartUpSteps : Prop :=
  ∀ (t : TileId) (f : Flash) (b : Byte) (m : MedInit) (s : State), s.powered = true →
      (s.ldg.recalling = true → ∃ v, exec .ledgerRecall s = .next v ∧ v = s.recall.mile 0 ∧ v.ldg.recalling = false ∧
        v.boot.recalled = true ∧ ∀ x y, s.ldg.counterAt baseStart = some x → s.ldg.counterAt baseServed = some y →
          v.ldg.start = x ∧ v.ldg.served = y) ∧
      (s.sup.startsUp = true → s.boot.vgpio = true → s.bankUp = true → s.boot.config = false → s.clk.refHold = false → s.cfg.st ≠ .fail →
        s.clk.warmReq = none → ∃ v, exec (.configurationRead f) s = .next v ∧ v.ldg.start = s.ldg.start ∧
          (v.cfg.st = .fail → v.sup.st = .standby) ∧ (v.boot.config = true → v.cfg.st = .tilePhase)) ∧
      (s.meshOn = true → s.cfg.st = .tilePhase ∨ s.cfg.st = .loaded → s.clk.refHold = false → s.bankUp = true → s.clk.warmReq = none →
        let fails := fun (u : TileId) => b.getLsbD u.val || decide (sha256 (schStore f s.cfg.schedAt) ≠ s.cfg.digest)
        let s1 := (s.toLoad.filter fails).foldl (fun v u => v.readbackFails u) s
        let good := s.toLoad.filter fun u => !fails u
        let ans := fun (v : State) => exec (.tilePhaseLoad f b) s = .next v
        (∀ e, good ≠ [] → s1.schTileCheck f s1.cfg.schedAt = some e → ans (s1.refuseSlot s1.cfg.slotB e.1 e.2)) ∧
        (good = [] ∨ s1.schTileCheck f s1.cfg.schedAt = none →
          let v := good.foldl (fun v u => v.fillStore u f) s1
          (v.phaseEnds = false ∨ v.cfg.st ≠ .tilePhase → ans v) ∧
          (v.phaseEnds = true → v.cfg.st = .tilePhase →
            let w : State := { v with cfg := { v.cfg with st := .loaded } }
            (v.cfg.nextKey = 0 ∨ v.cfg.nextKey = v.ldg.ikey → ans w) ∧
            (v.cfg.nextKey ≠ 0 → v.cfg.nextKey ≠ v.ldg.ikey →
              ans (w.commit baseIkey (.ikey v.cfg.nextKey) [.ikeySet v.cfg.nextKey]))))) ∧
      (s.meshOn = true → s.boot.config = true → s.boot.tables = false → s.clk.refHold = false →
        ∃ v, exec .meshTableLoad s = .next v ∧ v.boot.tables = true ∧ v.evt.loaded = true ∧ v.evt.early = [] ∧
          (∀ x, v.cred x = s.credLoaded x) ∧ (∀ r, v.rgn r = s.rgnLoaded r) ∧
          ∀ e ∈ s.evt.early, isLimited e.1 = false → e.1 ∈ v.evt.pend) ∧
      (s.hasTile t = true → s.mioOn t = true → s.coreOn t = true → s.boot.onProg = true → s.clk.refHold = false →
        (s.tile t).ctl.medInit = false → ∃ v, exec (.mediumInitialisation t m) s = .next v ∧ v = (s.initMedium t m).mile 3 ∧
          (v.tile t).ctl.medInit = true) ∧
      ((s.tile t).ctl.loaded = true → (s.tile t).ctl.medInit = true → (s.tile t).ctl.st = .starting → (s.tile t).sch.run = false →
        s.coreOn t = true → s.sramOn t = true → s.mioOn t = true → s.clk.refHold = false → exec (.engineStart t) s =
          .next (s.modSch t fun a => { a with startDue := true, haltDue := false })) ∧
      ((s.tile t).ctl.st = .starting → s.boot.tables = true → s.unresolved = false → (s.tile t).sch.run = true →
        let ans := fun (v : State) => exec (.tileRecovery ⟨t⟩) s = .next (s.after v)
        let c := (s.tile t).ctl
        let need := s.recCws t (s.choice t)
        (∀ page, (s.tile t).med.mapLost = some page →
          ans ((s.modCtl t fun c => { c with st := .out, stopCause := 4 }).raise (tsrc t 12) (fld 0 page.toNat))) ∧
        ((s.tile t).med.mapLost = none → c.recovery = 0 →
          (c.recRead = false → need ≠ [] →
            ans (need.foldl (fun v a => v.bgFetch t a .recovery) (s.modCtl t fun c => { c with recRead := true, recBad := [] }))) ∧
          (c.recRead = true ∨ need = [] →
            (s.reading t .recovery = true → ans s) ∧
            (s.reading t .recovery = false →
              (∀ page, s.unreadable t (s.choice t) = some page → ans (s.mapLost t page)) ∧
              (s.unreadable t (s.choice t) = none →
                ans ((List.finRange 16).foldl (fun s q => if (s.rgn q).st = .zeroizing then s.zeroTile t q else s)
                  (s.performRecovery t (s.choice t))))))) ∧
        ((s.tile t).med.mapLost = none → c.recovery = 1 ∨ c.recovery = 2 ∨ c.recovery = 5 → c.consReq = false → s.packed t = true →
          (c.lastCkpt = 0 → ans (s.lastCheckpoint t)) ∧
          (c.lastCkpt = 2 → c.recovery = 2 → ans ((s.modCtl t fun c => { c with consReq := true }).commit (baseDrain t.val)
            (.drain 3 (s.runOf t) s.sf) [.drainDone t 3])) ∧
          (c.lastCkpt = 2 → c.recovery ≠ 2 → ans (s.modCtl t fun c => { c with consReq := true, consumed := true })))) ∧
      ((s.tile t).ctl.st = .starting → s.boot.tables = true → s.hasTile t = true → s.sup.goesDown = false →
        (s.coreOn t = true → s.sramOn t = true → s.mioOn t = true → s.recovered t = true → (∀ r, (s.rgn r).resolving = none) →
          s.ldg.waits (fun d => match d with | .ikeySet _ => true | _ => false) = false →
          (s.boot.served = true → exec (.admissionOpen t) s = .next (s.openTile t)) ∧
          (s.boot.served = false → s.ldg.waits (fun d => decide (d = .served)) = false → exec (.admissionOpen t) s =
            .next (((s.modCtl t fun c => { c with admDue := true }).modLdg fun l => { l with served := l.start }).commit baseServed
              (.counter s.ldg.start) [.served]))) ∧
        (s.boot.onProg = true → s.coreOn t = false ∨ s.sramOn t = false ∨ s.mioOn t = false → exec (.admissionOpen t) s =
          .next ((tilePorts t).foldl (fun s p => s.portStart p) (s.modCtl t fun c => { c with portsGo := true }))))

/-- O56. LEDGER_COMMIT_COMPLETE, LEDGER_WINDOW_WRITE, COMMIT, RETRY (R369, R370, R372, R375, R380, R381). The commit in flight
completes: its copies are in the cells, in the user area word by word, the count of commits goes up by one to its last value, what
waited for them happens, and the next commit begins. A word written to the user area, at a multiple of 4, is committed; one to the
rest of the window is discarded. COMMIT fixes the integrator key where none is set. RETRY after a failed read takes both exclusions
back and asks for a warm reset with cause 4; in any other state of the block it does nothing. -/
def Obligations.LedgerAndConfiguration : Prop :=
  ∀ (a v : Word) (s : State), s.powered = true →
      (s.ldg.flight ≠ [] →
        let l := s.ldg.flight.foldl Ledger.landed s.ldg
        let s1 : State := { s with ldg := { l with flight := [], commits := BitVec.ofNat 32 (min (l.commits.toNat + 1) 0xFFFFFFFF) } }
        let s2 := (s.ldg.flight.flatMap fun (w : CopyWrite) => w.post).foldl (fun (s : State) d => s.runDeferred d) s1
        exec .ledgerCommitComplete s = .next (s.after (s2.modLdg fun l => (l.shut s2.now).pump))) ∧
      (∀ (l : Ledger) (w : CopyWrite),
        ((∀ g vs, w.copy ≠ .ok g (.user vs)) → Tab.get .empty (l.landed w).cells w.off = w.copy) ∧
        (∀ g vs, w.copy = .ok g (.user vs) → ∀ j x, vs[j]? = some x →
          Tab.get .empty (l.landed w).cells (w.off + 4 * j) = .ok g (.user [x]))) ∧
      (s.reach a.toNat = true →
        (0xF0000 ≤ a.toNat → a.toNat < 0xFF000 → exec (.ledgerWindowWrite a v) s =
          .next (s.commit (a.toNat - 0x80000) (.user [v]) [])) ∧
        (0x80000 ≤ a.toNat → a.toNat < 0xF0000 → exec (.ledgerWindowWrite a v) s = .next s)) ∧
      (s.reach 0xFF060 = true →
        (s.ldg.keySet = false → exec .commit s = .next (s.commit baseIkey (.ikey s.ldg.ikey) [.ikeySet s.ldg.ikey])) ∧
        (s.ldg.keySet = true → exec .commit s = .next s)) ∧
      (s.reach 0x50004 = true →
        (s.cfg.st = .fail →
          exec .retry s = .next (({ s with cfg := { s.cfg with exclA := false, exclB := false } } : State).askWarm 4)) ∧
        (s.cfg.st ≠ .fail → exec .retry s = .next s))

/-- O57. THERMAL_STATE_FALL, THERMAL_STOP, SENSOR_STOP, RESUME (R384, R387, R388, R389, R390). A WARM tile below WARM_CLR for the
fall count is NORMAL, and a HOT one below HOT_CLR for it is WARM, or NORMAL where it is below WARM_CLR too, each reported. A tile
whose housekeeping clock runs, not held, with two readings too hot in a row, is TOO_HOT and held with cause 1, reported, and drains alone; one with enough invalid
rounds is held with cause 2. RESUME where THM_CTL answers goes through the tiles written 1 in order: one that is held and has not
cooled stays held, and its refusal is counted; one that is not held is as it was. -/
def Obligations.ThermalStopsAndResume : Prop :=
  ∀ (t : TileId) (m : Byte) (s : State), s.powered = true →
      (s.thmLive t = true → (s.thmT t).st = .warm → (s.thmT t).below s.cfg.fallRounds s.cfg.warmClr = true →
        exec (.thermalStateFall t) s = .next ((s.modThm t fun h => { h with st := .normal }).raise (tsrc t 18)
          (thmDetail (s.thmT t).temp false))) ∧
      (s.thmLive t = true → (s.thmT t).st = .hot → (s.thmT t).below s.cfg.fallRounds s.cfg.hotClr = true →
        let s1 := fun (x : ThmSt) => (s.modThm t fun h => { h with st := x }).raise (tsrc t 19) (thmDetail (s.thmT t).temp false) false
        ((s.thmT t).below s.cfg.fallRounds s.cfg.warmClr = false → exec (.thermalStateFall t) s = .next (s1 .warm)) ∧
        ((s.thmT t).below s.cfg.fallRounds s.cfg.warmClr = true → exec (.thermalStateFall t) s =
          .next ((s1 .normal).raise (tsrc t 18) (thmDetail (s.thmT t).temp false)))) ∧
      (s.thmLive t = true → (s.thmT t).hold = false →
        (2 ≤ (s.thmT t).hotRun → exec (.thermalStop t) s = .next (s.after (((s.modThm t fun h =>
          { h with st := .tooHot, hold := true, holdCause := 1 }).raise (tsrc t 20)
            (fld 0 (tempField (s.thmT t).temp))).soloDrain t 2))) ∧
        (0 < (s.thmT t).badRun → s.cfg.invalidRounds ≤ (s.thmT t).badRun → exec (.sensorStop t) s = .next (s.after
          (((s.modThm t fun h => { h with st := .tooHot, hold := true, holdCause := 2, badHold := true }).raise (tsrc t 21)
            (fld 16 (s.thmT t).kind.toNat)).soloDrain t 3)))) ∧
      (s.reach 0x30000 = true → exec (.resume m) s =
        .next (s.fitted.foldl (fun s u => if m.getLsbD u.val then s.resume1 u else s) s)) ∧
      ((s.thmT t).hold = false → s.resume1 t = s) ∧
      ((s.thmT t).hold = true → (s.thmT t).last.length < s.cfg.fallRounds →
        s.resume1 t = s.modThm t fun h => { h with refused := min 255 (h.refused + 1) })

/-- O58. REG_WRITE, READ_SET, REG_READ, XSTATUS, ALERT_RESPONSE, SMBUS_STRETCH_TIMEOUT, SMBUS_CLOCK_HELD_LOW, REGISTER_WRITE (R12,
R351, R381, R396, R397, R398, R399, R400, R402, R403, R422). REG_WRITE and READ_SET are the two Block Writes of Table 16.4, and the
command code says which one a Block Write is, whichever row names it; another code is not acknowledged, with status FORMAT. With the
target up and the ledger recalled: a well-formed READ_SET stores its address and count and is acknowledged; one of another form is
not, with FORMAT, nor one whose PEC is wrong, with PEC; REG_READ without a stored address is not, with FORMAT; one outside the map,
or of registers the path may not read, ends RANGE with free values; one whose registers answer at once is done with their values, and
the PEC of the transaction behind them (log 157); XSTATUS returns the status with its PEC; a REG_WRITE of other counts is refused with
FORMAT, outside the map with RANGE, of registers the path may not write with DENIED; one whose registers answer at once is done with
OK, or, where it wrote the user area of the ledger, stretches the clock until that commit; an access that meets a stopped clock is
kept and the clock stretched. The alert response is answered
with the address while SMB_ALERT_N is asserted and not at all otherwise. A stretch of 25 ms and a clock held low end the
transaction, with the status TIMED_OUT where an access of it stays pending. REGISTER_WRITE writes a register that answers. -/
def Obligations.ManagementBusAndRegisters : Prop :=
  ∀ (w : SmbWrite) (a v : Word) (s : State), s.powered = true →
      let no := fun (c : Byte) => ({ s with smb := { s.smb with status := c, acked := false, reply := [] } } : State)
      let ans := fun (v : State) => exec (.regWrite w) s = .next (s.after v) ∧ exec (.readSet w) s = .next (s.after v)
      (s.smbUp = true → s.ldg.recalling = false →
        (w.code ≠ 0x20 → w.code ≠ 0x21 → ans (no smFormat)) ∧
        (w.code = 0x21 → w.count = 5 → w.data.length = 5 → 1 ≤ ofLe (slice w.data 4 1) → ofLe (slice w.data 4 1) ≤ 8 →
          (w.pec ≠ some false → ans { s with smb := { s.smb with
            set := some (BitVec.ofNat 32 (ofLe (slice w.data 0 4)), ofLe (slice w.data 4 1)), acked := true, reply := [] } }) ∧
          (w.pec = some false → ans (no smPec))) ∧
        (w.code = 0x21 → w.count ≠ 5 ∨ w.data.length ≠ 5 ∨ ofLe (slice w.data 4 1) = 0 ∨ 8 < ofLe (slice w.data 4 1) →
          ans (no smFormat)) ∧
        (w.code = 0x20 → w.count.toNat % 4 ≠ 0 ∨ w.count.toNat < 8 ∨ 36 < w.count.toNat ∨ w.data.length ≠ w.count.toNat →
          ans (no smFormat)) ∧
        (∀ k, w.code = 0x20 → w.count.toNat = 4 + 4 * k → 1 ≤ k → k ≤ 8 → w.data.length = w.count.toNat →
          (w.pec = some false → ans (no smPec)) ∧
          (w.pec ≠ some false → s.clk.smb = none →
            let at_ := ofLe (slice w.data 0 4)
            let vals := (List.range k).map fun i => BitVec.ofNat 32 (ofLe (slice w.data (4 + 4 * i) 4))
            (verdict .smb true at_ k = .range → ans (s.smbDone true smRange [])) ∧
            (verdict .smb true at_ k = .denied → ans (s.smbDone true smDenied [])) ∧
            (∀ acc t, verdict .smb true at_ k = .ok → State.writeAll [.smbAck] vals at_ s = (acc, t) →
              (acc.stop = none → t.ldg.waits (fun d => decide (d = .smbAck)) = false →
                ans { t with smb := { t.smb with status := smOk, acked := true, reply := [] } }) ∧
              (acc.stop = none → t.ldg.waits (fun d => decide (d = .smbAck)) = true →
                ans { t with smb := { t.smb with stretch := some t.now } }) ∧
              (acc.stop ≠ none → ∃ u, ans { u with smb := { u.smb with stretch := some u.now } } ∧
                u = (t.hold false acc true none false).smbSay true [])))) ∧
        (s.smb.set = none → exec .regRead s = .next (no smFormat)) ∧
        (∀ x k, s.smb.set = some (x, k) → s.clk.smb = none →
          (∀ acc t, verdict .smb false x.toNat k = .ok → s.readOn 0 k x.toNat {} = (acc, t) → acc.stop = none →
            exec .regRead s = .next { t with smb := { t.smb with
              status := readStatus acc.uns, acked := true, reply := t.withPec 0x22 (readBytes (readStatus acc.uns) acc.got) } }) ∧
          (verdict .smb false x.toNat k ≠ .ok → exec .regRead s =
            .next ((State.drawWords k s).2.smbDone false smRange (State.drawWords k s).1))) ∧
        exec .xstatus s = .next { s with smb := { s.smb with acked := true, reply := s.withPec 0x23 [s.smb.status] } }) ∧
      (∀ (c : Byte) (l : List Byte), s.withPec c l = l ++ [crc8 ([s.smbAddress, c, s.smbAddress + 1] ++ l)]) ∧
      (s.smbUp = true → s.alert = true → exec .alertResponse s =
        .next { s with smb := { s.smb with acked := true, reply := [s.smbAddress] } }) ∧
      (s.smbUp = false ∨ s.alert = false → exec .alertResponse s =
        .next { s with smb := { s.smb with acked := false, reply := [] } }) ∧
      (∀ n, s.smb.stretch = some n → exec .smbusStretchTimeout s = .next (s.till (n + ms 25)).smbTimedOut) ∧
      (s.clk.smb = none → exec .smbusClockHeldLow s =
        .next { s with smb := { s.smb with stretch := none, acked := false, reply := [] } }) ∧
      (∀ d, s.clk.smb = some d → d.dap = false → d.timedOut = false → exec .smbusClockHeldLow s =
        .next { s with
          clk := { s.clk with smb := some { d with timedOut := true } }
          smb := { s.smb with status := smTimedOut, stretch := none, acked := false, reply := [] } }) ∧
      (∀ b o, s.reach a.toNat = true → blockOf a.toNat = some (b, o) →
        exec (.registerWrite a v) s = .next (s.after (s.writeReg b o v)))

/-- O59. IDCODE, SAMPLE_PRELOAD, EXTEST, CLAMP, HIGHZ, DAP_REG, DAP_MEM, BYPASS, TAP_RESET, LOCK_DEBUG, DMA_START, DMA_COMPLETE
(R293, R406, R407, R408). With the TAP up each boundary-scan code selects its instruction and its hold of the pins: SAMPLE_PRELOAD and
EXTEST capture the pins in the boundary-scan register, which is the data register, and its latches take what is shifted in, a free
value (log 156); CLAMP, HIGHZ and BYPASS, any code of no other instruction, select the bypass register with 0 in it. IDCODE puts
the identity (bit 0 set, manufacturer F5, part, stepping) in the data register;
TAP_RESET selects IDCODE and frees the pins, and does nothing while the TAP is not up. A DAP access with debug closed is DENIED and
changes nothing else; DAP_MEM of a protected structure answers zeros and reports it; of another structure a write stands in its
word, and a read gives what the memory master wrote there last, or a value that nothing constrains (log 34). LOCK_DEBUG closes debug,
and denies an access of the DAP that is pending. A DMA of an unprotected page that may start fetches its 16 codewords, and one of a
protected page is reported; once the reads have ended the buffer holds zeros for a protected page, and for another the data that
each codeword stores. -/
def Obligations.DebugPortAndTestDma : Prop :=
  ∀ (d a : Word) (q : BitVec 64) (k : BitVec 4) (t : TileId) (w g : Bool) (c : Byte) (s : State), s.powered = true →
      (s.tapUp = true →
        let scan := fun (x : Byte) (p : BitVec 2) => ({ s with
          free := s.free + 1
          dbg := { s.dbg with ir := x, pins := p, bsr := s.scanned, dr := s.scanned.setWidth 72
                              latch := Config.freeValue 12 s.free } } : State)
        let pass := fun (x : Byte) (p : BitVec 2) => ({ s with dbg := { s.dbg with ir := x, pins := p, dr := 0 } } : State)
        exec .samplePreload s = .next (scan 0x02 0) ∧ exec .extest s = .next (scan 0x03 1) ∧
        exec .clamp s = .next (pass 0x04 1) ∧ exec .highz s = .next (pass 0x05 2) ∧
        (tapCodes.contains c = false → exec (.bypass c) s = .next (pass c 0)) ∧
        exec .idcode s = .next { s with dbg := { s.dbg with
          ir := 0x01, pins := 0
          dr := BitVec.ofNat 72 (1 + 0xF5 * 2 + (s.devReg 0).toNat % 65536 * 2 ^ 12 + s.stepping.toNat * 2 ^ 28) } } ∧
        exec .tapReset s = .next { s with dbg := { s.dbg with ir := 0x01, pins := 0 } } ∧
        (s.dbgOpen = false →
          exec (.dapReg d a w g) s =
            .next (s.after (({ s with dbg := { s.dbg with ir := 0x20, pins := 0 } } : State).dapDone 0 a w smDenied)) ∧
          exec (.dapMem q k t w) s = .next { s with dbg := { s.dbg with
            ir := 0x21, pins := 0, dapCode := smDenied
            dr := BitVec.ofNat 72 (k.toNat * 2 ^ 64 + t.val * 2 ^ 68 + bit 71 w) } }) ∧
        (s.dbgOpen = true →
          let s1 : State := { s with dbg := { s.dbg with ir := 0x20, pins := 0 } }
          exec (.dapReg d a w false) s = .next (s.after s1) ∧
          (∀ acc v, s.clk.smb = none → verdict .dap true a.toNat 1 = .ok → State.writeAll [] [d] a.toNat s1 = (acc, v) →
            acc.stop = none → exec (.dapReg d a true true) s = .next (s.after (v.dapDone d a true (readStatus acc.uns)))) ∧
          (∀ acc v, s.clk.smb = none → verdict .dap false a.toNat 1 = .ok → s1.readOn 0 1 a.toNat {} = (acc, v) →
            acc.stop = none → exec (.dapReg d a false true) s =
              .next (s.after (v.dapDone (acc.got.getD 0 0) a false (readStatus acc.uns)))) ∧
          (s.hasTile t = true → s.coreOn t = true → s.clk.refHold = false →
            let said := fun (v : State) (x : BitVec 64) (y : Bool) => ({ v with dbg := { v.dbg with
              ir := 0x21, pins := 0, dapCode := smOk
              dr := BitVec.ofNat 72 (x.toNat + k.toNat * 2 ^ 64 + t.val * 2 ^ 68 + bit 71 y) } } : State)
            let key := (t, k, s.dbg.maddr)
            (protectedStruct k = false →
              exec (.dapMem q k t true) s = .next (said { s with dbg := { s.dbg with
                words := (key, q) :: s.dbg.words.filter fun e => decide (e.1 ≠ key) } } q true) ∧
              (∀ x, s.dbg.words.find? (fun e => decide (e.1 = key)) = some (key, x) →
                exec (.dapMem q k t false) s = .next (said s x false)) ∧
              (s.dbg.words.find? (fun e => decide (e.1 = key)) = none →
                exec (.dapMem q k t false) s = .next (said { s with free := s.free + 1 } (Config.freeValue 64 s.free) false))) ∧
            (protectedStruct k = true → exec (.dapMem q k t w) s = .next (said
              (({ s with dbg := { s.dbg with ir := 0x21, pins := 0 } } : State).denied false s.dbg.maddr.toNat) 0 w))))) ∧
      (s.tapUp = false → exec .tapReset s = .next s) ∧
      (s.reach 0x60004 = true →
        let lock : State := { s with dbg := { s.dbg with locked := true } }
        ((∀ e, s.clk.smb = some e → e.dap = false) → exec .lockDebug s = .next lock) ∧
        (∀ e, s.clk.smb = some e → e.dap = true → exec .lockDebug s =
          .next (({ lock with clk := { s.clk with smb := none } } : State).dapDone 0 e.addr e.write smDenied)) ∧
        (s.dbgOpen = true → s.dbg.dmaBusy = false → s.hasTile t = true → s.mioOn t = true → s.coreOn t = true →
          let s1 : State := { s with dbg := { s.dbg with dmaBusy := true, dmaTile := t, dmaFrom := (t, s.dbg.dmaPage) } }
          (s.protectedStratum t (pageStratum s.dbg.dmaPage) = false → exec (.dmaStart t) s =
            .next ((List.range 16).foldl (fun v j => v.bgFetch t (cwAddr s.dbg.dmaPage j) .dma) s1)) ∧
          (s.protectedStratum t (pageStratum s.dbg.dmaPage) = true →
            exec (.dmaStart t) s = .next (s1.denied true s.dbg.dmaPage.toNat)))) ∧
      (s.dbg.dmaBusy = true →
        (s.tile s.dbg.dmaFrom.1).sch.fetches.any (fun e => match e.2 with | some f => decide (f.owner = .dma) | none => false) = false →
        (s.protectedStratum s.dbg.dmaFrom.1 (pageStratum s.dbg.dmaFrom.2) = true →
          exec .dmaComplete s = .next { s with dbg := { s.dbg with dmaBusy := false, dmaZero := true, buf := [] } }) ∧
        (s.protectedStratum s.dbg.dmaFrom.1 (pageStratum s.dbg.dmaFrom.2) = false → ∃ v, exec .dmaComplete s = .next v ∧
          v.dbg.dmaBusy = false ∧ v.dbg.dmaZero = false ∧
          ∀ j p i, j < 16 → i < 64 → s.payload s.dbg.dmaFrom.1 (cwAddr s.dbg.dmaFrom.2 j) = some p →
            Tab.get 0 v.dbg.buf (64 * j + i) = (payloadLine p (i / 16)).extractLsb' (32 * (i % 16)) 32))

/-- O60. No command but a program, an erase, a pad or one that may stop, reset or restart a tile changes any stored codeword of any
medium (R172, R181, R192, R208, R355). For each of the 113 commands that can neither complete a program or an erase nor stop,
reset or restart a tile (a tile that stops finishes the programs in flight): if exec answers a next state, every codeword of
every tile's medium reads as before. The commands excepted are listed in the statement. -/
def Obligations.StoredCodewordsStandUnderTheOtherCommands : Prop :=
  ∀ (i : Instr) (s t : State),
      (match i with
        | .receiveFrame _ _ _ | .read _ | .write _ | .writePartial _ | .cas64 _ | .fadd64 _ | .barrier _ | .lock _
        | .unlock _ | .mgmtRead _ | .mgmtWrite _ | .rolloverEnroll _ | .rolloverEnrollFinish _ | .keepalive _ | .hostGapNak _
        | .retentionRoomSend _ | .claimResult _ _ | .partCompletion _ _ | .barrierAck _ | .codewordDecoded _ _ _
        | .rebuildComplete _ _ | .checkOutcome _ _ _ _ | .checkTimeout _ _ | .squall _ | .tileFaultReplay _
        | .programComplete _ _ _ | .eraseComplete _ _ | .stratumPad _ _ | .patrolFinding _ _ _ _ _ | .rgnBaseWrite _ _
        | .rgnSizeWrite _ _ | .modeWrite _ _ | .enable _ | .online _ | .readOnly _ | .offline _ | .zeroize _ | .disable _
        | .rekey _ | .lostZeroize _ | .lostRekey _ | .regionShutdownComplete _ | .leaseBreakResolution _
        | .sramUncorrectable _ | .pwrfailFall _ | .seqEnd | .seqDisable | .checkPass _ | .checkTimeoutRailFail _
        | .domainOn _ | .domainStartTimeout _ | .domainOff _ | .pgFall _ _ | .runningFault _ | .retryOffExpiry _ | .systemAction | .off
        | .cleanStopTimeout _ | .coldReset _ | .warmReset | .tileFaultReset _ _ | .watchdog _ | .refclkLoss | .pllLockLoss _
        | .pendingAccessComplete _ | .pendingAccessRelease _ | .resetPend _ | .faultReset _ | .tilePhaseLoad _ _
        | .meshTableLoad | .tileRecovery _ | .ledgerCommitComplete | .thermalStop _ | .sensorStop _ | .regWrite _ | .readSet _
        | .dapReg _ _ _ _ | .registerWrite _ _ | .lossOfVaon => False
        | _ => True) →
      exec i s = .next t → ∀ (u : TileId) (a : Nat), Tab.find (t.medium u).cws a = Tab.find (s.medium u).cws a
end

