-- ==== Sys2Proof/Laws/Tab.lean ====
section
/-! SUPPORT. The laws of sparse tables: a read after a write, and that every operation keeps the canonical form. -/

namespace Sys2Proof

variable {α : Type}

/-- A lower bound below the bound of a rising table is one of it too. -/
theorem Tab.rising_mono {t : Tab α} {a b : Nat} (h : Tab.rising (some b) t = true) (l : a ≤ b) : Tab.rising (some a) t = true := by
  cases t with
  | nil => rfl
  | cons e t => simp_all [Tab.rising]; omega

theorem Tab.rising_none {t : Tab α} {b : Nat} (h : Tab.rising (some b) t = true) : Tab.rising none t = true := by
  cases t with
  | nil => rfl
  | cons e t => simp_all [Tab.rising]

theorem Tab.rising_ins {t : Tab α} {k : Nat} {v : α} : ∀ {lo : Option Nat}, Tab.rising lo t = true →
    (∀ b, lo = some b → b < k) → Tab.rising lo (Tab.ins k v t) = true := by
  induction t with
  | nil => intro lo _ hb; cases lo <;> simp_all [Tab.ins, Tab.rising]
  | cons e t ih =>
    intro lo h hb
    obtain ⟨k', v'⟩ := e
    simp only [Tab.rising, Bool.and_eq_true] at h
    unfold Tab.ins
    split
    · cases lo <;> simp_all [Tab.rising]
    · split
      · subst_vars; simp_all [Tab.rising]
      · simp only [Tab.rising, Bool.and_eq_true]
        exact ⟨h.1, ih h.2 (fun b hb' => by cases hb'; omega)⟩

theorem Tab.rising_filter {t : Tab α} {p : Nat × α → Bool} : ∀ {lo : Option Nat}, Tab.rising lo t = true →
    Tab.rising lo (t.filter p) = true := by
  induction t with
  | nil => intro lo _; rfl
  | cons e t ih =>
    intro lo h
    obtain ⟨k', v'⟩ := e
    simp only [Tab.rising, Bool.and_eq_true] at h
    rw [List.filter_cons]
    split
    · simp only [Tab.rising, Bool.and_eq_true]
      exact ⟨h.1, ih h.2⟩
    · refine ih ?_
      cases lo with
      | none => exact Tab.rising_none h.2
      | some b =>
        have h1 := h.1
        simp only [decide_eq_true_eq] at h1
        exact Tab.rising_mono h.2 (Nat.le_of_lt h1)

theorem Tab.rising_del {t : Tab α} {k : Nat} {lo : Option Nat} (h : Tab.rising lo t = true) : Tab.rising lo (Tab.del k t) = true :=
  Tab.rising_filter h

theorem Tab.mem_ins {t : Tab α} {k : Nat} {v : α} {e : Nat × α} (h : e ∈ Tab.ins k v t) : e ∈ t ∨ e = (k, v) := by
  induction t with
  | nil => exact .inr (List.mem_singleton.1 h)
  | cons x t ih =>
    unfold Tab.ins at h
    split at h
    · rcases List.mem_cons.1 h with h | h
      · exact .inr h
      · exact .inl h
    · split at h
      · rcases List.mem_cons.1 h with h | h
        · exact .inr h
        · exact .inl (List.mem_cons_of_mem _ h)
      · rcases List.mem_cons.1 h with h | h
        · exact .inl (h ▸ List.mem_cons_self)
        · rcases ih h with h | h
          · exact .inl (List.mem_cons_of_mem _ h)
          · exact .inr h

theorem Tab.mem_del {t : Tab α} {k : Nat} {e : Nat × α} (h : e ∈ Tab.del k t) : e ∈ t := (List.mem_filter.1 h).1

/-- A property of the default and of every listed entry holds of every entry read. -/
theorem Tab.get_all {P : α → Prop} {d : α} {t : Tab α} (hd : P d) (ht : ∀ e ∈ t, P e.2) (k : Nat) : P (Tab.get d t k) := by
  induction t with
  | nil => exact hd
  | cons x t ih =>
    unfold Tab.get
    split
    · exact ht x List.mem_cons_self
    · exact ih fun e he => ht e (List.mem_cons_of_mem _ he)

variable [DecidableEq α]

/-- A write keeps the canonical form. -/
theorem Tab.wf_put {d : α} {t : Tab α} {k : Nat} {v : α} (h : Tab.wf d t = true) : Tab.wf d (Tab.put d t k v) = true := by
  simp only [Tab.wf, Bool.and_eq_true, List.all_eq_true] at h ⊢
  unfold Tab.put
  split
  · exact ⟨Tab.rising_del h.1, fun e he => h.2 e (Tab.mem_del he)⟩
  · refine ⟨Tab.rising_ins h.1 (fun b hb => by cases hb), fun e he => ?_⟩
    rcases Tab.mem_ins he with he | he
    · exact h.2 e he
    · subst he; simpa using ‹¬_›

theorem Tab.wf_upd {d : α} {t : Tab α} {k : Nat} {f : α → α} (h : Tab.wf d t = true) : Tab.wf d (Tab.upd d t k f) = true :=
  Tab.wf_put h

/-- Removal of keys keeps the canonical form. -/
theorem Tab.wf_keep {d : α} {t : Tab α} {p : Nat → Bool} (h : Tab.wf d t = true) : Tab.wf d (Tab.keep p t) = true := by
  simp only [Tab.wf, Bool.and_eq_true, List.all_eq_true] at h ⊢
  exact ⟨Tab.rising_filter h.1, fun e he => h.2 e (List.mem_filter.1 he).1⟩

theorem Tab.mem_upd {d : α} {t : Tab α} {k : Nat} {f : α → α} {e : Nat × α} (h : e ∈ Tab.upd d t k f) :
    e ∈ t ∨ e = (k, f (Tab.get d t k)) := by
  unfold Tab.upd Tab.put at h
  split at h
  · exact .inl (Tab.mem_del h)
  · exact Tab.mem_ins h

/-! ### A read after a write -/

omit [DecidableEq α] in
theorem Tab.get_ins (d : α) (t : Tab α) (k : Nat) (v : α) (j : Nat) :
    Tab.get d (Tab.ins k v t) j = if j = k then v else Tab.get d t j := by
  induction t with
  | nil => simp [Tab.ins, Tab.get]
  | cons e t ih =>
    obtain ⟨k', v'⟩ := e
    unfold Tab.ins
    split
    · simp [Tab.get]
    · split
      · subst_vars
        simp only [Tab.get]
        split <;> rfl
      · simp only [Tab.get, ih]
        split
        · subst_vars
          exact (if_neg fun e => absurd e.symm ‹_›).symm
        · rfl

omit [DecidableEq α] in
theorem Tab.get_del (d : α) (t : Tab α) (k j : Nat) : Tab.get d (Tab.del k t) j = if j = k then d else Tab.get d t j := by
  induction t with
  | nil => simp [Tab.del, Tab.get]
  | cons e t ih =>
    obtain ⟨k', v'⟩ := e
    have g : Tab.del k ((k', v') :: t) = if k' = k then Tab.del k t else (k', v') :: Tab.del k t := by
      simp [Tab.del, List.filter_cons]
    rw [g]
    by_cases h : k' = k
    · subst h
      simp only [if_pos, ih, Tab.get]
      split <;> simp_all
    · simp only [if_neg h, Tab.get, ih]
      split
      · subst_vars; exact (if_neg h).symm
      · rfl

/-- A read of a table after a write: the value at its key, every other entry as before. -/
theorem Tab.get_put (d : α) (t : Tab α) (k : Nat) (v : α) (j : Nat) :
    Tab.get d (Tab.put d t k v) j = if j = k then v else Tab.get d t j := by
  unfold Tab.put
  split
  · subst_vars; exact Tab.get_del v t k j
  · exact Tab.get_ins d t k v j

theorem Tab.get_upd (d : α) (t : Tab α) (k : Nat) (f : α → α) (j : Nat) :
    Tab.get d (Tab.upd d t k f) j = if j = k then f (Tab.get d t k) else Tab.get d t j :=
  Tab.get_put d t k _ j

end Sys2Proof
end

