-- ==== Sys2Proof/Laws/Kept.lean ====
section
/-! SUPPORT. What every operation of the machine keeps (`Kept`, Safety.lean): the rules that pass it through a conditional, a fold and
an update of the state, and the operations that move time, draw free values or write the media. -/

namespace Sys2Proof.Machine

variable {cwr : Prop}

theorem Kept.refl (s : State) : Kept cwr s s := ⟨rfl, rfl, rfl, le_rfl, le_rfl, id, fun _ _ => rfl⟩

theorem Kept.trans {a b c : State} (h : Kept cwr a b) (g : Kept cwr b c) : Kept cwr a c :=
  ⟨g.pending.trans h.pending, g.part.trans h.part, g.stepping.trans h.stepping, h.now.trans g.now, h.free.trans g.free,
    fun w => g.media (h.media w), fun n u => (g.cws n u).trans (h.cws n u)⟩

theorem Kept.ite {s0 a b : State} {c : Prop} [Decidable c] (ha : Kept cwr s0 a) (hb : Kept cwr s0 b) : Kept cwr s0 (if c then a else b) := by
  split <;> assumption

theorem Kept.foldl {α : Type} {s0 s : State} {f : State → α → State} {l : List α} (hf : ∀ s a, Kept cwr s0 s → Kept cwr s0 (f s a))
    (h : Kept cwr s0 s) : Kept cwr s0 (l.foldl f s) := by
  induction l generalizing s with
  | nil => exact h
  | cons a l ih => exact ih (hf s a h)

theorem Kept.fold1 {α β : Type} {s0 : State} {e : State × β} {f : State × β → α → State × β} {l : List α}
    (hf : ∀ e a, Kept cwr s0 e.1 → Kept cwr s0 (f e a).1) (h : Kept cwr s0 e.1) : Kept cwr s0 (l.foldl f e).1 := by
  induction l generalizing e with
  | nil => exact h
  | cons a l ih => exact ih (hf e a h)

theorem Kept.fold2 {α β : Type} {s0 : State} {e : β × State} {f : β × State → α → β × State} {l : List α}
    (hf : ∀ e a, Kept cwr s0 e.2 → Kept cwr s0 (f e a).2) (h : Kept cwr s0 e.2) : Kept cwr s0 (l.foldl f e).2 := by
  induction l generalizing e with
  | nil => exact h
  | cons a l ih => exact ih (hf e a h)

theorem Kept.fold3 {α β γ : Type} {s0 : State} {e : β × γ × State} {f : β × γ × State → α → β × γ × State} {l : List α}
    (hf : ∀ e a, Kept cwr s0 e.2.2 → Kept cwr s0 (f e a).2.2) (h : Kept cwr s0 e.2.2) : Kept cwr s0 (l.foldl f e).2.2 := by
  induction l generalizing e with
  | nil => exact h
  | cons a l ih => exact ih (hf e a h)

theorem Kept.someIf {s0 s : State} {c : Prop} [Decidable c] {o : Option State} (ho : ∀ s, o = some s → Kept cwr s0 s)
    (e : (if c then o else none) = some s) : Kept cwr s0 s := by
  split at e
  · exact ho _ e
  · cases e

theorem Kept.someIte {s0 s : State} {c : Prop} [Decidable c] {o q : Option State} (ho : ∀ s, o = some s → Kept cwr s0 s)
    (hq : ∀ s, q = some s → Kept cwr s0 s) (e : (if c then o else q) = some s) : Kept cwr s0 s := by
  split at e
  · exact ho _ e
  · exact hq _ e

/-- An update of the state that leaves the kept fields alone. -/
theorem Kept.update {s0 a : State} (h : Kept cwr s0 a)
    {sf' : BitVec 40} {powered' : Bool} {held' : Bool} {scratch' : Word} {sesCtl' : Word} {sess' : Tab Sess} {creds' : Tab Cred} {enrQ' : List Queued} {strg' : Tab Strg} {ports' : Tab Port} {rgns' : Tab Region} {dbgDenied' : Bool} {ldg' : Ledger} {evt' : Evt} {tiles' : Tab Tile} {mesh' : List Msg} {sup' : Sup} {thm' : Tab Thm} {clk' : Clk} {cfg' : Cfg} {boot' : Boot} {dbg' : Dbg} {smb' : Smb} {cap' : Tab (Option Word)} {out' : List Sent} :
    Kept cwr s0 (State.mk a.pending a.part a.stepping a.now a.free sf' powered' held' scratch' sesCtl' sess' creds' enrQ' strg' ports' rgns' dbgDenied' ldg' evt' tiles' a.media mesh' sup' thm' clk' cfg' boot' dbg' smb' cap' out') :=
  ⟨h.pending, h.part, h.stepping, h.now, h.free, h.media, h.cws⟩

theorem State.draw_fin {s0 s : State} (h : Kept cwr s0 s) (w : Nat) : Kept cwr s0 (s.draw w).2 :=
  ⟨h.pending, h.part, h.stepping, h.now, h.free.trans (Nat.le_succ _), h.media, h.cws⟩

theorem State.draw_kept {s0 s s' : State} {w : Nat} {v : BitVec w} (h : Kept cwr s0 s) (e : s.draw w = (v, s')) : Kept cwr s0 s' := by
  obtain ⟨-, rfl⟩ := Prod.mk.inj e
  exact ⟨h.pending, h.part, h.stepping, h.now, h.free.trans (Nat.le_succ _), h.media, h.cws⟩

theorem State.drawBool_fin {s0 s : State} (h : Kept cwr s0 s) : Kept cwr s0 (s.drawBool).2 :=
  ⟨h.pending, h.part, h.stepping, h.now, h.free.trans (Nat.le_succ _), h.media, h.cws⟩

theorem State.drawBool_kept {s0 s s' : State} {v : Bool} (h : Kept cwr s0 s) (e : s.drawBool = (v, s')) : Kept cwr s0 s' := by
  obtain ⟨-, rfl⟩ := Prod.mk.inj e
  exact ⟨h.pending, h.part, h.stepping, h.now, h.free.trans (Nat.le_succ _), h.media, h.cws⟩

/-- A change of a medium that keeps its canonical form, and its codewords unless the command writes codewords. -/
theorem State.modMedium_kept {s0 s : State} (h : Kept cwr s0 s) (t : TileId) {f : Medium → Medium}
    (hf : ∀ m : Medium, m.wf = true → (f m).wf = true) (hc : ¬cwr → ∀ m : Medium, (f m).cws = m.cws) : Kept cwr s0 (s.modMedium t f) :=
  ⟨h.pending, h.part, h.stepping, h.now, h.free, fun w => by
    have g := h.media w
    simp only [State.mediaWf, Bool.and_eq_true, State.modMedium] at g ⊢
    refine ⟨Tab.wf_upd g.1, List.all_eq_true.2 fun e he => ?_⟩
    rcases Tab.mem_upd he with h1 | h1
    · exact List.all_eq_true.1 g.2 e h1
    · rw [h1]
      apply hf
      exact Tab.get_all (P := fun m : Medium => m.wf = true) (by decide) (fun e he => List.all_eq_true.1 g.2 e he) _,
    fun n u => by
      refine Eq.trans ?_ (h.cws n u)
      simp only [State.medium, State.modMedium, Tab.get_upd]
      split
      · rename_i e
        rw [e]
        exact hc n _
      · rfl⟩

end Sys2Proof.Machine
end

