-- ==== Sys2Proof/Laws/KeptAccess.lean ====
section
/-! SUPPORT. `Kept` (Safety.lean) for the operations of the access path: each operation keeps what every command must keep. -/

namespace Sys2Proof.Machine

variable {cwr : Prop}

/-! ### Machine/Ops.lean -/

theorem State.modSes_kept {s0 s : State} (h : Kept cwr s0 s) (x : SessId) (f : Sess → Sess) : Kept cwr s0 (State.modSes s x f) := by
  unfold State.modSes
  repeat first
    | with_reducible assumption | dsimp only | fail_if_no_progress with_reducible apply Kept.update

theorem State.modCred_kept {s0 s : State} (h : Kept cwr s0 s) (x : SessId) (f : Cred → Cred) : Kept cwr s0 (State.modCred s x f) := by
  unfold State.modCred
  repeat first
    | with_reducible assumption | dsimp only | fail_if_no_progress with_reducible apply Kept.update

theorem State.modPort_kept {s0 s : State} (h : Kept cwr s0 s) (p : PortId) (f : Port → Port) : Kept cwr s0 (State.modPort s p f) := by
  unfold State.modPort
  repeat first
    | with_reducible assumption | dsimp only | fail_if_no_progress with_reducible apply Kept.update

theorem State.modRgn_kept {s0 s : State} (h : Kept cwr s0 s) (r : RegionId) (f : Region → Region) : Kept cwr s0 (State.modRgn s r f) := by
  unfold State.modRgn
  repeat first
    | with_reducible assumption | dsimp only | fail_if_no_progress with_reducible apply Kept.update

theorem State.modTile_kept {s0 s : State} (h : Kept cwr s0 s) (t : TileId) (f : Tile → Tile) : Kept cwr s0 (State.modTile s t f) := by
  unfold State.modTile
  repeat first
    | with_reducible assumption | dsimp only | fail_if_no_progress with_reducible apply Kept.update

theorem State.modThm_kept {s0 s : State} (h : Kept cwr s0 s) (t : TileId) (f : Thm → Thm) : Kept cwr s0 (State.modThm s t f) := by
  unfold State.modThm
  repeat first
    | with_reducible assumption | dsimp only | fail_if_no_progress with_reducible apply Kept.update

theorem State.modStrg_kept {s0 s : State} (h : Kept cwr s0 s) (p : PortId) (j : LinkId) (f : Strg → Strg) : Kept cwr s0 (State.modStrg s p j f) := by
  unfold State.modStrg
  repeat first
    | with_reducible assumption | dsimp only | fail_if_no_progress with_reducible apply Kept.update

theorem State.modSup_kept {s0 s : State} (h : Kept cwr s0 s) (f : Sup → Sup) : Kept cwr s0 (State.modSup s f) := by
  unfold State.modSup
  repeat first
    | with_reducible assumption | dsimp only | fail_if_no_progress with_reducible apply Kept.update

theorem State.modClk_kept {s0 s : State} (h : Kept cwr s0 s) (f : Clk → Clk) : Kept cwr s0 (State.modClk s f) := by
  unfold State.modClk
  repeat first
    | with_reducible assumption | dsimp only | fail_if_no_progress with_reducible apply Kept.update

theorem State.modLdg_kept {s0 s : State} (h : Kept cwr s0 s) (f : Ledger → Ledger) : Kept cwr s0 (State.modLdg s f) := by
  unfold State.modLdg
  repeat first
    | with_reducible assumption | dsimp only | fail_if_no_progress with_reducible apply Kept.update

theorem State.modEvt_kept {s0 s : State} (h : Kept cwr s0 s) (f : Evt → Evt) : Kept cwr s0 (State.modEvt s f) := by
  unfold State.modEvt
  repeat first
    | with_reducible assumption | dsimp only | fail_if_no_progress with_reducible apply Kept.update

theorem State.modCtl_kept {s0 s : State} (h : Kept cwr s0 s) (t : TileId) (f : Tctl → Tctl) : Kept cwr s0 (State.modCtl s t f) := by
  unfold State.modCtl
  repeat first
    | with_reducible assumption | with_reducible apply State.modTile_kept | dsimp only
    | fail_if_no_progress with_reducible apply Kept.update

theorem State.modAdm_kept {s0 s : State} (h : Kept cwr s0 s) (t : TileId) (f : Adm → Adm) : Kept cwr s0 (State.modAdm s t f) := by
  unfold State.modAdm
  repeat first
    | with_reducible assumption | with_reducible apply State.modTile_kept | dsimp only
    | fail_if_no_progress with_reducible apply Kept.update

theorem State.modXlt_kept {s0 s : State} (h : Kept cwr s0 s) (t : TileId) (f : Xlt → Xlt) : Kept cwr s0 (State.modXlt s t f) := by
  unfold State.modXlt
  repeat first
    | with_reducible assumption | with_reducible apply State.modTile_kept | dsimp only
    | fail_if_no_progress with_reducible apply Kept.update

theorem State.modMed_kept {s0 s : State} (h : Kept cwr s0 s) (t : TileId) (f : Med → Med) : Kept cwr s0 (State.modMed s t f) := by
  unfold State.modMed
  repeat first
    | with_reducible assumption | with_reducible apply State.modTile_kept | dsimp only
    | fail_if_no_progress with_reducible apply Kept.update

theorem State.modSch_kept {s0 s : State} (h : Kept cwr s0 s) (t : TileId) (f : Sch → Sch) : Kept cwr s0 (State.modSch s t f) := by
  unfold State.modSch
  repeat first
    | with_reducible assumption | with_reducible apply State.modTile_kept | dsimp only
    | fail_if_no_progress with_reducible apply Kept.update

theorem State.modSec_kept {s0 s : State} (h : Kept cwr s0 s) (t : TileId) (f : Sec → Sec) : Kept cwr s0 (State.modSec s t f) := by
  unfold State.modSec
  repeat first
    | with_reducible assumption | with_reducible apply State.modTile_kept | dsimp only
    | fail_if_no_progress with_reducible apply Kept.update

theorem State.modPmc_kept {s0 s : State} (h : Kept cwr s0 s) (t : TileId) (f : Pmc → Pmc) : Kept cwr s0 (State.modPmc s t f) := by
  unfold State.modPmc
  repeat first
    | with_reducible assumption | with_reducible apply State.modTile_kept | dsimp only
    | fail_if_no_progress with_reducible apply Kept.update

theorem State.admCnt_kept {s0 s : State} (h : Kept cwr s0 s) (t : TileId) (i : Nat) : Kept cwr s0 (State.admCnt s t i) := by
  unfold State.admCnt
  repeat first
    | with_reducible assumption | with_reducible apply State.modAdm_kept | dsimp only
    | fail_if_no_progress with_reducible apply Kept.update

theorem State.xltCnt_kept {s0 s : State} (h : Kept cwr s0 s) (t : TileId) (i : Nat) : Kept cwr s0 (State.xltCnt s t i) := by
  unfold State.xltCnt
  repeat first
    | with_reducible assumption | with_reducible apply State.modXlt_kept | dsimp only
    | fail_if_no_progress with_reducible apply Kept.update

theorem State.schCnt_kept {s0 s : State} (h : Kept cwr s0 s) (t : TileId) (i : Nat) : Kept cwr s0 (State.schCnt s t i) := by
  unfold State.schCnt
  repeat first
    | with_reducible assumption | with_reducible apply State.modSch_kept | dsimp only
    | fail_if_no_progress with_reducible apply Kept.update

theorem State.secCnt_kept {s0 s : State} (h : Kept cwr s0 s) (t : TileId) (i : Nat) : Kept cwr s0 (State.secCnt s t i) := by
  unfold State.secCnt
  repeat first
    | with_reducible assumption | with_reducible apply State.modSec_kept | dsimp only
    | fail_if_no_progress with_reducible apply Kept.update

theorem State.medTcnt_kept {s0 s : State} (h : Kept cwr s0 s) (t : TileId) (i : Nat) (n : Nat) : Kept cwr s0 (State.medTcnt s t i n) := by
  unfold State.medTcnt
  repeat first
    | with_reducible assumption | with_reducible apply State.modMed_kept | dsimp only
    | fail_if_no_progress with_reducible apply Kept.update

theorem State.medCcnt_kept {s0 s : State} (h : Kept cwr s0 s) (t : TileId) (c i : Nat) (n : Nat) : Kept cwr s0 (State.medCcnt s t c i n) := by
  unfold State.medCcnt
  repeat first
    | with_reducible assumption | with_reducible apply State.modMed_kept | dsimp only
    | fail_if_no_progress with_reducible apply Kept.update

theorem State.lcnt_kept {s0 s : State} (h : Kept cwr s0 s) (p : PortId) (j : LinkId) (i : Nat) (n : Nat) : Kept cwr s0 (State.lcnt s p j i n) := by
  unfold State.lcnt
  repeat first
    | with_reducible assumption | with_reducible apply State.modPort_kept | dsimp only
    | fail_if_no_progress with_reducible apply Kept.update

theorem State.commit_kept {s0 s : State} (h : Kept cwr s0 s) (base : Nat) (b : Body) (post : List Deferred) : Kept cwr s0 (State.commit s base b post) := by
  unfold State.commit
  repeat first
    | with_reducible assumption | with_reducible apply State.modLdg_kept | dsimp only

theorem State.rgnCommit_kept {s0 s : State} (h : Kept cwr s0 s) (r : RegionId) (us : List RgnUpd) (post : List Deferred) : Kept cwr s0 (State.rgnCommit s r us post) := by
  unfold State.rgnCommit
  repeat first
    | with_reducible assumption | with_reducible refine Kept.foldl (fun _ _ _ => ?_) ?_
    | with_reducible apply State.commit_kept | split | dsimp only | fail_if_no_progress with_reducible apply Kept.update

theorem State.wait_kept {s0 s : State} (h : Kept cwr s0 s) (x : SessId) (w : Waiting) : Kept cwr s0 (State.wait s x w) := by
  unfold State.wait
  repeat first
    | with_reducible assumption | with_reducible apply State.modSes_kept | with_reducible apply Kept.ite | split | dsimp only
    | fail_if_no_progress with_reducible apply Kept.update

/-! ### Machine/Operands.lean -/

/-! ### Machine/Keys.lean -/

/-! ### Machine/Transport.lean -/

theorem State.emit_kept {s0 s : State} (h : Kept cwr s0 s) (x : SessId) (f : Frame) : Kept cwr s0 (State.emit s x f) := by
  unfold State.emit
  repeat first
    | with_reducible assumption | with_reducible apply State.modSes_kept | with_reducible apply Kept.ite | split | dsimp only
    | fail_if_no_progress with_reducible apply Kept.update

theorem State.emitUnseq_kept {s0 s : State} (h : Kept cwr s0 s) (x : SessId) (h : Hdr) : Kept cwr s0 (State.emitUnseq s x h) := by
  unfold State.emitUnseq
  repeat first
    | with_reducible assumption | with_reducible apply State.emit_kept | with_reducible apply Kept.ite | split | dsimp only

theorem State.gapNak_kept {s0 s : State} (h : Kept cwr s0 s) (x : SessId) (ref aux : Word) : Kept cwr s0 (State.gapNak s x ref aux) := by
  unfold State.gapNak
  repeat first
    | with_reducible assumption | with_reducible apply State.modSes_kept | with_reducible apply State.emitUnseq_kept
    | dsimp only | fail_if_no_progress with_reducible apply Kept.update

theorem State.freeCell_kept {s0 s : State} (h : Kept cwr s0 s) (t : TileId) (x : SessId) (id : Nat) : Kept cwr s0 (State.freeCell s t x id) := by
  unfold State.freeCell
  repeat first
    | with_reducible assumption | with_reducible apply State.modAdm_kept | dsimp only
    | fail_if_no_progress with_reducible apply Kept.update

theorem State.uncell_kept {s0 s : State} (h : Kept cwr s0 s) (x : SessId) (seq : Option Word) : Kept cwr s0 (State.uncell s x seq) := by
  unfold State.uncell
  repeat first
    | with_reducible assumption | with_reducible apply State.modSes_kept | with_reducible apply State.freeCell_kept
    | with_reducible apply Kept.ite | split | dsimp only | fail_if_no_progress with_reducible apply Kept.update

theorem State.retired_kept {s0 s : State} (h : Kept cwr s0 s) (x : SessId) (w : Waiting) : Kept cwr s0 (State.retired s x w) := by
  unfold State.retired
  repeat first
    | with_reducible assumption | with_reducible apply State.modSes_kept | with_reducible apply State.uncell_kept
    | with_reducible apply Kept.ite | split | dsimp only | fail_if_no_progress with_reducible apply Kept.update

theorem State.sendFirst_kept {s0 s : State} (h : Kept cwr s0 s) (x : SessId) (w : Waiting) (rest : List Waiting) : Kept cwr s0 (State.sendFirst s x w rest) := by
  unfold State.sendFirst
  repeat first
    | with_reducible assumption | with_reducible refine Kept.foldl (fun _ _ _ => ?_) ?_
    | with_reducible apply State.modSes_kept | with_reducible apply State.modRgn_kept | with_reducible apply State.admCnt_kept
    | with_reducible apply State.emit_kept | with_reducible apply State.retired_kept | with_reducible apply Kept.ite | split
    | dsimp only | fail_if_no_progress with_reducible apply Kept.update

theorem State.flushN_kept {s0 s : State} (h : Kept cwr s0 s) (n : Nat) (x : SessId) : Kept cwr s0 (State.flushN n x s) := by
  induction n generalizing s with
  | zero => exact h
  | succ n ih =>
    unfold State.flushN
    split
    · exact h
    · split
      · exact ih (State.sendFirst_kept h _ _ _)
      · exact h

theorem State.flush_kept {s0 s : State} (h : Kept cwr s0 s) (x : SessId) : Kept cwr s0 (State.flush s x) := by
  unfold State.flush
  repeat first
    | with_reducible assumption | with_reducible refine Kept.foldl (fun _ _ _ => ?_) ?_
    | with_reducible apply State.uncell_kept | with_reducible apply State.flushN_kept | with_reducible apply Kept.ite | split
    | dsimp only

theorem State.flushAll_kept {s0 s : State} (h : Kept cwr s0 s) : Kept cwr s0 (State.flushAll s) := by
  unfold State.flushAll
  repeat first
    | with_reducible assumption | with_reducible refine Kept.foldl (fun _ _ _ => ?_) ?_ | with_reducible apply State.flush_kept
    | dsimp only

theorem State.sendOrWait_kept {s0 s : State} (h : Kept cwr s0 s) (x : SessId) (w : Waiting) : Kept cwr s0 (State.sendOrWait s x w) := by
  unfold State.sendOrWait
  repeat first
    | with_reducible assumption | with_reducible apply State.wait_kept | with_reducible apply State.sendFirst_kept
    | with_reducible apply Kept.ite | split | dsimp only

theorem State.eventFrames_kept {s0 s : State} (h : Kept cwr s0 s) (n : Nat) (sf : BitVec 40) (detail : BitVec 64) (count : Nat) : Kept cwr s0 (State.eventFrames s n sf detail count) := by
  unfold State.eventFrames
  repeat first
    | with_reducible assumption | with_reducible refine Kept.foldl (fun _ _ _ => ?_) ?_
    | with_reducible apply State.modSes_kept | with_reducible apply State.sendOrWait_kept | with_reducible apply Kept.ite
    | split | dsimp only | fail_if_no_progress with_reducible apply Kept.update

theorem State.occur_kept {s0 s : State} (h : Kept cwr s0 s) (n : Nat) (detail : BitVec 64) (bit : Bool) : Kept cwr s0 (State.occur s n detail bit) := by
  unfold State.occur
  repeat first
    | with_reducible assumption | with_reducible apply State.modLdg_kept | with_reducible apply State.modEvt_kept
    | with_reducible apply State.commit_kept | with_reducible apply State.eventFrames_kept | with_reducible apply Kept.ite
    | split | dsimp only | fail_if_no_progress with_reducible apply Kept.update

theorem State.raise_kept {s0 s : State} (h : Kept cwr s0 s) (n : Nat) (detail : BitVec 64) (bit : Bool) (f : BitVec 64 → BitVec 64) : Kept cwr s0 (State.raise s n detail bit f) := by
  unfold State.raise
  repeat first
    | with_reducible assumption | with_reducible apply State.modEvt_kept | with_reducible apply State.occur_kept
    | with_reducible apply Kept.ite | split | dsimp only | fail_if_no_progress with_reducible apply Kept.update

theorem State.gatherCounts_kept {s0 s : State} (h : Kept cwr s0 s) : Kept cwr s0 (State.gatherCounts s) := by
  unfold State.gatherCounts
  repeat first
    | with_reducible assumption | with_reducible refine Kept.foldl (fun _ _ _ => ?_) ?_
    | with_reducible apply State.modEvt_kept | with_reducible apply State.commit_kept | dsimp only
    | fail_if_no_progress with_reducible apply Kept.update

theorem State.respond_kept {s0 s : State} (h : Kept cwr s0 s) (x : SessId) (seq : Word) (h : Hdr) (payload : List Byte) (pend : List (Nat × TileId)) (addr : BitVec 64) : Kept cwr s0 (State.respond s x seq h payload pend addr) := by
  unfold State.respond
  repeat first
    | with_reducible assumption | with_reducible apply State.wait_kept | with_reducible apply State.flush_kept | dsimp only
    | fail_if_no_progress with_reducible apply Kept.update

theorem State.ack_kept {s0 s : State} (h : Kept cwr s0 s) (x : SessId) (rq : Rq) (st : Byte) (flags : Byte) : Kept cwr s0 (State.ack s x rq st flags) := by
  unfold State.ack
  repeat first
    | with_reducible assumption | with_reducible apply State.respond_kept | dsimp only

theorem State.refuse_kept {s0 s : State} (h : Kept cwr s0 s) (x : SessId) (rq : Rq) (st : Byte) (form : Bool) (flags : Byte) : Kept cwr s0 (State.refuse s x rq st form flags) := by
  unfold State.refuse
  repeat first
    | with_reducible assumption | with_reducible apply State.respond_kept | with_reducible apply State.ack_kept
    | with_reducible apply Kept.ite | split | dsimp only

theorem State.readAck_kept {s0 s : State} (h : Kept cwr s0 s) (x : SessId) (a : Word) : Kept cwr s0 (State.readAck s x a) := by
  unfold State.readAck
  repeat first
    | with_reducible assumption | with_reducible apply State.modSes_kept | with_reducible apply State.flush_kept
    | with_reducible apply Kept.ite | split | dsimp only | fail_if_no_progress with_reducible apply Kept.update

theorem State.resend_kept {s0 s : State} (h : Kept cwr s0 s) (x : SessId) (f : Frame) : Kept cwr s0 (State.resend s x f) := by
  unfold State.resend
  repeat first
    | with_reducible assumption | with_reducible apply State.lcnt_kept | with_reducible apply State.emit_kept
    | with_reducible apply Kept.ite | split | dsimp only | fail_if_no_progress with_reducible apply Kept.update

/-! ### Machine/Pmc.lean -/

theorem State.sample_kept {s0 s : State} (h : Kept cwr s0 s) (t : TileId) (i : Fin 64) (c : Option Nat) : Kept cwr s0 (State.sample s t i c) := by
  unfold State.sample
  repeat first
    | with_reducible assumption | with_reducible apply State.modPmc_kept
    | with_reducible refine State.draw_kept (e := by assumption) ?_ .. | with_reducible refine State.draw_fin ?_ ..
    | with_reducible apply Kept.ite | split | dsimp only

theorem State.sampleN_kept {s0 s : State} (h : Kept cwr s0 s) (t : TileId) (i : Fin 64) (c : Option Nat) (n : Nat) : Kept cwr s0 (State.sampleN s t i c n) := by
  unfold State.sampleN
  repeat first
    | with_reducible assumption | with_reducible apply Kept.ite | with_reducible refine Kept.foldl (fun _ _ _ => ?_) ?_
    | with_reducible apply State.modPmc_kept | with_reducible apply State.sample_kept | dsimp only
    | fail_if_no_progress with_reducible apply Kept.update

theorem State.pmcAdvance_kept {s0 s : State} (h : Kept cwr s0 s) (t : TileId) (i : Fin 64) (n : Nat) (c : Option Nat) : Kept cwr s0 (State.pmcAdvance s t i n c) := by
  unfold State.pmcAdvance
  repeat first
    | with_reducible assumption | with_reducible apply State.modPmc_kept | with_reducible apply State.raise_kept
    | with_reducible apply State.sampleN_kept | with_reducible apply Kept.ite | split | dsimp only

theorem State.pmc_kept {s0 s : State} (h : Kept cwr s0 s) (t : TileId) (ev : Nat) (c : Option Nat) (n : Nat) : Kept cwr s0 (State.pmc s t ev c n) := by
  unfold State.pmc
  repeat first
    | with_reducible assumption | with_reducible refine Kept.foldl (fun _ _ _ => ?_) ?_
    | with_reducible apply State.modPmc_kept | with_reducible apply State.pmcAdvance_kept | with_reducible apply Kept.ite
    | split | dsimp only | fail_if_no_progress with_reducible apply Kept.update

theorem State.pmcChan_fin {s0 s : State} (h : Kept cwr s0 s) (t : TileId) (i : Fin 64) : Kept cwr s0 (s.pmcChan t i).2 := by
  unfold State.pmcChan
  extract_lets cfg k
  split
  · split
    · exact h
    · exact State.draw_fin h 3
  · exact h

theorem State.pmcChan_kept {s0 s s' : State} {c : Option Nat} (h : Kept cwr s0 s) (t : TileId) (i : Fin 64)
    (e : s.pmcChan t i = (c, s')) : Kept cwr s0 s' := by
  have g := State.pmcChan_fin h t i
  rw [e] at g
  exact g

theorem State.pmcOnce_kept {s0 s : State} (h : Kept cwr s0 s) (t : TileId) (i : Fin 64) : Kept cwr s0 (State.pmcOnce s t i) := by
  unfold State.pmcOnce
  repeat first
    | with_reducible assumption | with_reducible apply State.pmcAdvance_kept
    | with_reducible refine State.pmcChan_kept (e := by assumption) ?_ .. | with_reducible refine State.pmcChan_fin ?_ ..
    | split | dsimp only

theorem State.pmcCycle_kept {s0 s : State} (h : Kept cwr s0 s) (t : TileId) : Kept cwr s0 (State.pmcCycle s t) := by
  unfold State.pmcCycle
  repeat first
    | with_reducible assumption | with_reducible refine Kept.foldl (fun _ _ _ => ?_) ?_
    | with_reducible apply State.modPmc_kept | with_reducible apply State.raise_kept | with_reducible apply State.pmc_kept
    | with_reducible apply Kept.ite | split | dsimp only | fail_if_no_progress with_reducible apply Kept.update

theorem State.pmcSpan_kept {s0 s : State} (h : Kept cwr s0 s) (k : Nat) (t : TileId) : Kept cwr s0 (State.pmcSpan s k t) := by
  unfold State.pmcSpan
  repeat first
    | with_reducible assumption | with_reducible refine Kept.foldl (fun _ _ _ => ?_) ?_
    | with_reducible apply State.modPmc_kept | with_reducible apply State.sampleN_kept | with_reducible apply State.pmc_kept
    | with_reducible apply Kept.ite | split | dsimp only | fail_if_no_progress with_reducible apply Kept.update

/-- The time moves on. -/
theorem State.till_kept {s0 s : State} (h : Kept cwr s0 s) (n : Nat) : Kept cwr s0 (s.till n) :=
  have g : Kept cwr s0 (s.fitted.foldl (State.pmcSpan · (n - s.now)) s) := Kept.foldl (fun _ _ g => State.pmcSpan_kept g ..) h
  ⟨h.pending, h.part, h.stepping, h.now.trans (le_max_left _ _), g.free, h.media, h.cws⟩

/-! ### Machine/Protect.lean -/

theorem State.bumpMinor_kept {s0 s : State} (h : Kept cwr s0 s) (t : TileId) (line : Nat) : Kept cwr s0 (State.bumpMinor s t line) := by
  unfold State.bumpMinor
  repeat first
    | with_reducible assumption | with_reducible apply State.modSec_kept | with_reducible apply Kept.ite | split | dsimp only
    | fail_if_no_progress with_reducible apply Kept.update

/-! ### Machine/Serve.lean -/

theorem State.modCell_kept {s0 s : State} (h : Kept cwr s0 s) (t : TileId) (id : Nat) (f : Cell → Cell) : Kept cwr s0 (State.modCell s t id f) := by
  unfold State.modCell
  repeat first
    | with_reducible assumption | with_reducible apply State.modAdm_kept | split | dsimp only
    | fail_if_no_progress with_reducible apply Kept.update

theorem State.touchPage_kept {s0 s : State} (h : Kept cwr s0 s) (t : TileId) (page : Nat) : Kept cwr s0 (State.touchPage s t page) := by
  unfold State.touchPage
  repeat first
    | with_reducible assumption | with_reducible apply State.modXlt_kept | with_reducible apply Kept.ite | split | dsimp only
    | fail_if_no_progress with_reducible apply Kept.update

theorem State.modDie_kept {s0 s : State} (h : Kept cwr s0 s) (t : TileId) (c d : Nat) (f : Die → Die) : Kept cwr s0 (State.modDie s t c d f) := by
  unfold State.modDie
  repeat first
    | with_reducible assumption | with_reducible apply State.modMed_kept | dsimp only
    | fail_if_no_progress with_reducible apply Kept.update

theorem State.modStratum_kept {s0 s : State} (h : Kept cwr s0 s) (t : TileId) (n : Nat) (f : Stratum → Stratum) : Kept cwr s0 (State.modStratum s t n f) := by
  unfold State.modStratum
  repeat first
    | with_reducible assumption | with_reducible apply State.modXlt_kept | dsimp only
    | fail_if_no_progress with_reducible apply Kept.update

theorem State.newFetch_kept {s0 s : State} (h : Kept cwr s0 s) (t : TileId) (f : Fetch) : Kept cwr s0 (State.newFetch s t f) := by
  unfold State.newFetch
  repeat first
    | with_reducible assumption | with_reducible apply State.modSch_kept | dsimp only
    | fail_if_no_progress with_reducible apply Kept.update

theorem State.setFetch_kept {s0 s : State} (h : Kept cwr s0 s) (t : TileId) (id : Nat) (f : Option Fetch) : Kept cwr s0 (State.setFetch s t id f) := by
  unfold State.setFetch
  repeat first
    | with_reducible assumption | with_reducible apply State.modSch_kept | dsimp only
    | fail_if_no_progress with_reducible apply Kept.update

theorem State.startRebuild_kept {s0 s : State} (h : Kept cwr s0 s) (t : TileId) (id : Nat) (f : Fetch) : Kept cwr s0 (State.startRebuild s t id f) := by
  unfold State.startRebuild
  repeat first
    | with_reducible assumption | with_reducible refine Kept.foldl (fun _ _ _ => ?_) ?_
    | with_reducible apply State.newFetch_kept | with_reducible apply State.setFetch_kept | with_reducible apply Kept.ite
    | split | dsimp only | fail_if_no_progress with_reducible apply Kept.update

theorem State.bgFetch_kept {s0 s : State} (h : Kept cwr s0 s) (t : TileId) (cwa : BitVec 34) (o : Owner) : Kept cwr s0 (State.bgFetch s t cwa o) := by
  unfold State.bgFetch
  repeat first
    | with_reducible assumption | with_reducible apply State.newFetch_kept | with_reducible apply State.startRebuild_kept
    | with_reducible apply Kept.ite | split | dsimp only

theorem State.fetchPage_kept {s0 s : State} (h : Kept cwr s0 s) (t : TileId) (page : Nat) : Kept cwr s0 (State.fetchPage s t page) := by
  unfold State.fetchPage
  repeat first
    | with_reducible assumption | with_reducible refine Kept.foldl (fun _ _ _ => ?_) ?_
    | with_reducible apply State.modXlt_kept | with_reducible apply State.xltCnt_kept | with_reducible apply State.pmc_kept
    | with_reducible apply State.bgFetch_kept | with_reducible apply Kept.ite | split | dsimp only
    | fail_if_no_progress with_reducible apply Kept.update

theorem State.wantNode_kept {s0 s : State} (h : Kept cwr s0 s) (t : TileId) (key : Nat) : Kept cwr s0 (State.wantNode s t key) := by
  unfold State.wantNode
  repeat first
    | with_reducible assumption | with_reducible apply State.bgFetch_kept | with_reducible apply State.fetchPage_kept
    | with_reducible apply Kept.ite | split | dsimp only

theorem State.wantCtr_kept {s0 s : State} (h : Kept cwr s0 s) (t : TileId) (slot : Nat) : Kept cwr s0 (State.wantCtr s t slot) := by
  unfold State.wantCtr
  repeat first
    | with_reducible assumption | with_reducible refine Kept.foldl (fun _ _ _ => ?_) ?_
    | with_reducible apply State.modSec_kept | with_reducible apply State.secCnt_kept | with_reducible apply State.pmc_kept
    | with_reducible apply State.bgFetch_kept | with_reducible apply State.fetchPage_kept
    | with_reducible apply State.wantNode_kept | with_reducible apply Kept.ite | split | dsimp only
    | fail_if_no_progress with_reducible apply Kept.update

theorem State.linkRead_kept {s0 s : State} (h : Kept cwr s0 s) (t : TileId) (id i : Nat) (cwa : BitVec 34) (sub : Nat) (token : Option Word) : Kept cwr s0 (State.linkRead s t id i cwa sub token) := by
  unfold State.linkRead
  repeat first
    | with_reducible assumption | with_reducible apply State.modAdm_kept | with_reducible apply State.modCell_kept
    | with_reducible apply State.newFetch_kept | with_reducible apply State.startRebuild_kept
    | with_reducible apply State.wantCtr_kept | with_reducible apply Kept.ite | split | dsimp only
    | fail_if_no_progress with_reducible apply Kept.update

theorem State.send_kept {s0 s : State} (h : Kept cwr s0 s) (src dst : TileId) (b : MsgBody) : Kept cwr s0 (State.send s src dst b) := by
  unfold State.send
  repeat first
    | with_reducible assumption | dsimp only | fail_if_no_progress with_reducible apply Kept.update

theorem State.release_kept {s0 s : State} (h : Kept cwr s0 s) (t : TileId) (id : Nat) : Kept cwr s0 (State.release s t id) := by
  unfold State.release
  repeat first
    | with_reducible assumption | with_reducible apply State.modAdm_kept | with_reducible apply State.freeCell_kept | split
    | dsimp only | fail_if_no_progress with_reducible apply Kept.update

theorem State.finish_kept {s0 s : State} (h : Kept cwr s0 s) (t : TileId) (id : Nat) : Kept cwr s0 (State.finish s t id) := by
  unfold State.finish
  repeat first
    | with_reducible assumption | with_reducible apply State.modCell_kept | with_reducible apply State.send_kept
    | with_reducible apply State.release_kept | with_reducible apply Kept.ite | split | dsimp only
    | fail_if_no_progress with_reducible apply Kept.update

theorem State.give_kept {s0 s : State} (h : Kept cwr s0 s) (t : TileId) (id i : Nat) (data : Line) (poison : Nat) (never pending retry : Bool) : Kept cwr s0 (State.give s t id i data poison never pending retry) := by
  unfold State.give
  repeat first
    | with_reducible assumption | with_reducible apply State.modCell_kept | with_reducible apply State.finish_kept
    | with_reducible apply Kept.ite | split | dsimp only | fail_if_no_progress with_reducible apply Kept.update

theorem State.pinOlder_kept {s0 s : State} (h : Kept cwr s0 s) (t : TileId) (id line : Nat) : Kept cwr s0 (State.pinOlder s t id line) := by
  unfold State.pinOlder
  repeat first
    | with_reducible assumption | with_reducible refine Kept.foldl (fun _ _ _ => ?_) ?_
    | with_reducible apply State.modCell_kept | dsimp only | fail_if_no_progress with_reducible apply Kept.update

theorem State.stage_kept {s0 s : State} (h : Kept cwr s0 s) (t : TileId) (id i : Nat) (line : Nat) (data : Line) : Kept cwr s0 (State.stage s t id i line data) := by
  unfold State.stage
  repeat first
    | with_reducible assumption | with_reducible apply State.modAdm_kept | with_reducible apply State.pinOlder_kept
    | with_reducible apply Kept.ite | split | dsimp only | fail_if_no_progress with_reducible apply Kept.update

theorem State.giveBack_kept {s0 s : State} (h : Kept cwr s0 s) (t : TileId) (id i : Nat) : Kept cwr s0 (State.giveBack s t id i) := by
  unfold State.giveBack
  repeat first
    | with_reducible assumption | with_reducible apply State.modAdm_kept | with_reducible apply Kept.ite | split | dsimp only
    | fail_if_no_progress with_reducible apply Kept.update

theorem State.execOne_kept {s0 s : State} (h : Kept cwr s0 s) (t : TileId) (id i : Nat) (cur : Line) (poison : Nat) (retry : Bool) : Kept cwr s0 (State.execOne s t id i cur poison retry) := by
  unfold State.execOne
  repeat first
    | with_reducible assumption | with_reducible apply State.modAdm_kept | with_reducible apply State.modCell_kept
    | with_reducible apply State.give_kept | with_reducible apply State.stage_kept | with_reducible apply State.giveBack_kept
    | with_reducible apply Kept.ite | split | dsimp only | fail_if_no_progress with_reducible apply Kept.update

theorem State.execLine_kept {s0 s : State} (h : Kept cwr s0 s) (t : TileId) (id i : Nat) (cur : Line) (poison : Nat) (retry : Bool) : Kept cwr s0 (State.execLine s t id i cur poison retry) := by
  unfold State.execLine
  repeat first
    | with_reducible assumption | with_reducible refine Kept.fold1 (fun _ _ _ => ?_) ?_
    | with_reducible refine Kept.foldl (fun _ _ _ => ?_) ?_ | with_reducible apply State.modAdm_kept
    | with_reducible apply State.give_kept | with_reducible apply State.execOne_kept | with_reducible apply Kept.ite | split
    | dsimp only | fail_if_no_progress with_reducible apply Kept.update

theorem State.rechain_kept {s0 s : State} (h : Kept cwr s0 s) (t : TileId) (m : Nat × Nat) : Kept cwr s0 (State.rechain s t m) := by
  unfold State.rechain
  repeat first
    | with_reducible assumption | with_reducible refine Kept.fold1 (fun _ _ _ => ?_) ?_
    | with_reducible refine Kept.foldl (fun _ _ _ => ?_) ?_ | with_reducible apply State.modAdm_kept
    | with_reducible apply State.modCell_kept | with_reducible apply Kept.ite | split | dsimp only
    | fail_if_no_progress with_reducible apply Kept.update

theorem State.supersede_kept {s0 s : State} (h : Kept cwr s0 s) (t : TileId) (line : Nat) (m : Nat × Nat) (self : Nat) : Kept cwr s0 (State.supersede s t line m self) := by
  unfold State.supersede
  repeat first
    | with_reducible assumption | with_reducible refine Kept.foldl (fun _ _ _ => ?_) ?_
    | with_reducible apply State.modAdm_kept | with_reducible apply State.modCell_kept | with_reducible apply Kept.ite | split
    | dsimp only | fail_if_no_progress with_reducible apply Kept.update

theorem State.setSpan_kept {s0 s : State} (h : Kept cwr s0 s) (t : TileId) (line : Nat) : Kept cwr s0 (State.setSpan s t line) := by
  unfold State.setSpan
  repeat first
    | with_reducible assumption | with_reducible apply State.modXlt_kept | dsimp only
    | fail_if_no_progress with_reducible apply Kept.update

theorem State.lookup_fin {s0 s : State} (h : Kept cwr s0 s) (t : TileId) (line : Nat) (tok : BitVec 64) (old again : Bool) : Kept cwr s0 (State.lookup s t line tok old again).2.2 := by
  unfold State.lookup
  repeat first
    | with_reducible assumption | with_reducible apply State.xltCnt_kept | with_reducible apply State.touchPage_kept
    | with_reducible apply Kept.ite | split | dsimp only | fail_if_no_progress with_reducible apply Kept.update

theorem State.lookup_kept {s0 s s' : State} {a : Found} {b : TokenSays} (h : Kept cwr s0 s) (t : TileId) (line : Nat) (tok : BitVec 64) (old again : Bool) (e : State.lookup s t line tok old again = (a, b, s')) : Kept cwr s0 s' := by
  have g := State.lookup_fin h t line tok old again
  rw [e] at g
  exact g

theorem State.serveLine_kept {s0 s : State} (h : Kept cwr s0 s) (t : TileId) (id i : Nat) : Kept cwr s0 (State.serveLine s t id i) := by
  unfold State.serveLine
  repeat first
    | with_reducible assumption | with_reducible apply State.modAdm_kept | with_reducible apply State.xltCnt_kept
    | with_reducible apply State.pmc_kept | with_reducible apply State.modCell_kept | with_reducible apply State.fetchPage_kept
    | with_reducible apply State.linkRead_kept | with_reducible apply State.give_kept | with_reducible apply State.stage_kept
    | with_reducible apply State.giveBack_kept | with_reducible apply State.execLine_kept
    | with_reducible apply State.supersede_kept | with_reducible apply State.setSpan_kept
    | with_reducible refine State.lookup_kept (e := by assumption) ?_ .. | with_reducible refine State.lookup_fin ?_ ..
    | with_reducible apply Kept.ite | split | dsimp only | fail_if_no_progress with_reducible apply Kept.update

theorem State.serveCell_kept {s0 s : State} (h : Kept cwr s0 s) (t : TileId) (id : Nat) : Kept cwr s0 (State.serveCell s t id) := by
  unfold State.serveCell
  repeat first
    | with_reducible assumption | with_reducible refine Kept.foldl (fun _ _ _ => ?_) ?_
    | with_reducible apply State.admCnt_kept | with_reducible apply State.modCell_kept
    | with_reducible apply State.serveLine_kept | with_reducible apply Kept.ite | split | dsimp only
    | fail_if_no_progress with_reducible apply Kept.update

theorem State.serveWaiting_kept {s0 s : State} (h : Kept cwr s0 s) (t : TileId) : Kept cwr s0 (State.serveWaiting s t) := by
  unfold State.serveWaiting
  repeat first
    | with_reducible assumption | with_reducible refine Kept.foldl (fun _ _ _ => ?_) ?_
    | with_reducible apply State.serveCell_kept | with_reducible apply Kept.ite | split | dsimp only

theorem State.armCell_kept {s0 s : State} (h : Kept cwr s0 s) (t : TileId) (id : Nat) : Kept cwr s0 (State.armCell s t id) := by
  unfold State.armCell
  repeat first
    | with_reducible assumption | with_reducible apply State.modAdm_kept | with_reducible apply State.modXlt_kept
    | with_reducible apply State.modCell_kept | with_reducible apply State.serveCell_kept
    | with_reducible apply State.serveWaiting_kept | with_reducible apply Kept.ite | split | dsimp only
    | fail_if_no_progress with_reducible apply Kept.update

/-! ### Machine/Intake.lean -/

theorem State.stallRefused_kept {s0 s : State} (h : Kept cwr s0 s) (t : TileId) (line : Nat) : Kept cwr s0 (State.stallRefused s t line) := by
  unfold State.stallRefused
  repeat first
    | with_reducible assumption | with_reducible apply State.modRgn_kept | with_reducible apply State.modSec_kept
    | with_reducible apply State.secCnt_kept | with_reducible apply State.raise_kept | with_reducible apply Kept.ite | split
    | dsimp only | fail_if_no_progress with_reducible apply Kept.update

theorem State.claim_fin {s0 s : State} (h : Kept cwr s0 s) (t home : TileId) (x : SessId) (rq : Rq) (first n : Nat) (tla : BitVec 42) (mark : Bool) : Kept cwr s0 (State.claim s t home x rq first n tla mark).1 := by
  unfold State.claim
  repeat first
    | with_reducible assumption | with_reducible apply State.modAdm_kept | with_reducible apply State.pmc_kept
    | with_reducible apply State.stallRefused_kept | with_reducible apply Kept.ite | split | dsimp only
    | fail_if_no_progress with_reducible apply Kept.update

theorem State.claim_kept {s0 s s' : State} {o : Option Short} (h : Kept cwr s0 s) (t home : TileId) (x : SessId) (rq : Rq) (first n : Nat) (tla : BitVec 42) (mark : Bool) (e : State.claim s t home x rq first n tla mark = (s', o)) : Kept cwr s0 s' := by
  have g := State.claim_fin h t home x rq first n tla mark
  rw [e] at g
  exact g

theorem State.unclaim_kept {s0 s : State} (h : Kept cwr s0 s) (t : TileId) (id : Nat) : Kept cwr s0 (State.unclaim s t id) := by
  unfold State.unclaim
  repeat first
    | with_reducible assumption | with_reducible apply State.modAdm_kept | with_reducible apply State.release_kept
    | with_reducible apply Kept.ite | split | dsimp only | fail_if_no_progress with_reducible apply Kept.update

theorem State.dropPart_kept {s0 s : State} (h : Kept cwr s0 s) (t : TileId) (x : SessId) (seq : Word) : Kept cwr s0 (State.dropPart s t x seq) := by
  unfold State.dropPart
  repeat first
    | with_reducible assumption | with_reducible apply State.admCnt_kept | with_reducible apply State.unclaim_kept | split
    | dsimp only | fail_if_no_progress with_reducible apply Kept.update

theorem State.rewind_kept {s0 s : State} (h : Kept cwr s0 s) (t : TileId) (x : SessId) : Kept cwr s0 (State.rewind s t x) := by
  unfold State.rewind
  repeat first
    | with_reducible assumption | with_reducible refine Kept.foldl (fun _ _ _ => ?_) ?_
    | with_reducible apply State.modAdm_kept | with_reducible apply State.admCnt_kept | with_reducible apply State.unclaim_kept
    | dsimp only | fail_if_no_progress with_reducible apply Kept.update

theorem State.startRoll_kept {s0 s : State} (h : Kept cwr s0 s) (t : TileId) (slot : Nat) (compact : Bool) (frames : Nat) : Kept cwr s0 (State.startRoll s t slot compact frames) := by
  unfold State.startRoll
  repeat first
    | with_reducible assumption | with_reducible refine Kept.foldl (fun _ _ _ => ?_) ?_
    | with_reducible apply State.modAdm_kept | with_reducible apply State.modSec_kept | with_reducible apply State.bgFetch_kept
    | with_reducible apply Kept.ite | split | dsimp only | fail_if_no_progress with_reducible apply Kept.update

theorem State.beginPass_kept {s0 s : State} (h : Kept cwr s0 s) (r : RegionId) (lost : Nat) (post : List Deferred) : Kept cwr s0 (State.beginPass s r lost post) := by
  unfold State.beginPass
  repeat first
    | with_reducible assumption | with_reducible apply State.rgnCommit_kept
    | with_reducible refine State.draw_kept (e := by assumption) ?_ .. | with_reducible refine State.draw_fin ?_ .. | split
    | dsimp only

theorem State.armPart_kept {s0 s : State} (h : Kept cwr s0 s) (t : TileId) (id : Nat) : Kept cwr s0 (State.armPart s t id) := by
  unfold State.armPart
  repeat first
    | with_reducible assumption | with_reducible apply State.modAdm_kept | with_reducible apply State.modCell_kept
    | with_reducible apply State.send_kept | with_reducible apply State.armCell_kept | with_reducible apply State.unclaim_kept
    | with_reducible apply State.startRoll_kept | with_reducible apply State.beginPass_kept | with_reducible apply Kept.ite
    | split | dsimp only | fail_if_no_progress with_reducible apply Kept.update

theorem State.dropFetches_kept {s0 s : State} (h : Kept cwr s0 s) (t : TileId) (p : Fetch → Bool) : Kept cwr s0 (State.dropFetches s t p) := by
  unfold State.dropFetches
  repeat first
    | with_reducible assumption | with_reducible apply State.modAdm_kept | with_reducible apply State.modSch_kept | split
    | dsimp only | fail_if_no_progress with_reducible apply Kept.update

theorem State.abortCell_kept {s0 s : State} (h : Kept cwr s0 s) (t : TileId) (id : Nat) (c : Cell) : Kept cwr s0 (State.abortCell s t id c) := by
  unfold State.abortCell
  repeat first
    | with_reducible assumption | with_reducible refine Kept.foldl (fun _ _ _ => ?_) ?_
    | with_reducible apply State.modAdm_kept | with_reducible apply State.giveBack_kept
    | with_reducible apply State.rechain_kept | with_reducible apply State.dropFetches_kept | with_reducible apply Kept.ite
    | split | dsimp only | fail_if_no_progress with_reducible apply Kept.update

theorem State.endPart_kept {s0 s : State} (h : Kept cwr s0 s) (t : TileId) (id : Nat) : Kept cwr s0 (State.endPart s t id) := by
  unfold State.endPart
  repeat first
    | with_reducible assumption | with_reducible apply State.release_kept | with_reducible apply State.unclaim_kept
    | with_reducible apply State.abortCell_kept | with_reducible apply Kept.ite | split | dsimp only
    | fail_if_no_progress with_reducible apply Kept.update

theorem State.endCell_kept {s0 s : State} (h : Kept cwr s0 s) (t : TileId) (id : Nat) : Kept cwr s0 (State.endCell s t id) := by
  unfold State.endCell
  repeat first
    | with_reducible assumption | with_reducible apply State.serveWaiting_kept | with_reducible apply State.endPart_kept
    | dsimp only

theorem State.voidArms_kept {s0 s : State} (h : Kept cwr s0 s) (x : SessId) : Kept cwr s0 (State.voidArms s x) := by
  unfold State.voidArms
  repeat first
    | with_reducible assumption | with_reducible apply Kept.ite | split | dsimp only
    | fail_if_no_progress with_reducible apply Kept.update

theorem State.replayCell_kept {s0 s : State} (h : Kept cwr s0 s) (t : TileId) (id : Nat) : Kept cwr s0 (State.replayCell s t id) := by
  unfold State.replayCell
  repeat first
    | with_reducible assumption | with_reducible refine Kept.foldl (fun _ _ _ => ?_) ?_
    | with_reducible apply State.modCell_kept | with_reducible apply State.release_kept
    | with_reducible apply State.finish_kept | with_reducible apply Kept.ite | split | dsimp only
    | fail_if_no_progress with_reducible apply Kept.update

theorem State.replayTile_kept {s0 s : State} (h : Kept cwr s0 s) (t : TileId) : Kept cwr s0 (State.replayTile s t) := by
  unfold State.replayTile
  repeat first
    | with_reducible assumption | with_reducible refine Kept.foldl (fun _ _ _ => ?_) ?_
    | with_reducible apply State.endPart_kept | with_reducible apply State.replayCell_kept | with_reducible apply Kept.ite
    | split | dsimp only

theorem State.dropLogic_kept {s0 s : State} (h : Kept cwr s0 s) (t : TileId) : Kept cwr s0 (State.dropLogic s t) := by
  unfold State.dropLogic
  repeat first
    | with_reducible assumption | with_reducible refine Kept.foldl (fun _ _ _ => ?_) ?_
    | with_reducible apply State.modAdm_kept | with_reducible apply State.modXlt_kept | with_reducible apply State.modSch_kept
    | with_reducible apply State.modSec_kept | with_reducible apply State.bgFetch_kept | split | dsimp only
    | fail_if_no_progress with_reducible apply Kept.update

/-! ### Machine/Session.lean -/

theorem State.stranger_kept {s0 s : State} (h : Kept cwr s0 s) (p : PortId) (j : LinkId) (i : Nat) (sa : BitVec 48) : Kept cwr s0 (State.stranger s p j i sa) := by
  unfold State.stranger
  repeat first
    | with_reducible assumption | with_reducible apply State.modStrg_kept | with_reducible apply State.raise_kept | dsimp only

theorem State.breakLease_kept {s0 s : State} (h : Kept cwr s0 s) (r : RegionId) (cause : BitVec 2) : Kept cwr s0 (State.breakLease s r cause) := by
  unfold State.breakLease
  repeat first
    | with_reducible assumption | with_reducible apply State.modRgn_kept | with_reducible apply Kept.ite | split | dsimp only
    | fail_if_no_progress with_reducible apply Kept.update

theorem State.endSession_kept {s0 s : State} (h : Kept cwr s0 s) (x : SessId) (cause : BitVec 3) : Kept cwr s0 (State.endSession s x cause) := by
  unfold State.endSession
  repeat first
    | with_reducible assumption | with_reducible refine Kept.foldl (fun _ _ _ => ?_) ?_
    | with_reducible apply State.modSes_kept | with_reducible apply State.raise_kept | with_reducible apply State.endCell_kept
    | with_reducible apply State.voidArms_kept | with_reducible apply State.breakLease_kept | with_reducible apply Kept.ite
    | split | dsimp only

theorem State.killSession_kept {s0 s : State} (h : Kept cwr s0 s) (x : SessId) (cause : BitVec 3) : Kept cwr s0 (State.killSession s x cause) := by
  unfold State.killSession
  repeat first
    | with_reducible assumption | with_reducible apply State.modSes_kept | with_reducible apply State.endSession_kept | split
    | dsimp only | fail_if_no_progress with_reducible apply Kept.update

theorem State.endLink_kept {s0 s : State} (h : Kept cwr s0 s) (p : PortId) (j : LinkId) : Kept cwr s0 (State.endLink s p j) := by
  unfold State.endLink
  repeat first
    | with_reducible assumption | with_reducible refine Kept.foldl (fun _ _ _ => ?_) ?_
    | with_reducible apply State.endSession_kept | with_reducible apply Kept.ite | split | dsimp only

theorem State.pnCheck_kept {s0 s : State} (h : Kept cwr s0 s) (x : SessId) : Kept cwr s0 (State.pnCheck s x) := by
  unfold State.pnCheck
  repeat first
    | with_reducible assumption | with_reducible apply State.endSession_kept | with_reducible apply Kept.ite | split
    | dsimp only | fail_if_no_progress with_reducible apply Kept.update

theorem State.emitEnr_kept {s0 s : State} (h : Kept cwr s0 s) (p : PortId) (j : LinkId) (mac : BitVec 48) (pcp : BitVec 3) (f : Frame) : Kept cwr s0 (State.emitEnr s p j mac pcp f) := by
  unfold State.emitEnr
  repeat first
    | with_reducible assumption | with_reducible refine State.draw_kept (e := by assumption) ?_ ..
    | with_reducible refine State.draw_fin ?_ .. | with_reducible apply Kept.ite | split | dsimp only
    | fail_if_no_progress with_reducible apply Kept.update

theorem State.enqueueEnr_kept {s0 s : State} (h : Kept cwr s0 s) (q : Queued) : Kept cwr s0 (State.enqueueEnr s q) := by
  unfold State.enqueueEnr
  repeat first
    | with_reducible assumption | with_reducible apply State.stranger_kept | with_reducible apply Kept.ite | split | dsimp only
    | fail_if_no_progress with_reducible apply Kept.update

theorem State.enrollArrives_kept {s0 s : State} (h : Kept cwr s0 s) (p : PortId) (j : LinkId) (f : EnrFrame) : Kept cwr s0 (State.enrollArrives s p j f) := by
  unfold State.enrollArrives
  repeat first
    | with_reducible assumption | with_reducible apply State.stranger_kept | with_reducible apply State.enqueueEnr_kept
    | with_reducible apply Kept.ite | split | dsimp only

theorem State.finishArrives_kept {s0 s : State} (h : Kept cwr s0 s) (p : PortId) (j : LinkId) (f : EnrFrame) : Kept cwr s0 (State.finishArrives s p j f) := by
  unfold State.finishArrives
  repeat first
    | with_reducible assumption | with_reducible apply State.stranger_kept | with_reducible apply State.enqueueEnr_kept
    | with_reducible apply Kept.ite | split | dsimp only

theorem State.answerEnroll_kept {s0 s : State} (h : Kept cwr s0 s) (q : Queued) (x : SessId) : Kept cwr s0 (State.answerEnroll s q x) := by
  unfold State.answerEnroll
  repeat first
    | with_reducible assumption | with_reducible apply State.modSes_kept | with_reducible apply State.stranger_kept
    | with_reducible apply State.emitEnr_kept | with_reducible refine State.draw_kept (e := by assumption) ?_ ..
    | with_reducible refine State.draw_fin ?_ .. | with_reducible apply Kept.ite | split | dsimp only
    | fail_if_no_progress with_reducible apply Kept.update

theorem State.finishAgain_kept {s0 s : State} (h : Kept cwr s0 s) (q : Queued) (x : SessId) : Kept cwr s0 (State.finishAgain s q x) := by
  unfold State.finishAgain
  repeat first
    | with_reducible assumption | with_reducible apply State.modSes_kept | with_reducible apply State.finish_kept
    | with_reducible apply State.stranger_kept | with_reducible apply State.emitEnr_kept | with_reducible apply Kept.ite
    | split | dsimp only | fail_if_no_progress with_reducible apply Kept.update

theorem State.serveEnr_kept {s0 s : State} (h : Kept cwr s0 s) : Kept cwr s0 (State.serveEnr s) := by
  unfold State.serveEnr
  repeat first
    | with_reducible assumption | with_reducible apply State.modSes_kept | with_reducible apply State.emitEnr_kept
    | with_reducible apply State.answerEnroll_kept | with_reducible apply State.finishAgain_kept
    | with_reducible apply Kept.ite | split | dsimp only | fail_if_no_progress with_reducible apply Kept.update

theorem State.install_kept {s0 s : State} (h : Kept cwr s0 s) (x : SessId) (o : Exch) : Kept cwr s0 (State.install s x o) := by
  unfold State.install
  repeat first
    | with_reducible assumption | with_reducible refine Kept.fold3 (fun _ _ _ => ?_) ?_
    | with_reducible refine Kept.foldl (fun _ _ _ => ?_) ?_ | with_reducible apply State.modSes_kept
    | with_reducible apply State.raise_kept | with_reducible apply State.finish_kept | with_reducible apply State.emitEnr_kept
    | split | dsimp only | fail_if_no_progress with_reducible apply Kept.update

theorem State.closeDone_kept {s0 s : State} (h : Kept cwr s0 s) (x : SessId) : Kept cwr s0 (State.closeDone s x) := by
  unfold State.closeDone
  repeat first
    | with_reducible assumption | with_reducible apply State.modSes_kept | with_reducible apply State.install_kept
    | with_reducible apply Kept.ite | split | dsimp only | fail_if_no_progress with_reducible apply Kept.update

theorem State.forgetEnr_kept {s0 s : State} (h : Kept cwr s0 s) (dark : PortId → Bool) : Kept cwr s0 (State.forgetEnr s dark) := by
  unfold State.forgetEnr
  repeat first
    | with_reducible assumption | with_reducible refine Kept.foldl (fun _ _ _ => ?_) ?_
    | with_reducible apply State.modSes_kept | with_reducible apply Kept.ite | split | dsimp only
    | fail_if_no_progress with_reducible apply Kept.update

theorem State.completeEnr_kept {s0 s : State} (h : Kept cwr s0 s) (x : SessId) : Kept cwr s0 (State.completeEnr s x) := by
  unfold State.completeEnr
  repeat first
    | with_reducible assumption | with_reducible apply State.endSession_kept | with_reducible apply State.install_kept | split
    | dsimp only | fail_if_no_progress with_reducible apply Kept.update

theorem State.rtoExpires_kept {s0 s : State} (h : Kept cwr s0 s) (x : SessId) : Kept cwr s0 (State.rtoExpires s x) := by
  unfold State.rtoExpires
  repeat first
    | with_reducible assumption | with_reducible apply State.modSes_kept | with_reducible apply State.till_kept
    | with_reducible apply State.resend_kept | with_reducible apply State.endSession_kept | with_reducible apply Kept.ite
    | split | dsimp only | fail_if_no_progress with_reducible apply Kept.update

theorem State.keepAlive_kept {s0 s : State} (h : Kept cwr s0 s) (x : SessId) : Kept cwr s0 (State.keepAlive s x) := by
  unfold State.keepAlive
  repeat first
    | with_reducible assumption | with_reducible apply State.emitUnseq_kept | dsimp only

theorem State.ahead_kept {s0 s : State} (h : Kept cwr s0 s) (x : SessId) (seq : Word) : Kept cwr s0 (State.ahead s x seq) := by
  unfold State.ahead
  repeat first
    | with_reducible assumption | with_reducible apply State.modSes_kept | with_reducible apply State.gapNak_kept
    | with_reducible apply Kept.ite | split | dsimp only | fail_if_no_progress with_reducible apply Kept.update

theorem State.heard_kept {s0 s : State} (h : Kept cwr s0 s) (x : SessId) (an : BitVec 2) (pn : Nat) (tag : Option CTag) : Kept cwr s0 (State.heard s x an pn tag) := by
  unfold State.heard
  repeat first
    | with_reducible assumption | with_reducible apply State.modSes_kept | with_reducible apply Kept.ite | split | dsimp only
    | fail_if_no_progress with_reducible apply Kept.update

theorem State.unseq_kept {s0 s : State} (h : Kept cwr s0 s) (x : SessId) (r : Rq) : Kept cwr s0 (State.unseq s x r) := by
  unfold State.unseq
  repeat first
    | with_reducible assumption | with_reducible refine Kept.foldl (fun _ _ _ => ?_) ?_ | with_reducible apply State.ack_kept
    | with_reducible apply State.readAck_kept | with_reducible apply State.resend_kept | with_reducible apply State.ahead_kept
    | with_reducible apply Kept.ite | split | dsimp only

end Sys2Proof.Machine
end

