-- ==== Sys2Proof/Laws/KeptMedia.lean ====
section
/-! SUPPORT. `Kept` (Safety.lean) for the operations of the medium, the schedule engine and the regions: each operation keeps what every command must keep. -/

namespace Sys2Proof.Machine

variable {cwr : Prop}

/-! ### Machine/Journal.lean -/

theorem State.addValid_kept {s0 s : State} (h : Kept cwr s0 s) (t : TileId) (n k : Nat) : Kept cwr s0 (State.addValid s t n k) := by
  unfold State.addValid
  repeat first
    | with_reducible assumption | with_reducible apply State.modStratum_kept | dsimp only
    | fail_if_no_progress with_reducible apply Kept.update

theorem State.subValid_kept {s0 s : State} (h : Kept cwr s0 s) (t : TileId) (n k : Nat) : Kept cwr s0 (State.subValid s t n k) := by
  unfold State.subValid
  repeat first
    | with_reducible assumption | with_reducible apply State.modStratum_kept | dsimp only
    | fail_if_no_progress with_reducible apply Kept.update

theorem State.cacheIn_kept {s0 s : State} (h : Kept cwr s0 s) (t : TileId) (page : Nat) (dirty : Bool) : Kept cwr s0 (State.cacheIn s t page dirty) := by
  unfold State.cacheIn
  repeat first
    | with_reducible assumption | with_reducible apply State.modXlt_kept | with_reducible apply Kept.ite | split | dsimp only
    | fail_if_no_progress with_reducible apply Kept.update

theorem State.wantPage_kept {s0 s : State} (h : Kept cwr s0 s) (t : TileId) (page : Nat) : Kept cwr s0 (State.wantPage s t page) := by
  unfold State.wantPage
  repeat first
    | with_reducible assumption | with_reducible apply State.fetchPage_kept | with_reducible apply Kept.ite | split
    | dsimp only

theorem State.dirtyPage_kept {s0 s : State} (h : Kept cwr s0 s) (t : TileId) (page : Nat) : Kept cwr s0 (State.dirtyPage s t page) := by
  unfold State.dirtyPage
  repeat first
    | with_reducible assumption | with_reducible apply State.modXlt_kept | with_reducible apply State.cacheIn_kept | dsimp only
    | fail_if_no_progress with_reducible apply Kept.update

theorem State.setTe_kept {s0 s : State} (h : Kept cwr s0 s) (t : TileId) (tract : Nat) (e : Te) : Kept cwr s0 (State.setTe s t tract e) := by
  unfold State.setTe
  repeat first
    | with_reducible assumption | with_reducible apply State.modXlt_kept | with_reducible apply State.dirtyPage_kept
    | dsimp only | fail_if_no_progress with_reducible apply Kept.update

theorem State.setOvl_kept {s0 s : State} (h : Kept cwr s0 s) (t : TileId) (line : Nat) (v : Option (Option Nat)) : Kept cwr s0 (State.setOvl s t line v) := by
  unfold State.setOvl
  repeat first
    | with_reducible assumption | with_reducible apply State.modXlt_kept | with_reducible apply State.addValid_kept
    | with_reducible apply State.subValid_kept | with_reducible apply Kept.ite | split | dsimp only
    | fail_if_no_progress with_reducible apply Kept.update

theorem State.moveTe_kept {s0 s : State} (h : Kept cwr s0 s) (t : TileId) (tract : Nat) (e : Te) : Kept cwr s0 (State.moveTe s t tract e) := by
  unfold State.moveTe
  repeat first
    | with_reducible assumption | with_reducible apply State.addValid_kept | with_reducible apply State.subValid_kept
    | with_reducible apply State.setTe_kept | with_reducible apply Kept.ite | split | dsimp only

theorem State.freeFrame_kept {s0 s : State} (h : Kept cwr s0 s) (t : TileId) (line ord : Nat) : Kept cwr s0 (State.freeFrame s t line ord) := by
  unfold State.freeFrame
  repeat first
    | with_reducible assumption | with_reducible apply State.modAdm_kept | with_reducible apply Kept.ite | split | dsimp only
    | fail_if_no_progress with_reducible apply Kept.update

theorem State.unpack_kept {s0 s : State} (h : Kept cwr s0 s) (t : TileId) (l : List (Nat × Nat)) : Kept cwr s0 (State.unpack s t l) := by
  unfold State.unpack
  repeat first
    | with_reducible assumption | with_reducible refine Kept.foldl (fun _ _ _ => ?_) ?_
    | with_reducible apply State.modAdm_kept | with_reducible apply Kept.ite | split | dsimp only
    | fail_if_no_progress with_reducible apply Kept.update

theorem State.startFold_kept {s0 s : State} (h : Kept cwr s0 s) (t : TileId) (tract : Nat) : Kept cwr s0 (State.startFold s t tract) := by
  unfold State.startFold
  repeat first
    | with_reducible assumption | with_reducible refine Kept.foldl (fun _ _ _ => ?_) ?_
    | with_reducible apply State.modXlt_kept | with_reducible apply State.bgFetch_kept | with_reducible apply Kept.ite | split
    | dsimp only | fail_if_no_progress with_reducible apply Kept.update

theorem State.displace_kept {s0 s : State} (h : Kept cwr s0 s) (t : TileId) (line : Nat) (w : Nat × Option Nat ⊕ PoisonFrom) : Kept cwr s0 (State.displace s t line w) := by
  unfold State.displace
  repeat first
    | with_reducible assumption | with_reducible apply State.modXlt_kept | with_reducible apply State.xltCnt_kept
    | with_reducible apply State.startFold_kept | with_reducible apply Kept.ite | split | dsimp only
    | fail_if_no_progress with_reducible apply Kept.update

theorem State.foldCount_kept {s0 s : State} (h : Kept cwr s0 s) (t : TileId) (tract : Nat) : Kept cwr s0 (State.foldCount s t tract) := by
  unfold State.foldCount
  repeat first
    | with_reducible assumption | with_reducible apply State.startFold_kept | with_reducible apply Kept.ite | split
    | dsimp only

theorem State.placeEntry_kept {s0 s : State} (h : Kept cwr s0 s) (t : TileId) (line la : Nat) (ord : Option Nat) : Kept cwr s0 (State.placeEntry s t line la ord) := by
  unfold State.placeEntry
  repeat first
    | with_reducible assumption | with_reducible apply State.setOvl_kept | with_reducible apply State.freeFrame_kept
    | with_reducible apply State.displace_kept | with_reducible apply State.foldCount_kept | with_reducible apply Kept.ite
    | split | dsimp only | fail_if_no_progress with_reducible apply Kept.update

theorem State.placePoison_kept {s0 s : State} (h : Kept cwr s0 s) (t : TileId) (line : Nat) (w : PoisonFrom) : Kept cwr s0 (State.placePoison s t line w) := by
  unfold State.placePoison
  repeat first
    | with_reducible assumption | with_reducible apply State.setOvl_kept | with_reducible apply State.freeFrame_kept
    | with_reducible apply State.unpack_kept | with_reducible apply State.displace_kept
    | with_reducible apply State.foldCount_kept | with_reducible apply Kept.ite | split | dsimp only
    | fail_if_no_progress with_reducible apply Kept.update

theorem State.placeDisplaced_kept {s0 s : State} (h : Kept cwr s0 s) (t : TileId) : Kept cwr s0 (State.placeDisplaced s t) := by
  unfold State.placeDisplaced
  repeat first
    | with_reducible assumption | with_reducible refine Kept.foldl (fun _ _ _ => ?_) ?_
    | with_reducible apply State.modXlt_kept | with_reducible apply State.placeEntry_kept
    | with_reducible apply State.placePoison_kept | split | dsimp only | fail_if_no_progress with_reducible apply Kept.update

theorem State.rolled_kept {s0 s : State} (h : Kept cwr s0 s) (t : TileId) (slot : Nat) : Kept cwr s0 (State.rolled s t slot) := by
  unfold State.rolled
  repeat first
    | with_reducible assumption | with_reducible apply State.modAdm_kept | with_reducible apply State.modSec_kept
    | with_reducible apply State.secCnt_kept | with_reducible apply State.rgnCommit_kept | with_reducible apply Kept.ite
    | split | dsimp only | fail_if_no_progress with_reducible apply Kept.update

theorem State.rollAgain_kept {s0 s : State} (h : Kept cwr s0 s) (t : TileId) (slot : Nat) : Kept cwr s0 (State.rollAgain s t slot) := by
  unfold State.rollAgain
  repeat first
    | with_reducible assumption | with_reducible apply State.modSec_kept | dsimp only
    | fail_if_no_progress with_reducible apply Kept.update

theorem State.writeBack_kept {s0 s : State} (h : Kept cwr s0 s) (t : TileId) (key : Nat) (b : BitVec 512) : Kept cwr s0 (State.writeBack s t key b) := by
  unfold State.writeBack
  repeat first
    | with_reducible assumption | with_reducible apply State.modSec_kept | with_reducible apply Kept.ite | split | dsimp only
    | fail_if_no_progress with_reducible apply Kept.update

theorem State.countPacks_kept {s0 s : State} (h : Kept cwr s0 s) (t : TileId) (lines : List Nat) : Kept cwr s0 (State.countPacks s t lines) := by
  unfold State.countPacks
  repeat first
    | with_reducible assumption | with_reducible refine Kept.foldl (fun _ _ _ => ?_) ?_
    | with_reducible apply State.modSec_kept | dsimp only | fail_if_no_progress with_reducible apply Kept.update

theorem State.uncorr_kept {s0 s : State} (h : Kept cwr s0 s) (t : TileId) (cwa : BitVec 34) (lines by_ : Nat) : Kept cwr s0 (State.uncorr s t cwa lines by_) := by
  unfold State.uncorr
  repeat first
    | with_reducible assumption | with_reducible apply State.raise_kept | dsimp only

theorem State.evacEnds_kept {s0 s : State} (h : Kept cwr s0 s) (t : TileId) : Kept cwr s0 (State.evacEnds s t) := by
  unfold State.evacEnds
  repeat first
    | with_reducible assumption | with_reducible apply State.modMed_kept | dsimp only
    | fail_if_no_progress with_reducible apply Kept.update

theorem State.ckptDone_kept {s0 s : State} (h : Kept cwr s0 s) (t : TileId) (page : BitVec 30) : Kept cwr s0 (State.ckptDone s t page) := by
  unfold State.ckptDone
  repeat first
    | with_reducible assumption | with_reducible refine Kept.foldl (fun _ _ _ => ?_) ?_
    | with_reducible apply State.modMedium_kept | with_reducible apply State.modCtl_kept
    | with_reducible apply State.modXlt_kept | with_reducible apply State.commit_kept
    | with_reducible apply State.subValid_kept | with_reducible apply Kept.ite | split | exact fun _ w => w
    | exact fun _ _ => rfl | dsimp only | fail_if_no_progress with_reducible apply Kept.update

theorem State.dropFolds_kept {s0 s : State} (h : Kept cwr s0 s) (t : TileId) (inR : Nat → Bool) : Kept cwr s0 (State.dropFolds s t inR) := by
  unfold State.dropFolds
  repeat first
    | with_reducible assumption | with_reducible apply State.modXlt_kept | with_reducible apply State.modMed_kept
    | with_reducible apply State.modSch_kept | with_reducible apply State.dropFetches_kept
    | with_reducible apply State.unpack_kept | with_reducible apply Kept.ite | split | dsimp only
    | fail_if_no_progress with_reducible apply Kept.update

theorem State.zeroCtrs_kept {s0 s : State} (h : Kept cwr s0 s) (t : TileId) (a b level : Nat) : Kept cwr s0 (State.zeroCtrs s t a b level) := by
  unfold State.zeroCtrs
  repeat first
    | with_reducible assumption | with_reducible refine Kept.foldl (fun _ _ _ => ?_) ?_
    | with_reducible apply State.modXlt_kept | with_reducible apply State.modSec_kept
    | with_reducible apply State.subValid_kept | with_reducible apply Kept.ite | split | dsimp only
    | fail_if_no_progress with_reducible apply Kept.update

theorem State.lostHandled_kept {s0 s : State} (h : Kept cwr s0 s) (t : TileId) (first n : Nat) : Kept cwr s0 (State.lostHandled s t first n) := by
  unfold State.lostHandled
  repeat first
    | with_reducible assumption | with_reducible refine Kept.foldl (fun _ _ _ => ?_) ?_
    | with_reducible apply State.modSec_kept | with_reducible apply State.commit_kept
    | with_reducible apply State.zeroCtrs_kept | with_reducible apply Kept.ite | split | dsimp only
    | fail_if_no_progress with_reducible apply Kept.update

theorem State.applyRec_kept {s0 s : State} (h : Kept cwr s0 s) (t : TileId) (r : JRec) : Kept cwr s0 (State.applyRec s t r) := by
  unfold State.applyRec
  cases r
  all_goals repeat first
    | with_reducible assumption | with_reducible refine Kept.fold3 (fun _ _ _ => ?_) ?_
    | with_reducible refine Kept.foldl (fun _ _ _ => ?_) ?_ | with_reducible apply State.modRgn_kept
    | with_reducible apply State.modXlt_kept | with_reducible apply State.xltCnt_kept
    | with_reducible apply State.modStratum_kept | with_reducible apply State.addValid_kept
    | with_reducible apply State.subValid_kept | with_reducible apply State.dirtyPage_kept
    | with_reducible apply State.setOvl_kept | with_reducible apply State.moveTe_kept
    | with_reducible apply State.freeFrame_kept | with_reducible apply State.unpack_kept
    | with_reducible apply State.placeEntry_kept | with_reducible apply State.placePoison_kept
    | with_reducible apply State.placeDisplaced_kept | with_reducible apply State.rolled_kept
    | with_reducible apply State.rollAgain_kept | with_reducible apply State.writeBack_kept
    | with_reducible apply State.countPacks_kept | with_reducible apply State.evacEnds_kept
    | with_reducible apply State.ckptDone_kept | with_reducible apply State.dropFolds_kept
    | with_reducible apply State.lostHandled_kept | with_reducible apply Kept.ite | split | dsimp only
    | fail_if_no_progress with_reducible apply Kept.update

theorem State.journal_kept {s0 s : State} (h : Kept cwr s0 s) (t : TileId) (r : List JRec) : Kept cwr s0 (State.journal s t r) := by
  unfold State.journal
  repeat first
    | with_reducible assumption | with_reducible apply State.modXlt_kept | dsimp only
    | fail_if_no_progress with_reducible apply Kept.update

theorem State.poisonCw_kept {s0 s : State} (h : Kept cwr s0 s) (t : TileId) (cwa : BitVec 34) (by_ : Nat) : Kept cwr s0 (State.poisonCw s t cwa by_) := by
  unfold State.poisonCw
  repeat first
    | with_reducible assumption | with_reducible apply State.medTcnt_kept | with_reducible apply State.uncorr_kept
    | with_reducible apply State.journal_kept | with_reducible apply Kept.ite | split | dsimp only
    | fail_if_no_progress with_reducible apply Kept.update

/-! ### Machine/Read.lean -/

theorem State.fix_kept {s0 s : State} (h : Kept cwr s0 s) (t : TileId) (cwa : BitVec 34) (p : BitVec 2304) : Kept cwr s0 (State.fix s t cwa p) := by
  unfold State.fix
  repeat first
    | with_reducible assumption | with_reducible apply State.modMed_kept | dsimp only
    | fail_if_no_progress with_reducible apply Kept.update

theorem State.addLost_kept {s0 s : State} (h : Kept cwr s0 s) (t : TileId) (first level : Nat) (cause : BitVec 4) : Kept cwr s0 (State.addLost s t first level cause) := by
  unfold State.addLost
  repeat first
    | with_reducible assumption | with_reducible refine Kept.foldl (fun _ _ _ => ?_) ?_
    | with_reducible apply State.modSec_kept | with_reducible apply State.commit_kept | with_reducible apply State.raise_kept
    | with_reducible apply Kept.ite | split | dsimp only | fail_if_no_progress with_reducible apply Kept.update

theorem State.settleData_kept {s0 s : State} (h : Kept cwr s0 s) (x : SessId) : Kept cwr s0 (State.settleData s x) := by
  unfold State.settleData
  repeat first
    | with_reducible assumption | with_reducible apply State.modSes_kept | with_reducible apply State.flush_kept
    | with_reducible apply Kept.ite | split | dsimp only | fail_if_no_progress with_reducible apply Kept.update

theorem State.outcome_kept {s0 s : State} (h : Kept cwr s0 s) (x : SessId) (seq : Word) (ix : Nat) (ok : Bool) : Kept cwr s0 (State.outcome s x seq ix ok) := by
  unfold State.outcome
  repeat first
    | with_reducible assumption | with_reducible apply State.modSes_kept | with_reducible apply State.settleData_kept
    | with_reducible refine State.draw_kept (e := by assumption) ?_ .. | with_reducible refine State.draw_fin ?_ ..
    | with_reducible apply Kept.ite | split | dsimp only | fail_if_no_progress with_reducible apply Kept.update

theorem State.squall_kept {s0 s : State} (h : Kept cwr s0 s) (x : SessId) : Kept cwr s0 (State.squall s x) := by
  unfold State.squall
  repeat first
    | with_reducible assumption | with_reducible apply State.wait_kept | with_reducible apply State.flush_kept
    | with_reducible apply Kept.ite | split | dsimp only | fail_if_no_progress with_reducible apply Kept.update

theorem State.failPending_kept {s0 s : State} (h : Kept cwr s0 s) (t : TileId) : Kept cwr s0 (State.failPending s t) := by
  unfold State.failPending
  repeat first
    | with_reducible assumption | with_reducible refine Kept.fold3 (fun _ _ _ => ?_) ?_
    | with_reducible refine Kept.foldl (fun _ _ _ => ?_) ?_ | with_reducible apply State.outcome_kept
    | with_reducible apply State.squall_kept | with_reducible apply Kept.ite | split | dsimp only
    | fail_if_no_progress with_reducible apply Kept.update

theorem State.deliverLine_kept {s0 s : State} (h : Kept cwr s0 s) (t : TileId) (id i : Nat) (y : BitVec 2304) (sub : Nat) (retry : Bool) : Kept cwr s0 (State.deliverLine s t id i y sub retry) := by
  unfold State.deliverLine
  repeat first
    | with_reducible assumption | with_reducible apply State.modCell_kept | with_reducible apply State.give_kept
    | with_reducible apply Kept.ite | split | dsimp only | fail_if_no_progress with_reducible apply Kept.update

theorem State.arriveLine_kept {s0 s : State} (h : Kept cwr s0 s) (t : TileId) (id i : Nat) (cwa : BitVec 34) (sub : Nat) (token : Option Word) (p : BitVec 2304) (retry : Bool) : Kept cwr s0 (State.arriveLine s t id i cwa sub token p retry) := by
  unfold State.arriveLine
  repeat first
    | with_reducible assumption | with_reducible apply State.modCell_kept | with_reducible apply State.give_kept
    | with_reducible apply State.execLine_kept | with_reducible apply State.deliverLine_kept | with_reducible apply Kept.ite
    | split | dsimp only | fail_if_no_progress with_reducible apply Kept.update

theorem State.ctrVerified_kept {s0 s : State} (h : Kept cwr s0 s) (t : TileId) (slot : Nat) : Kept cwr s0 (State.ctrVerified s t slot) := by
  unfold State.ctrVerified
  repeat first
    | with_reducible assumption | with_reducible refine Kept.foldl (fun _ _ _ => ?_) ?_
    | with_reducible apply State.modSec_kept | dsimp only | fail_if_no_progress with_reducible apply Kept.update

theorem State.rebuildNow_kept {s0 s : State} (h : Kept cwr s0 s) (t : TileId) (cwa : BitVec 34) (o : Owner) : Kept cwr s0 (State.rebuildNow s t cwa o) := by
  unfold State.rebuildNow
  repeat first
    | with_reducible assumption | with_reducible apply State.newFetch_kept | with_reducible apply State.startRebuild_kept
    | dsimp only

theorem State.lineOutcome_kept {s0 s : State} (h : Kept cwr s0 s) (t : TileId) (pl : PartLine) (ok : Bool) : Kept cwr s0 (State.lineOutcome s t pl ok) := by
  unfold State.lineOutcome
  repeat first
    | with_reducible assumption | with_reducible apply State.modCell_kept | with_reducible apply State.release_kept
    | with_reducible apply State.execLine_kept | with_reducible apply State.serveWaiting_kept
    | with_reducible apply State.outcome_kept | with_reducible apply Kept.ite | split | dsimp only
    | fail_if_no_progress with_reducible apply Kept.update

theorem State.failLine_kept {s0 s : State} (h : Kept cwr s0 s) (t : TileId) (pl : PartLine) (how : Nat) : Kept cwr s0 (State.failLine s t pl how) := by
  unfold State.failLine
  repeat first
    | with_reducible assumption | with_reducible apply State.secCnt_kept | with_reducible apply State.raise_kept
    | with_reducible apply State.pmc_kept | with_reducible apply State.lineOutcome_kept | split | dsimp only
    | fail_if_no_progress with_reducible apply Kept.update

theorem State.loseObject_kept {s0 s : State} (h : Kept cwr s0 s) (t : TileId) (key : Nat) (cause : BitVec 4) : Kept cwr s0 (State.loseObject s t key cause) := by
  unfold State.loseObject
  repeat first
    | with_reducible assumption | with_reducible apply State.addLost_kept | dsimp only

theorem State.treeFails_kept {s0 s : State} (h : Kept cwr s0 s) (t : TileId) (key : Nat) : Kept cwr s0 (State.treeFails s t key) := by
  unfold State.treeFails
  repeat first
    | with_reducible assumption | with_reducible refine Kept.foldl (fun _ _ _ => ?_) ?_
    | with_reducible apply State.modSec_kept | with_reducible apply State.rebuildNow_kept
    | with_reducible apply State.failLine_kept | with_reducible apply State.loseObject_kept | with_reducible apply Kept.ite
    | split | dsimp only | fail_if_no_progress with_reducible apply Kept.update

theorem State.repaired_kept {s0 s : State} (h : Kept cwr s0 s) (t : TileId) (key : Nat) (cwa : BitVec 34) (p : Option (BitVec 2304)) : Kept cwr s0 (State.repaired s t key cwa p) := by
  unfold State.repaired
  repeat first
    | with_reducible assumption | with_reducible apply State.modSec_kept | with_reducible apply State.fix_kept
    | with_reducible apply State.loseObject_kept | with_reducible apply Kept.ite | split | dsimp only
    | fail_if_no_progress with_reducible apply Kept.update

theorem State.readAgain_kept {s0 s : State} (h : Kept cwr s0 s) (t : TileId) (id : Nat) (ix : List Nat) : Kept cwr s0 (State.readAgain s t id ix) := by
  unfold State.readAgain
  repeat first
    | with_reducible assumption | with_reducible apply State.modAdm_kept | with_reducible apply State.xltCnt_kept
    | with_reducible apply State.modCell_kept | with_reducible apply State.serveCell_kept | with_reducible apply Kept.ite
    | split | dsimp only | fail_if_no_progress with_reducible apply Kept.update

theorem State.ctrFetched_kept {s0 s : State} (h : Kept cwr s0 s) (t : TileId) (slot : Nat) : Kept cwr s0 (State.ctrFetched s t slot) := by
  unfold State.ctrFetched
  repeat first
    | with_reducible assumption | with_reducible refine Kept.foldl (fun _ _ _ => ?_) ?_
    | with_reducible apply State.modSec_kept | with_reducible apply State.dropFetches_kept
    | with_reducible apply State.deliverLine_kept | with_reducible apply State.ctrVerified_kept
    | with_reducible apply State.treeFails_kept | with_reducible apply State.readAgain_kept | with_reducible apply Kept.ite
    | split | dsimp only | fail_if_no_progress with_reducible apply Kept.update

theorem State.ctrLost_kept {s0 s : State} (h : Kept cwr s0 s) (t : TileId) (slot : Nat) (cause : BitVec 4) : Kept cwr s0 (State.ctrLost s t slot cause) := by
  unfold State.ctrLost
  repeat first
    | with_reducible assumption | with_reducible refine Kept.foldl (fun _ _ _ => ?_) ?_
    | with_reducible apply State.modSec_kept | with_reducible apply State.give_kept | with_reducible apply State.execLine_kept
    | with_reducible apply State.addLost_kept | with_reducible apply Kept.ite | split | dsimp only
    | fail_if_no_progress with_reducible apply Kept.update

theorem State.mapFetched_kept {s0 s : State} (h : Kept cwr s0 s) (t : TileId) (page : Nat) : Kept cwr s0 (State.mapFetched s t page) := by
  unfold State.mapFetched
  repeat first
    | with_reducible assumption | with_reducible refine Kept.foldl (fun _ _ _ => ?_) ?_
    | with_reducible apply State.modAdm_kept | with_reducible apply State.modXlt_kept | with_reducible apply State.modCell_kept
    | with_reducible apply State.bgFetch_kept | with_reducible apply State.wantNode_kept
    | with_reducible apply State.serveCell_kept | with_reducible apply State.dropFetches_kept
    | with_reducible apply State.cacheIn_kept | with_reducible apply State.ctrFetched_kept | with_reducible apply Kept.ite
    | split | dsimp only | fail_if_no_progress with_reducible apply Kept.update

theorem State.mapLost_kept {s0 s : State} (h : Kept cwr s0 s) (t : TileId) (page : BitVec 30) : Kept cwr s0 (State.mapLost s t page) := by
  unfold State.mapLost
  repeat first
    | with_reducible assumption | with_reducible apply State.modCtl_kept | with_reducible apply State.modMed_kept
    | with_reducible apply State.raise_kept | dsimp only | fail_if_no_progress with_reducible apply Kept.update

theorem State.mapUnreadable_kept {s0 s : State} (h : Kept cwr s0 s) (t : TileId) (cwa : BitVec 34) : Kept cwr s0 (State.mapUnreadable s t cwa) := by
  unfold State.mapUnreadable
  repeat first
    | with_reducible assumption | with_reducible refine Kept.foldl (fun _ _ _ => ?_) ?_
    | with_reducible apply State.modXlt_kept | with_reducible apply State.addLost_kept
    | with_reducible apply State.mapLost_kept | with_reducible apply Kept.ite | split | dsimp only
    | fail_if_no_progress with_reducible apply Kept.update

theorem State.pulled_kept {s0 s : State} (h : Kept cwr s0 s) (t : TileId) (slot : Nat) (cwa : BitVec 34) (ok : Bool) : Kept cwr s0 (State.pulled s t slot cwa ok) := by
  unfold State.pulled
  repeat first
    | with_reducible assumption | with_reducible refine Kept.foldl (fun _ _ _ => ?_) ?_
    | with_reducible apply State.modAdm_kept | with_reducible apply State.modSec_kept | with_reducible apply State.bgFetch_kept
    | with_reducible apply State.poisonCw_kept | with_reducible apply Kept.ite | split | dsimp only
    | fail_if_no_progress with_reducible apply Kept.update

theorem State.bgRead_kept {s0 s : State} (h : Kept cwr s0 s) (t : TileId) (o : Owner) (cwa : BitVec 34) (ok : Bool) : Kept cwr s0 (State.bgRead s t o cwa ok) := by
  unfold State.bgRead
  repeat first
    | with_reducible assumption | with_reducible apply State.modCtl_kept | with_reducible apply State.modXlt_kept
    | with_reducible apply State.modMed_kept | with_reducible apply State.modDie_kept
    | with_reducible apply State.poisonCw_kept | with_reducible apply State.mapUnreadable_kept
    | with_reducible apply State.pulled_kept | with_reducible apply Kept.ite | split | dsimp only
    | fail_if_no_progress with_reducible apply Kept.update

theorem State.endRead_kept {s0 s : State} (h : Kept cwr s0 s) (t : TileId) (fid : Nat) (f : Fetch) (p : Option (BitVec 2304)) : Kept cwr s0 (State.endRead s t fid f p) := by
  unfold State.endRead
  repeat first
    | with_reducible assumption | with_reducible refine Kept.foldl (fun _ _ _ => ?_) ?_
    | with_reducible apply State.modSec_kept | with_reducible apply State.medCcnt_kept
    | with_reducible apply State.modStratum_kept | with_reducible apply State.setFetch_kept
    | with_reducible apply State.give_kept | with_reducible apply State.stage_kept | with_reducible apply State.execLine_kept
    | with_reducible apply State.dropFetches_kept | with_reducible apply State.uncorr_kept
    | with_reducible apply State.journal_kept | with_reducible apply State.poisonCw_kept | with_reducible apply State.fix_kept
    | with_reducible apply State.arriveLine_kept | with_reducible apply State.loseObject_kept
    | with_reducible apply State.treeFails_kept | with_reducible apply State.repaired_kept
    | with_reducible apply State.readAgain_kept | with_reducible apply State.ctrFetched_kept
    | with_reducible apply State.ctrLost_kept | with_reducible apply State.mapFetched_kept
    | with_reducible apply State.mapLost_kept | with_reducible apply State.bgRead_kept | with_reducible apply Kept.ite | split
    | dsimp only | fail_if_no_progress with_reducible apply Kept.update

theorem State.decoded_kept {s0 s : State} (h : Kept cwr s0 s) (t : TileId) (fid : Nat) (ok : Bool) : Kept cwr s0 (State.decoded s t fid ok) := by
  unfold State.decoded
  repeat first
    | with_reducible assumption | with_reducible apply State.modMed_kept | with_reducible apply State.medCcnt_kept
    | with_reducible apply State.modDie_kept | with_reducible apply State.setFetch_kept
    | with_reducible apply State.startRebuild_kept | with_reducible apply State.stage_kept
    | with_reducible apply State.endRead_kept | with_reducible apply Kept.ite | split | dsimp only
    | fail_if_no_progress with_reducible apply Kept.update

theorem State.rebuilt_kept {s0 s : State} (h : Kept cwr s0 s) (t : TileId) (fid : Nat) : Kept cwr s0 (State.rebuilt s t fid) := by
  unfold State.rebuilt
  repeat first
    | with_reducible assumption | with_reducible apply State.stage_kept | with_reducible apply State.endRead_kept
    | with_reducible apply Kept.ite | split | dsimp only | fail_if_no_progress with_reducible apply Kept.update

theorem State.checked_kept {s0 s : State} (h : Kept cwr s0 s) (t : TileId) (pl : PartLine) (ok : Bool) (how : Nat) : Kept cwr s0 (State.checked s t pl ok how) := by
  unfold State.checked
  repeat first
    | with_reducible assumption | with_reducible apply State.modSec_kept | with_reducible apply State.rebuildNow_kept
    | with_reducible apply State.lineOutcome_kept | with_reducible apply State.failLine_kept
    | with_reducible apply State.treeFails_kept | with_reducible apply Kept.ite | split | dsimp only
    | fail_if_no_progress with_reducible apply Kept.update

theorem State.checks_kept {s0 s : State} (h : Kept cwr s0 s) (t : TileId) (pl : PartLine) (tagOk treeOk : Bool) : Kept cwr s0 (State.checks s t pl tagOk treeOk) := by
  unfold State.checks
  repeat first
    | with_reducible assumption | with_reducible apply State.ctrVerified_kept | with_reducible apply State.checked_kept
    | with_reducible apply Kept.ite | split | dsimp only | fail_if_no_progress with_reducible apply Kept.update

theorem State.merged_kept {s0 s : State} (h : Kept cwr s0 s) (t : TileId) (pl : PartLine) : Kept cwr s0 (State.merged s t pl) := by
  unfold State.merged
  repeat first
    | with_reducible assumption | with_reducible apply State.execLine_kept | with_reducible apply State.setSpan_kept
    | with_reducible apply State.serveWaiting_kept | split | dsimp only | fail_if_no_progress with_reducible apply Kept.update

/-! ### Machine/Pack.lean -/

theorem State.openStratum_kept {s0 s : State} (h : Kept cwr s0 s) (t : TileId) (n : Nat) (stream : Stream) : Kept cwr s0 (State.openStratum s t n stream) := by
  unfold State.openStratum
  repeat first
    | with_reducible assumption | with_reducible apply State.modStratum_kept | with_reducible apply Kept.ite | split
    | dsimp only

theorem State.sealPlaces_fin {s0 s : State} (h : Kept cwr s0 s) (t : TileId) (places : List (Option (Nat × Nat))) : Kept cwr s0 (State.sealPlaces s t places).2 := by
  unfold State.sealPlaces
  repeat first
    | with_reducible assumption | with_reducible refine Kept.foldl (fun _ _ _ => ?_) ?_
    | with_reducible apply State.modAdm_kept | with_reducible apply State.bumpMinor_kept | with_reducible apply Kept.ite
    | split | dsimp only | fail_if_no_progress with_reducible apply Kept.update

theorem State.sealPlaces_kept {s0 s s' : State} {l : List (BitVec 2304)} (h : Kept cwr s0 s) (t : TileId) (places : List (Option (Nat × Nat))) (e : State.sealPlaces s t places = (l, s')) : Kept cwr s0 s' := by
  have g := State.sealPlaces_fin h t places
  rw [e] at g
  exact g

theorem State.poisonStaged_kept {s0 s : State} (h : Kept cwr s0 s) (t : TileId) : Kept cwr s0 (State.poisonStaged s t) := by
  unfold State.poisonStaged
  repeat first
    | with_reducible assumption | with_reducible apply State.modAdm_kept | with_reducible apply State.journal_kept
    | with_reducible apply Kept.ite | split | dsimp only | fail_if_no_progress with_reducible apply Kept.update

theorem State.prepPack_kept {s0 s : State} (h : Kept cwr s0 s) (t : TileId) : Kept cwr s0 (State.prepPack s t) := by
  unfold State.prepPack
  repeat first
    | with_reducible assumption | with_reducible refine Kept.foldl (fun _ _ _ => ?_) ?_
    | with_reducible apply State.wantCtr_kept | with_reducible apply State.wantPage_kept | dsimp only

theorem State.drainPage_kept {s0 s s' : State} {j : PageJob} (h : Kept cwr s0 s) (t : TileId) (part : Bool) (edge : List (Nat × Nat)) (e_ : State.drainPage s t part edge = some (j, s')) : Kept cwr s0 s' := by
  unfold State.drainPage at e_
  dsimp only at e_
  repeat' split at e_
  all_goals cases e_
  all_goals repeat first
    | with_reducible assumption | with_reducible refine State.sealPlaces_kept (e := by assumption) ?_ ..
    | with_reducible refine State.sealPlaces_fin ?_ .. | with_reducible apply Kept.ite | split | dsimp only
    | fail_if_no_progress with_reducible apply Kept.update

theorem State.drainPages_fin {s0 s : State} (h : Kept cwr s0 s) (n : Nat) (t : TileId) (part : Bool) (edge : List (Nat × Nat)) :
    Kept cwr s0 (State.drainPages n s t part edge).2 := by
  induction n generalizing s with
  | zero => exact h
  | succ n ih =>
    unfold State.drainPages
    split
    · dsimp only
      exact State.modXlt_kept (ih (State.modXlt_kept (State.drainPage_kept h _ _ _ (by assumption)) _ _)) _ _
    · exact h

theorem State.drainPages_kept {s0 s s' : State} {l : List PageJob} (h : Kept cwr s0 s) (n : Nat) (t : TileId) (part : Bool)
    (edge : List (Nat × Nat)) (e : State.drainPages n s t part edge = (l, s')) : Kept cwr s0 s' := by
  have g := State.drainPages_fin h n t part edge
  rw [e] at g
  exact g

theorem State.tableBytes_fin {s0 s : State} (h : Kept cwr s0 s) (t : TileId) (spans : Tab Bool) (k : Nat) : Kept cwr s0 (State.tableBytes s t spans k).2 := by
  unfold State.tableBytes
  repeat first
    | with_reducible assumption | with_reducible refine State.draw_kept (e := by assumption) ?_ ..
    | with_reducible refine State.draw_fin ?_ .. | with_reducible apply Kept.ite | split | dsimp only

theorem State.tableBytes_kept {s0 s s' : State} {l : List Byte} (h : Kept cwr s0 s) (t : TileId) (spans : Tab Bool) (k : Nat) (e : State.tableBytes s t spans k = (l, s')) : Kept cwr s0 s' := by
  have g := State.tableBytes_fin h t spans k
  rw [e] at g
  exact g

theorem State.mapCws_fin {s0 s : State} (h : Kept cwr s0 s) (b : List Byte) : Kept cwr s0 (State.mapCws s b).2 := by
  unfold State.mapCws
  repeat first
    | with_reducible assumption | with_reducible refine State.draw_kept (e := by assumption) ?_ ..
    | with_reducible refine State.draw_fin ?_ .. | split | dsimp only

theorem State.mapCws_kept {s0 s s' : State} {l : List (BitVec 2304)} (h : Kept cwr s0 s) (b : List Byte) (e : State.mapCws s b = (l, s')) : Kept cwr s0 s' := by
  have g := State.mapCws_fin h b
  rw [e] at g
  exact g

theorem State.ctrPageCws_fin {s0 s : State} (h : Kept cwr s0 s) (t : TileId) (page : Nat) : Kept cwr s0 (State.ctrPageCws s t page).2.2 := by
  unfold State.ctrPageCws
  repeat first
    | with_reducible assumption | with_reducible refine State.draw_kept (e := by assumption) ?_ ..
    | with_reducible refine State.draw_fin ?_ .. | with_reducible apply Kept.ite | split | dsimp only

theorem State.ctrPageCws_kept {s0 s s' : State} {o : List (Nat × BitVec 512)} {l : List (BitVec 2304)} (h : Kept cwr s0 s) (t : TileId) (page : Nat) (e : State.ctrPageCws s t page = (o, l, s')) : Kept cwr s0 s' := by
  have g := State.ctrPageCws_fin h t page
  rw [e] at g
  exact g

theorem State.formItem_fin {s0 s : State} (h : Kept cwr s0 s) (t : TileId) (page : Nat) (gc : Bool) : Kept cwr s0 (State.formItem s t page gc).2 := by
  unfold State.formItem
  repeat first
    | with_reducible assumption | with_reducible refine State.mapCws_kept (e := by assumption) ?_ ..
    | with_reducible refine State.ctrPageCws_kept (e := by assumption) ?_ .. | with_reducible refine State.mapCws_fin ?_ ..
    | with_reducible refine State.ctrPageCws_fin ?_ .. | with_reducible apply Kept.ite | split | dsimp only

theorem State.formItem_kept {s0 s s' : State} {j : PageJob} (h : Kept cwr s0 s) (t : TileId) (page : Nat) (gc : Bool) (e : State.formItem s t page gc = (j, s')) : Kept cwr s0 s' := by
  have g := State.formItem_fin h t page gc
  rw [e] at g
  exact g

theorem State.wantWriteBack_kept {s0 s : State} (h : Kept cwr s0 s) (t : TileId) (page : Nat) : Kept cwr s0 (State.wantWriteBack s t page) := by
  unfold State.wantWriteBack
  repeat first
    | with_reducible assumption | with_reducible refine Kept.foldl (fun _ _ _ => ?_) ?_
    | with_reducible apply State.wantNode_kept | with_reducible apply State.wantPage_kept | with_reducible apply Kept.ite
    | split | dsimp only

theorem State.formJournal_kept {s0 s s' : State} {j : PageJob} (h : Kept cwr s0 s) (t : TileId) (e : State) (e_ : State.formJournal s t e = some (j, s')) : Kept cwr s0 s' := by
  unfold State.formJournal at e_
  dsimp only at e_
  repeat' split at e_
  all_goals cases e_
  all_goals repeat first
    | with_reducible assumption | with_reducible apply State.modXlt_kept | with_reducible apply State.journal_kept
    | with_reducible refine State.draw_kept (e := by assumption) ?_ ..
    | with_reducible refine State.mapCws_kept (e := by assumption) ?_ .. | with_reducible refine State.draw_fin ?_ ..
    | with_reducible refine State.mapCws_fin ?_ .. | with_reducible apply Kept.ite | split | dsimp only
    | fail_if_no_progress with_reducible apply Kept.update

theorem State.formTable_kept {s0 s s' : State} {j : PageJob} (h : Kept cwr s0 s) (t : TileId) (e_ : State.formTable s t = some (j, s')) : Kept cwr s0 s' := by
  unfold State.formTable at e_
  dsimp only at e_
  repeat' split at e_
  all_goals cases e_
  all_goals repeat first
    | with_reducible assumption | with_reducible apply State.modXlt_kept
    | with_reducible refine State.tableBytes_kept (e := by assumption) ?_ ..
    | with_reducible refine State.mapCws_kept (e := by assumption) ?_ .. | with_reducible refine State.tableBytes_fin ?_ ..
    | with_reducible refine State.mapCws_fin ?_ .. | with_reducible apply Kept.ite | split | dsimp only
    | fail_if_no_progress with_reducible apply Kept.update

theorem State.formWaiting_kept {s0 s s' : State} {j : PageJob} (h : Kept cwr s0 s) (t : TileId) (e : State)
    (e_ : s.formWaiting t e = some (j, s')) : Kept cwr s0 s' := by
  unfold State.formWaiting at e_
  dsimp only at e_
  split at e_
  · cases e_
  · split at e_
    · exact State.formItem_kept (State.modXlt_kept h _ _) _ _ _ (Option.some.inj e_)
    · cases e_
      exact State.modXlt_kept h _ _
    · cases e_
      exact State.mapCws_fin (State.tableBytes_fin (State.modXlt_kept h _ _) _ _ _) _
    · cases e_
      exact State.modXlt_kept h _ _

theorem State.formDirty_kept {s0 s s' : State} {j : PageJob} (h : Kept cwr s0 s) (t : TileId) (e : State)
    (e_ : s.formDirty t e = some (j, s')) : Kept cwr s0 s' := by
  obtain ⟨p, -, g⟩ := Option.map_eq_some_iff.1 e_
  exact State.formItem_kept h _ _ _ g

theorem State.mapWork_fin {s0 s : State} (h : Kept cwr s0 s) (n : Nat) (t : TileId) (e : State) : Kept cwr s0 (State.mapWork n s t e).2 := by
  induction n generalizing s with
  | zero => exact h
  | succ n ih =>
    unfold State.mapWork
    split
    · exact h
    · rename_i j s1 e1
      dsimp only
      refine State.modXlt_kept (ih (State.modXlt_kept ?_ _ _)) _ _
      simp only [Option.or_eq_some_iff] at e1
      rcases e1 with e1 | ⟨-, e1 | ⟨-, e1 | ⟨-, e1⟩⟩⟩
      · exact State.formJournal_kept h _ _ e1
      · exact State.formWaiting_kept h _ _ e1
      · exact State.formDirty_kept h _ _ e1
      · exact State.formTable_kept h _ e1

theorem State.mapWork_kept {s0 s s' : State} {l : List PageJob} (h : Kept cwr s0 s) (n : Nat) (t : TileId) (e : State)
    (e_ : State.mapWork n s t e = (l, s')) : Kept cwr s0 s' := by
  have g := State.mapWork_fin h n t e
  rw [e_] at g
  exact g

theorem State.bindAt_fin {s0 s : State} (h : Kept cwr s0 s) (t : TileId) (n c : Nat) (stream : Stream) (pages : List PageJob) : Kept cwr s0 (State.bindAt s t n c stream pages).2 := by
  unfold State.bindAt
  repeat first
    | with_reducible assumption | with_reducible apply State.modStratum_kept | with_reducible apply State.openStratum_kept
    | dsimp only | fail_if_no_progress with_reducible apply Kept.update

theorem State.bindAt_kept {s0 s s' : State} {g : Prog} (h : Kept cwr s0 s) (t : TileId) (n c : Nat) (stream : Stream) (pages : List PageJob) (e : State.bindAt s t n c stream pages = (g, s')) : Kept cwr s0 s' := by
  have g := State.bindAt_fin h t n c stream pages
  rw [e] at g
  exact g

theorem State.bindDrain_kept {s0 s s' : State} {g : Prog} (h : Kept cwr s0 s) (t : TileId) (c d : Nat) (e : State)
    (e_ : s.bindDrain t c d e = some (g, s')) : Kept cwr s0 s' := by
  unfold State.bindDrain at e_
  dsimp only at e_
  split at e_
  · cases e_
  · split at e_
    · exact State.bindAt_kept (State.drainPages_fin h ..) _ _ _ _ _ (Option.some.inj e_)
    · cases e_

theorem State.bindBg_kept {s0 s s' : State} {g : Prog} (h : Kept cwr s0 s) (t : TileId) (c d : Nat) (e : State)
    (e_ : s.bindBg t c d e = some (g, s')) : Kept cwr s0 s' := by
  unfold State.bindBg at e_
  obtain ⟨st, -, e_⟩ := List.exists_of_findSome?_eq_some e_
  obtain ⟨n, -, e_⟩ := Option.map_eq_some_iff.1 e_
  exact State.bindAt_kept (State.modXlt_kept h _ _) _ _ _ _ _ e_

theorem State.bindMap_kept {s0 s s' : State} {g : Prog} (h : Kept cwr s0 s) (t : TileId) (c d : Nat) (e : State)
    (e_ : s.bindMap t c d e = some (g, s')) : Kept cwr s0 s' := by
  unfold State.bindMap at e_
  dsimp only at e_
  split at e_
  · cases e_
  · split at e_
    · cases e_
    · exact State.bindAt_kept (State.mapWork_fin h ..) _ _ _ _ _ (Option.some.inj e_)

theorem State.skipRows_kept {s0 s : State} (h : Kept cwr s0 s) (t : TileId) (n c : Nat) : Kept cwr s0 (State.skipRows s t n c) := by
  unfold State.skipRows
  repeat first
    | with_reducible assumption | with_reducible refine Kept.foldl (fun _ _ _ => ?_) ?_
    | with_reducible apply State.modStratum_kept | with_reducible apply Kept.ite | split | dsimp only
    | fail_if_no_progress with_reducible apply Kept.update

theorem State.bindParity_kept {s0 s s' : State} {g : Prog} (h : Kept cwr s0 s) (t : TileId) (c d : Nat)
    (e_ : s.bindParity t c d = some (g, s')) : Kept cwr s0 s' := by
  unfold State.bindParity at e_
  extract_lets mine s1 at e_
  have h1 : Kept cwr s0 s1 := Kept.foldl (fun _ _ g => State.skipRows_kept g ..) h
  clear_value s1
  split at e_
  · cases e_
  · obtain ⟨-, rfl⟩ := Prod.mk.inj (Option.some.inj e_)
    exact State.modStratum_kept h1 ..

theorem State.bindCarry_kept {s0 s s' : State} {j : Prog} (h : Kept cwr s0 s) (t : TileId) (c d : Nat) (e_ : State.bindCarry s t c d = some (j, s')) : Kept cwr s0 s' := by
  unfold State.bindCarry at e_
  dsimp only at e_
  repeat' split at e_
  all_goals cases e_
  all_goals repeat first
    | with_reducible assumption | with_reducible apply State.modDie_kept | with_reducible apply Kept.ite | split | dsimp only
    | fail_if_no_progress with_reducible apply Kept.update

theorem State.rollProgrammed_kept {s0 s : State} (h : Kept cwr s0 s) (t : TileId) (slot tract : Nat) (addr : BitVec 30) (ords : List (Nat × Nat)) : Kept cwr s0 (State.rollProgrammed s t slot tract addr ords) := by
  unfold State.rollProgrammed
  repeat first
    | with_reducible assumption | with_reducible apply State.modSec_kept | with_reducible apply State.journal_kept
    | with_reducible apply Kept.ite | split | dsimp only | fail_if_no_progress with_reducible apply Kept.update

theorem State.applyAll_kept {s0 s : State} (h : Kept cwr s0 s) (t : TileId) (rs : List JRec) : Kept cwr s0 (State.applyAll s t rs) := by
  unfold State.applyAll
  repeat first
    | with_reducible assumption | with_reducible refine Kept.foldl (fun _ _ _ => ?_) ?_
    | with_reducible apply State.modXlt_kept | with_reducible apply State.applyRec_kept | dsimp only
    | fail_if_no_progress with_reducible apply Kept.update

theorem State.sealStratum_kept {s0 s : State} (h : Kept cwr s0 s) (t : TileId) (n : Nat) : Kept cwr s0 (State.sealStratum s t n) := by
  unfold State.sealStratum
  repeat first
    | with_reducible assumption | with_reducible apply State.modXlt_kept | with_reducible apply State.modStratum_kept
    | dsimp only | fail_if_no_progress with_reducible apply Kept.update

theorem State.sealIfFull_kept {s0 s : State} (h : Kept cwr s0 s) (t : TileId) (n : Nat) : Kept cwr s0 (State.sealIfFull s t n) := by
  unfold State.sealIfFull
  repeat first
    | with_reducible assumption | with_reducible apply State.sealStratum_kept | with_reducible apply Kept.ite | split
    | dsimp only

theorem State.pageDone_kept {s0 s : State} (h : Kept cwr s0 s) (t : TileId) (addr : BitVec 30) (j : PageJob) : Kept cwr s0 (State.pageDone s t addr j) := by
  unfold State.pageDone
  repeat first
    | with_reducible assumption | with_reducible apply State.modMedium_kept | with_reducible apply State.modXlt_kept
    | with_reducible apply State.modStratum_kept | with_reducible apply State.addValid_kept
    | with_reducible apply State.subValid_kept | with_reducible apply State.journal_kept
    | with_reducible apply State.rollProgrammed_kept | with_reducible apply State.applyAll_kept | with_reducible apply Kept.ite
    | split | exact fun _ w => w | exact fun _ _ => rfl | dsimp only | fail_if_no_progress with_reducible apply Kept.update

theorem Tab.rising_fold {α β : Type} {f : Tab α → β → Tab α} (hf : ∀ m b, Tab.rising none m = true → Tab.rising none (f m b) = true)
    (l : List β) {m : Tab α} (h : Tab.rising none m = true) : Tab.rising none (l.foldl f m) = true := by
  induction l generalizing m with
  | nil => exact h
  | cons b l ih => exact ih (hf m b h)

theorem State.progDone_kept {s0 s : State} (h : Kept cwr s0 s) (hw : cwr) (t : TileId) (c d : Nat) (g : Prog) :
    Kept cwr s0 (s.progDone t c d g) := by
  unfold State.progDone
  extract_lets s1 put s2 s3 s4
  have h1 : Kept cwr s0 s1 := State.modDie_kept h ..
  have h2 : Kept cwr s0 s2 := State.modMedium_kept h1 _ (fun m w => by
    simp only [Medium.wf, Bool.and_eq_true] at w ⊢
    exact ⟨Tab.rising_fold (fun _ _ g => by exact Tab.rising_fold (fun _ _ g => Tab.rising_ins g (by simp)) _ g) _ w.1, w.2⟩)
    fun n => absurd hw n
  have h3 : Kept cwr s0 s3 := State.modStratum_kept h2 ..
  have h4 : Kept cwr s0 s4 := Kept.foldl (fun _ _ g => by
    split
    · exact g
    · exact State.pageDone_kept g ..) h3
  exact Kept.ite h1 (State.sealIfFull_kept h4 ..)

/-! ### Machine/Sched.lean -/

theorem State.requeue_kept {s0 s : State} (h : Kept cwr s0 s) (t : TileId) (j : PageJob) : Kept cwr s0 (s.requeue t j) := by
  rcases j with ⟨stream, content, cws, lull, rekey, gc⟩
  rcases content with _ | ⟨_, _, _ | _⟩ | _ | _ | _ | _ | _ | _ | _ | _ | _ | _
  all_goals dsimp only [State.requeue]
  all_goals first
    | with_reducible exact h
    | with_reducible exact State.unpack_kept h ..
    | with_reducible exact State.modXlt_kept h ..
    | exact Kept.ite (State.modXlt_kept h ..) h

theorem State.carryAgain_kept {s0 s : State} (h : Kept cwr s0 s) (t : TileId) (c : Nat) (g : Prog) : Kept cwr s0 (State.carryAgain s t c g) := by
  unfold State.carryAgain
  repeat first
    | with_reducible assumption | with_reducible apply State.modDie_kept | dsimp only
    | fail_if_no_progress with_reducible apply Kept.update

theorem State.unbind_kept {s0 s : State} (h : Kept cwr s0 s) (t : TileId) (c : Nat) (g : Prog) : Kept cwr s0 (State.unbind s t c g) := by
  unfold State.unbind
  repeat first
    | with_reducible assumption | with_reducible refine Kept.foldl (fun _ _ _ => ?_) ?_
    | with_reducible apply State.modStratum_kept | with_reducible apply State.requeue_kept
    | with_reducible apply State.carryAgain_kept | with_reducible apply Kept.ite | split | dsimp only
    | fail_if_no_progress with_reducible apply Kept.update

theorem State.abandon_kept {s0 s : State} (h : Kept cwr s0 s) (t : TileId) (c : Nat) (g : Prog) : Kept cwr s0 (State.abandon s t c g) := by
  unfold State.abandon
  repeat first
    | with_reducible assumption | with_reducible refine Kept.foldl (fun _ _ _ => ?_) ?_
    | with_reducible apply State.modStratum_kept | with_reducible apply State.sealIfFull_kept
    | with_reducible apply State.requeue_kept | with_reducible apply State.carryAgain_kept | with_reducible apply Kept.ite
    | split | dsimp only | fail_if_no_progress with_reducible apply Kept.update

theorem State.observe_kept {s0 s : State} (h : Kept cwr s0 s) (t : TileId) (fid : Nat) : Kept cwr s0 (State.observe s t fid) := by
  unfold State.observe
  repeat first
    | with_reducible assumption | with_reducible refine Kept.foldl (fun _ _ _ => ?_) ?_
    | with_reducible apply State.modSch_kept | with_reducible apply State.modCell_kept | with_reducible apply State.give_kept
    | with_reducible apply State.serveCell_kept | with_reducible apply Kept.ite | split | dsimp only
    | fail_if_no_progress with_reducible apply Kept.update

theorem State.command_kept {s0 s : State} (h : Kept cwr s0 s) (t : TileId) (c d : Nat) : Kept cwr s0 (State.command s t c d) := by
  unfold State.command
  repeat first
    | with_reducible assumption | with_reducible apply State.modDie_kept | with_reducible apply Kept.ite | split | dsimp only
    | fail_if_no_progress with_reducible apply Kept.update

theorem State.opIssued_kept {s0 s : State} (h : Kept cwr s0 s) (t : TileId) (f : Fetch) : Kept cwr s0 (State.opIssued s t f) := by
  unfold State.opIssued
  repeat first
    | with_reducible assumption | with_reducible refine Kept.foldl (fun _ _ _ => ?_) ?_
    | with_reducible apply State.schCnt_kept | with_reducible apply State.modCell_kept | with_reducible apply Kept.ite | split
    | dsimp only | fail_if_no_progress with_reducible apply Kept.update

theorem State.issueRead_kept {s0 s : State} (h : Kept cwr s0 s) (t : TileId) (c d n : Nat) (f : Fetch) (win : Nat) : Kept cwr s0 (State.issueRead s t c d n f win) := by
  unfold State.issueRead
  repeat first
    | with_reducible assumption | with_reducible refine Kept.foldl (fun _ _ _ => ?_) ?_
    | with_reducible apply State.modAdm_kept | with_reducible apply State.setFetch_kept | with_reducible apply State.stage_kept
    | with_reducible apply State.observe_kept | with_reducible apply State.command_kept
    | with_reducible apply State.opIssued_kept | with_reducible apply Kept.ite | split | dsimp only
    | fail_if_no_progress with_reducible apply Kept.update

theorem State.waive_kept {s0 s : State} (h : Kept cwr s0 s) (t : TileId) : Kept cwr s0 (State.waive s t) := by
  unfold State.waive
  repeat first
    | with_reducible assumption | with_reducible apply State.modAdm_kept | with_reducible apply Kept.ite | split | dsimp only
    | fail_if_no_progress with_reducible apply Kept.update

theorem State.grant_kept {s0 s : State} (h : Kept cwr s0 s) (t : TileId) (c d n win : Nat) (x : SessId) (k : Nat) : Kept cwr s0 (State.grant s t c d n win x k) := by
  unfold State.grant
  repeat first
    | with_reducible assumption | with_reducible apply State.modAdm_kept | with_reducible apply State.modSch_kept
    | with_reducible apply State.admCnt_kept | with_reducible apply State.pmc_kept | with_reducible apply State.modCell_kept
    | with_reducible apply State.issueRead_kept | with_reducible apply State.waive_kept | with_reducible apply Kept.ite | split
    | dsimp only | fail_if_no_progress with_reducible apply Kept.update

theorem State.stepProg_kept {s0 s s' : State} (h : Kept cwr s0 s) (t : TileId) (c d : Nat) (e_ : State.stepProg s t c d = some s') : Kept cwr s0 s' := by
  unfold State.stepProg at e_
  dsimp only at e_
  repeat' split at e_
  all_goals cases e_
  all_goals repeat first
    | with_reducible assumption | with_reducible apply State.modDie_kept | with_reducible apply State.command_kept
    | with_reducible apply Kept.ite | split | dsimp only | fail_if_no_progress with_reducible apply Kept.update

theorem State.stepErase_kept {s0 s s' : State} (h : Kept cwr s0 s) (t : TileId) (c d : Nat) (e : State)
    (e_ : s.stepErase t c d e = some s') : Kept cwr s0 s' := by
  unfold State.stepErase at e_
  split at e_
  · split at e_
    · cases e_
      exact State.modDie_kept (State.command_kept h ..) ..
    · cases e_
  · obtain ⟨n, -, rfl⟩ := Option.map_eq_some_iff.1 e_
    exact State.modDie_kept (State.command_kept h ..) ..

theorem State.issueStep_kept {s0 s s' : State} (h : Kept cwr s0 s) (t : TileId) (c d : Nat) (e : State)
    (e_ : s.issueStep t c d e = some s') : Kept cwr s0 s' := by
  unfold State.issueStep at e_
  split at e_
  · cases e_
  · rcases Option.or_eq_some_iff.1 e_ with e_ | ⟨-, e_⟩
    · exact State.stepProg_kept h _ _ _ e_
    · exact State.stepErase_kept h _ _ _ _ e_

theorem State.overdueStep_kept {s0 s s' : State} (h : Kept cwr s0 s) (t : TileId) (c d : Nat) (e : State)
    (e_ : s.overdueStep t c d e = some s') : Kept cwr s0 s' := by
  unfold State.overdueStep at e_
  extract_lets x at e_
  refine Kept.someIte (fun _ e => by cases e) (fun _ e => Kept.someIte (fun _ e => ?_)
    (fun _ e => Kept.someIte (fun _ e => State.stepErase_kept h _ _ _ _ e) (fun _ e => by cases e) e) e) e_
  rcases Option.or_eq_some_iff.1 e with e | ⟨-, e⟩
  · exact State.stepProg_kept h _ _ _ e
  · exact State.stepErase_kept h _ _ _ _ e

theorem State.endErase_kept {s0 s : State} (h : Kept cwr s0 s) (t : TileId) (c d : Nat) : Kept cwr s0 (State.endErase s t c d) := by
  unfold State.endErase
  repeat first
    | with_reducible assumption | with_reducible apply State.modDie_kept | with_reducible apply State.modStratum_kept
    | with_reducible apply Kept.ite | split | dsimp only | fail_if_no_progress with_reducible apply Kept.update

theorem State.dieSlot_kept {s0 s : State} (h : Kept cwr s0 s) (t : TileId) (c : Nat) (w : Word) (e : State) :
    Kept cwr s0 (s.dieSlot t c w e) := by
  unfold State.dieSlot
  extract_lets cls d win n s1 ahead
  have h1 : Kept cwr s0 s1 := State.endErase_kept h ..
  clear_value s1
  split
  · exact h
  split
  · exact State.pmc_kept (State.schCnt_kept (State.issueRead_kept h1 ..) ..) ..
  split
  · exact State.schCnt_kept (State.overdueStep_kept h1 _ _ _ _ (by assumption)) ..
  split
  · exact State.pmc_kept (State.schCnt_kept (State.issueRead_kept h1 ..) ..) ..
  split
  · exact State.issueRead_kept h1 ..
  split
  · exact State.grant_kept h1 ..
  split
  · exact State.schCnt_kept (State.issueRead_kept h1 ..) ..
  split
  · exact State.issueStep_kept h1 _ _ _ _ (by assumption)
  · exact Kept.ite (State.pmc_kept (State.schCnt_kept (State.schCnt_kept h1 ..) ..) ..) (State.schCnt_kept h1 ..)

theorem State.bindRun_kept {s0 s s' : State} {g : Prog} {b : Bool} (h : Kept cwr s0 s) (t : TileId) (c d k : Nat) (lend take : Bool)
    (e : State) (e_ : s.bindRun t c d k lend take e = (some (g, s'), b)) : Kept cwr s0 s' := by
  unfold State.bindRun at e_
  extract_lets gale start at e_
  split at e_
  · rename_i r hr
    cases (Prod.mk.inj e_).1
    split at hr
    · exact State.bindCarry_kept h _ _ _ hr
    · cases hr
  · split at e_
    · have e1 := (Prod.mk.inj e_).1
      split at e1
      · cases e1
      · split at e1
        · exact State.bindBg_kept h _ _ _ _ e1
        · exact State.bindDrain_kept h _ _ _ _ e1
    · split at e_
      · cases (Prod.mk.inj e_).1
        exact State.bindBg_kept h _ _ _ _ (by assumption)
      · split at e_
        · exact State.bindDrain_kept h _ _ _ _ (Prod.mk.inj e_).1
        · split at e_
          · exact State.bindDrain_kept h _ _ _ _ (Prod.mk.inj e_).1
          · cases (Prod.mk.inj e_).1
    · exact State.bindMap_kept h _ _ _ _ (Prod.mk.inj e_).1
    · exact State.bindParity_kept h _ _ _ (Prod.mk.inj e_).1

theorem State.startRun_kept {s0 s : State} (h : Kept cwr s0 s) (t : TileId) (c : Nat) (w : Word) (e : State) :
    Kept cwr s0 (s.startRun t c w e) := by
  unfold State.startRun
  extract_lets d k x
  split
  rename_i b lent e_
  have hb : ∀ g s', b = some (g, s') → Kept cwr s0 s' := by
    rintro g s' rfl
    split at e_
    · cases e_
    · exact State.bindRun_kept h _ _ _ _ _ _ _ e_
  split
  rename_i page s2 e2
  have h2 : Kept cwr s0 s2 := by
    split at e2
    · cases e2
      exact State.pmc_kept (hb _ _ rfl) ..
    · cases e2
      exact State.schCnt_kept h ..
  extract_lets s3
  exact State.modSch_kept (Kept.ite (State.schCnt_kept h2 ..) h2) ..

theorem State.xfer_kept {s0 s : State} (h : Kept cwr s0 s) (t : TileId) (c : Nat) (w : Word) (e : State) : Kept cwr s0 (s.xfer t c w e) := by
  unfold State.xfer
  split
  · extract_lets s1
    have h1 : Kept cwr s0 s1 := Kept.ite (State.startRun_kept h ..) h
    clear_value s1
    split
    · exact h1
    · extract_lets s2 s3
      have h2 : Kept cwr s0 s2 := Kept.ite (State.pmc_kept h1 ..) h1
      clear_value s2
      have h3 : Kept cwr s0 s3 := State.modSch_kept h2 ..
      clear_value s3
      split
      · exact State.modSch_kept h2 ..
      · split
        · exact State.modDie_kept h3 ..
        · exact h3
  · exact h

theorem State.badWord_kept {s0 s : State} (h : Kept cwr s0 s) (t : TileId) (c : Nat) : Kept cwr s0 (State.badWord s t c) := by
  unfold State.badWord
  repeat first
    | with_reducible assumption | with_reducible refine Kept.foldl (fun _ _ _ => ?_) ?_
    | with_reducible apply State.modSch_kept | with_reducible apply State.schCnt_kept | with_reducible apply State.raise_kept
    | with_reducible apply State.modCell_kept | with_reducible apply State.unbind_kept | with_reducible apply Kept.ite | split
    | dsimp only | fail_if_no_progress with_reducible apply Kept.update

theorem State.channelSlot_kept {s0 s : State} (h : Kept cwr s0 s) (t : TileId) (c : Nat) (e : State) : Kept cwr s0 (State.channelSlot s t c e) := by
  unfold State.channelSlot
  repeat first
    | with_reducible assumption | with_reducible apply State.dieSlot_kept | with_reducible apply State.xfer_kept
    | with_reducible apply State.badWord_kept | with_reducible apply Kept.ite | split | dsimp only

theorem State.slot_kept {s0 s : State} (h : Kept cwr s0 s) (t : TileId) : Kept cwr s0 (State.slot s t) := by
  unfold State.slot
  repeat first
    | with_reducible assumption | with_reducible refine Kept.foldl (fun _ _ _ => ?_) ?_
    | with_reducible apply State.modSch_kept | with_reducible apply State.waive_kept
    | with_reducible apply State.channelSlot_kept | with_reducible apply Kept.ite | split | dsimp only
    | fail_if_no_progress with_reducible apply Kept.update

theorem State.galeCheck_kept {s0 s : State} (h : Kept cwr s0 s) (t : TileId) : Kept cwr s0 (State.galeCheck s t) := by
  unfold State.galeCheck
  repeat first
    | with_reducible assumption | with_reducible refine Kept.foldl (fun _ _ _ => ?_) ?_
    | with_reducible apply State.modSch_kept | with_reducible apply State.raise_kept | with_reducible apply State.release_kept
    | with_reducible apply Kept.ite | split | dsimp only | fail_if_no_progress with_reducible apply Kept.update

theorem State.galeLong_kept {s0 s : State} (h : Kept cwr s0 s) (t : TileId) : Kept cwr s0 (State.galeLong s t) := by
  unfold State.galeLong
  repeat first
    | with_reducible assumption | with_reducible apply State.modSch_kept | with_reducible apply State.raise_kept
    | with_reducible apply Kept.ite | split | dsimp only | fail_if_no_progress with_reducible apply Kept.update

theorem State.frame_kept {s0 s : State} (h : Kept cwr s0 s) (t : TileId) : Kept cwr s0 (State.frame s t) := by
  unfold State.frame
  repeat first
    | with_reducible assumption | with_reducible apply State.modAdm_kept | with_reducible apply State.modSch_kept
    | with_reducible apply State.galeCheck_kept | with_reducible apply Kept.ite | split | dsimp only
    | fail_if_no_progress with_reducible apply Kept.update

theorem State.boundary_kept {s0 s : State} (h : Kept cwr s0 s) (t : TileId) : Kept cwr s0 (State.boundary s t) := by
  unfold State.boundary
  repeat first
    | with_reducible assumption | with_reducible apply State.modSch_kept | with_reducible apply State.schCnt_kept
    | with_reducible apply Kept.ite | split | dsimp only | fail_if_no_progress with_reducible apply Kept.update

/-! ### Machine/Collect.lean -/

theorem State.foldPages_kept {s0 s : State} (h : Kept cwr s0 s) (t : TileId) : Kept cwr s0 (State.foldPages s t) := by
  unfold State.foldPages
  repeat first
    | with_reducible assumption | with_reducible refine Kept.foldl (fun _ _ _ => ?_) ?_
    | with_reducible apply State.modXlt_kept | with_reducible apply State.wantCtr_kept
    | with_reducible apply State.wantPage_kept | with_reducible apply State.dropFolds_kept | with_reducible apply Kept.ite
    | split | dsimp only | fail_if_no_progress with_reducible apply Kept.update

theorem State.foldOccupancy_kept {s0 s : State} (h : Kept cwr s0 s) (t : TileId) : Kept cwr s0 (State.foldOccupancy s t) := by
  unfold State.foldOccupancy
  repeat first
    | with_reducible assumption | with_reducible apply State.modXlt_kept | with_reducible apply State.startFold_kept
    | with_reducible apply Kept.ite | split | dsimp only | fail_if_no_progress with_reducible apply Kept.update

theorem State.unmapWork_kept {s0 s : State} (h : Kept cwr s0 s) (t : TileId) : Kept cwr s0 (State.unmapWork s t) := by
  unfold State.unmapWork
  repeat first
    | with_reducible assumption | with_reducible refine Kept.foldl (fun _ _ _ => ?_) ?_
    | with_reducible apply State.modXlt_kept | with_reducible apply State.wantPage_kept
    | with_reducible apply State.journal_kept | with_reducible apply Kept.ite | split | dsimp only
    | fail_if_no_progress with_reducible apply Kept.update

theorem State.startVictim_kept {s0 s : State} (h : Kept cwr s0 s) (t : TileId) (v : Nat) : Kept cwr s0 (State.startVictim s t v) := by
  unfold State.startVictim
  repeat first
    | with_reducible assumption | with_reducible refine Kept.foldl (fun _ _ _ => ?_) ?_
    | with_reducible apply State.modXlt_kept | with_reducible apply State.bgFetch_kept | dsimp only
    | fail_if_no_progress with_reducible apply Kept.update

theorem State.copyVictim_kept {s0 s : State} (h : Kept cwr s0 s) (t : TileId) (v : Nat) : Kept cwr s0 (State.copyVictim s t v) := by
  unfold State.copyVictim
  repeat first
    | with_reducible assumption | with_reducible refine Kept.foldl (fun _ _ _ => ?_) ?_
    | with_reducible apply State.modXlt_kept | with_reducible apply State.wantPage_kept | with_reducible apply Kept.ite | split
    | dsimp only | fail_if_no_progress with_reducible apply Kept.update

theorem State.collect_kept {s0 s : State} (h : Kept cwr s0 s) (t : TileId) : Kept cwr s0 (State.collect s t) := by
  unfold State.collect
  repeat first
    | with_reducible assumption | with_reducible apply State.modXlt_kept | with_reducible apply State.journal_kept
    | with_reducible apply State.startVictim_kept | with_reducible apply State.copyVictim_kept | with_reducible apply Kept.ite
    | split | dsimp only | fail_if_no_progress with_reducible apply Kept.update

theorem State.rollInBackground_kept {s0 s : State} (h : Kept cwr s0 s) (t : TileId) (slot : Nat) : Kept cwr s0 (State.rollInBackground s t slot) := by
  unfold State.rollInBackground
  repeat first
    | with_reducible assumption | with_reducible apply State.startRoll_kept | with_reducible apply Kept.ite | split
    | dsimp only

theorem State.rollOldest_kept {s0 s : State} (h : Kept cwr s0 s) (t : TileId) : Kept cwr s0 (State.rollOldest s t) := by
  unfold State.rollOldest
  repeat first
    | with_reducible assumption | with_reducible apply State.rollInBackground_kept | with_reducible apply Kept.ite | split
    | dsimp only | fail_if_no_progress with_reducible apply Kept.update

theorem State.pullMore_kept {s0 s : State} (h : Kept cwr s0 s) (t : TileId) (slot : Nat) : Kept cwr s0 (State.pullMore s t slot) := by
  unfold State.pullMore
  repeat first
    | with_reducible assumption | with_reducible refine Kept.foldl (fun _ _ _ => ?_) ?_
    | with_reducible apply State.modAdm_kept | with_reducible apply State.modSec_kept | with_reducible apply State.bgFetch_kept
    | with_reducible apply Kept.ite | split | dsimp only | fail_if_no_progress with_reducible apply Kept.update

theorem State.rollImage_kept {s0 s : State} (h : Kept cwr s0 s) (t : TileId) (slot : Nat) : Kept cwr s0 (State.rollImage s t slot) := by
  unfold State.rollImage
  repeat first
    | with_reducible assumption | with_reducible refine Kept.foldl (fun _ _ _ => ?_) ?_
    | with_reducible apply State.modAdm_kept | with_reducible apply State.modXlt_kept | with_reducible apply State.modSec_kept
    | with_reducible apply State.wantCtr_kept | with_reducible apply State.wantPage_kept
    | with_reducible apply State.pullMore_kept | with_reducible apply Kept.ite | split | dsimp only
    | fail_if_no_progress with_reducible apply Kept.update

theorem State.walkRegion_kept {s0 s : State} (h : Kept cwr s0 s) (t : TileId) (r : RegionId) : Kept cwr s0 (State.walkRegion s t r) := by
  unfold State.walkRegion
  repeat first
    | with_reducible assumption | with_reducible refine Kept.fold1 (fun _ _ _ => ?_) ?_
    | with_reducible refine Kept.foldl (fun _ _ _ => ?_) ?_ | with_reducible apply State.modRgn_kept
    | with_reducible apply State.rollInBackground_kept | with_reducible apply Kept.ite | split | dsimp only
    | fail_if_no_progress with_reducible apply Kept.update

theorem State.walk_kept {s0 s : State} (h : Kept cwr s0 s) (t : TileId) : Kept cwr s0 (State.walk s t) := by
  unfold State.walk
  repeat first
    | with_reducible assumption | with_reducible refine Kept.foldl (fun _ _ _ => ?_) ?_
    | with_reducible apply State.walkRegion_kept | with_reducible apply Kept.ite | split | dsimp only

theorem State.startCkpt_kept {s0 s : State} (h : Kept cwr s0 s) (t : TileId) : Kept cwr s0 (State.startCkpt s t) := by
  unfold State.startCkpt
  repeat first
    | with_reducible assumption | with_reducible apply State.modXlt_kept | with_reducible apply Kept.ite | split | dsimp only
    | fail_if_no_progress with_reducible apply Kept.update

theorem State.checkpoint_kept {s0 s : State} (h : Kept cwr s0 s) (t : TileId) : Kept cwr s0 (State.checkpoint s t) := by
  unfold State.checkpoint
  repeat first
    | with_reducible assumption | with_reducible apply State.startCkpt_kept | with_reducible apply Kept.ite | split
    | dsimp only | fail_if_no_progress with_reducible apply Kept.update

theorem State.lastCheckpoint_kept {s0 s : State} (h : Kept cwr s0 s) (t : TileId) : Kept cwr s0 (State.lastCheckpoint s t) := by
  unfold State.lastCheckpoint
  repeat first
    | with_reducible assumption | with_reducible apply State.modCtl_kept | with_reducible apply State.startCkpt_kept
    | with_reducible apply Kept.ite | split | dsimp only | fail_if_no_progress with_reducible apply Kept.update

theorem State.prepWriteBack_kept {s0 s : State} (h : Kept cwr s0 s) (t : TileId) : Kept cwr s0 (State.prepWriteBack s t) := by
  unfold State.prepWriteBack
  repeat first
    | with_reducible assumption | with_reducible refine Kept.foldl (fun _ _ _ => ?_) ?_
    | with_reducible apply State.wantWriteBack_kept | with_reducible apply Kept.ite | split | dsimp only
    | fail_if_no_progress with_reducible apply Kept.update

theorem State.bgWork_kept {s0 s : State} (h : Kept cwr s0 s) (t : TileId) : Kept cwr s0 (State.bgWork s t) := by
  unfold State.bgWork
  repeat first
    | with_reducible assumption | with_reducible apply State.placeDisplaced_kept | with_reducible apply State.poisonStaged_kept
    | with_reducible apply State.prepPack_kept | with_reducible apply State.foldPages_kept
    | with_reducible apply State.foldOccupancy_kept | with_reducible apply State.unmapWork_kept
    | with_reducible apply State.collect_kept | with_reducible apply State.rollOldest_kept
    | with_reducible apply State.prepWriteBack_kept | with_reducible apply Kept.ite | split | dsimp only

/-! ### Machine/Medium.lean -/

theorem State.change_kept {s0 s : State} (h : Kept cwr s0 s) (t : TileId) (c d : Nat) (f : DieRec → DieRec) (failed : Option Prog) : Kept cwr s0 (State.change s t c d f failed) := by
  unfold State.change
  repeat first
    | with_reducible assumption | with_reducible apply State.modDie_kept | dsimp only
    | fail_if_no_progress with_reducible apply Kept.update

theorem State.mark_kept {s0 s : State} (h : Kept cwr s0 s) (t : TileId) (c d : Nat) (f : DieRec → DieRec) : Kept cwr s0 (s.mark t c d f) :=
  State.modMedium_kept (State.modDie_kept h ..) _ (fun m w => by
    simp only [Medium.wf, Bool.and_eq_true] at w ⊢
    exact ⟨w.1, Tab.wf_upd w.2⟩) fun _ _ => rfl

theorem State.readOnlyTile_kept {s0 s : State} (h : Kept cwr s0 s) (t : TileId) (cause : BitVec 2) : Kept cwr s0 (State.readOnlyTile s t cause) := by
  unfold State.readOnlyTile
  repeat first
    | with_reducible assumption | with_reducible apply State.modMed_kept | with_reducible apply State.raise_kept
    | with_reducible apply Kept.ite | split | dsimp only | fail_if_no_progress with_reducible apply Kept.update

theorem State.poolCheck_kept {s0 s : State} (h : Kept cwr s0 s) (t : TileId) (c d : Nat) : Kept cwr s0 (State.poolCheck s t c d) := by
  unfold State.poolCheck
  repeat first
    | with_reducible assumption | with_reducible apply State.raise_kept | with_reducible apply State.mark_kept
    | with_reducible apply State.readOnlyTile_kept | with_reducible apply Kept.ite | split | dsimp only
    | fail_if_no_progress with_reducible apply Kept.update

theorem State.dropDie_kept {s0 s : State} (h : Kept cwr s0 s) (t : TileId) (c d : Nat) : Kept cwr s0 (State.dropDie s t c d) := by
  unfold State.dropDie
  repeat first
    | with_reducible assumption | with_reducible refine Kept.foldl (fun _ _ _ => ?_) ?_
    | with_reducible apply State.modSch_kept | with_reducible apply State.modDie_kept
    | with_reducible apply State.dropFetches_kept | with_reducible apply State.requeue_kept | with_reducible apply Kept.ite
    | split | dsimp only | fail_if_no_progress with_reducible apply Kept.update

theorem State.redirect_kept {s0 s : State} (h : Kept cwr s0 s) (t : TileId) (c d : Nat) : Kept cwr s0 (State.redirect s t c d) := by
  unfold State.redirect
  repeat first
    | with_reducible assumption | with_reducible refine Kept.foldl (fun _ _ _ => ?_) ?_
    | with_reducible apply State.modAdm_kept | with_reducible apply State.setFetch_kept
    | with_reducible apply State.startRebuild_kept | with_reducible apply State.stage_kept
    | with_reducible apply State.endRead_kept | with_reducible apply Kept.ite | split | dsimp only
    | fail_if_no_progress with_reducible apply Kept.update

theorem State.poisonIndex_kept {s0 s : State} (h : Kept cwr s0 s) (t : TileId) (d : Nat) : Kept cwr s0 (State.poisonIndex s t d) := by
  unfold State.poisonIndex
  repeat first
    | with_reducible assumption | with_reducible refine Kept.foldl (fun _ _ _ => ?_) ?_
    | with_reducible apply State.poisonCw_kept | with_reducible apply State.mapUnreadable_kept | with_reducible apply Kept.ite
    | split | dsimp only | fail_if_no_progress with_reducible apply Kept.update

theorem State.loseDie_kept {s0 s : State} (h : Kept cwr s0 s) (t : TileId) (c d : Nat) (cause : Nat) : Kept cwr s0 (State.loseDie s t c d cause) := by
  unfold State.loseDie
  repeat first
    | with_reducible assumption | with_reducible refine Kept.foldl (fun _ _ _ => ?_) ?_
    | with_reducible apply State.modXlt_kept | with_reducible apply State.modMed_kept | with_reducible apply State.raise_kept
    | with_reducible apply State.modDie_kept | with_reducible apply State.evacEnds_kept
    | with_reducible apply State.sealStratum_kept | with_reducible apply State.mark_kept
    | with_reducible apply State.readOnlyTile_kept | with_reducible apply State.dropDie_kept
    | with_reducible apply State.redirect_kept | with_reducible apply State.poisonIndex_kept | with_reducible apply Kept.ite
    | split | dsimp only | fail_if_no_progress with_reducible apply Kept.update

theorem State.levelling_kept {s0 s : State} (h : Kept cwr s0 s) (t : TileId) (c d : Nat) : Kept cwr s0 (State.levelling s t c d) := by
  unfold State.levelling
  repeat first
    | with_reducible assumption | with_reducible refine Kept.foldl (fun _ _ _ => ?_) ?_
    | with_reducible apply State.modDie_kept | with_reducible apply Kept.ite | split | dsimp only
    | fail_if_no_progress with_reducible apply Kept.update

theorem State.countRetired_kept {s0 s : State} (h : Kept cwr s0 s) (t : TileId) (c d : Nat) : Kept cwr s0 (State.countRetired s t c d) := by
  unfold State.countRetired
  repeat first
    | with_reducible assumption | with_reducible apply State.medCcnt_kept | with_reducible apply State.modDie_kept
    | with_reducible apply Kept.ite | split | dsimp only | fail_if_no_progress with_reducible apply Kept.update

theorem State.retireEnds_kept {s0 s : State} (h : Kept cwr s0 s) (t : TileId) (c d : Nat) : Kept cwr s0 (State.retireEnds s t c d) := by
  unfold State.retireEnds
  repeat first
    | with_reducible assumption | with_reducible apply State.poolCheck_kept | with_reducible apply State.loseDie_kept
    | with_reducible apply State.levelling_kept | with_reducible apply Kept.ite | split | dsimp only

theorem State.retire_kept {s0 s : State} (h : Kept cwr s0 s) (t : TileId) (c d slab : Nat) (dest : Option Nat) (failed : Option Prog) : Kept cwr s0 (State.retire s t c d slab dest failed) := by
  unfold State.retire
  repeat first
    | with_reducible assumption | with_reducible apply State.modDie_kept | with_reducible apply State.modStratum_kept
    | with_reducible apply State.sealStratum_kept | with_reducible apply State.change_kept
    | with_reducible apply State.countRetired_kept | with_reducible apply State.retireEnds_kept | with_reducible apply Kept.ite
    | split | dsimp only | fail_if_no_progress with_reducible apply Kept.update

theorem State.countFail_kept {s0 s : State} (h : Kept cwr s0 s) (t : TileId) (c d slab : Nat) : Kept cwr s0 (State.countFail s t c d slab) := by
  unfold State.countFail
  repeat first
    | with_reducible assumption | with_reducible apply State.change_kept | dsimp only
    | fail_if_no_progress with_reducible apply Kept.update

theorem State.beginCarry_kept {s0 s : State} (h : Kept cwr s0 s) (t : TileId) (c d : Nat) (g : Prog) : Kept cwr s0 (State.beginCarry s t c d g) := by
  unfold State.beginCarry
  repeat first
    | with_reducible assumption | with_reducible refine Kept.foldl (fun _ _ _ => ?_) ?_
    | with_reducible apply State.modDie_kept | with_reducible apply State.bgFetch_kept | with_reducible apply State.retire_kept
    | with_reducible apply Kept.ite | split | dsimp only | fail_if_no_progress with_reducible apply Kept.update

theorem State.eraseFailed_kept {s0 s : State} (h : Kept cwr s0 s) (t : TileId) (c d : Nat) (recovered : Bool) : Kept cwr s0 (State.eraseFailed s t c d recovered) := by
  unfold State.eraseFailed
  repeat first
    | with_reducible assumption | with_reducible apply State.medCcnt_kept | with_reducible apply State.modDie_kept
    | with_reducible apply State.modStratum_kept | with_reducible apply State.retire_kept
    | with_reducible apply State.countFail_kept | with_reducible apply Kept.ite | split | dsimp only
    | fail_if_no_progress with_reducible apply Kept.update

theorem State.applyChange_kept {s0 s : State} (h : Kept cwr s0 s) (t : TileId) (c d : Nat) : Kept cwr s0 (s.applyChange t c d) := by
  unfold State.applyChange
  split
  · exact h
  · rename_i x r _
    extract_lets s1 s2
    have h2 : Kept cwr s0 s2 := State.modMedium_kept (State.modDie_kept h ..) _ (fun m w => by
      simp only [Medium.wf, Bool.and_eq_true] at w ⊢
      exact ⟨w.1, Tab.wf_put w.2⟩) fun _ _ => rfl
    clear_value s2
    refine Kept.ite h ?_
    split
    · exact h2
    · exact State.modStratum_kept (Kept.foldl (fun _ _ g => State.requeue_kept g ..) h2) ..

theorem State.cairnProgram_kept {s0 s : State} (h : Kept cwr s0 s) (t : TileId) (c d : Nat) (ok : Bool) : Kept cwr s0 (State.cairnProgram s t c d ok) := by
  unfold State.cairnProgram
  repeat first
    | with_reducible assumption | with_reducible apply State.modMedium_kept | with_reducible apply State.modCtl_kept
    | with_reducible apply State.medCcnt_kept | with_reducible apply Kept.ite | split | exact fun _ w => w
    | exact fun _ _ => rfl | dsimp only | fail_if_no_progress with_reducible apply Kept.update

theorem State.progFail_kept {s0 s : State} (h : Kept cwr s0 s) (t : TileId) (c d : Nat) (recovered : Bool) : Kept cwr s0 (State.progFail s t c d recovered) := by
  unfold State.progFail
  repeat first
    | with_reducible assumption | with_reducible apply State.xltCnt_kept | with_reducible apply State.medCcnt_kept
    | with_reducible apply State.modDie_kept | with_reducible apply State.dropFetches_kept
    | with_reducible apply State.change_kept | with_reducible apply State.countRetired_kept
    | with_reducible apply State.retireEnds_kept | with_reducible apply State.countFail_kept
    | with_reducible apply State.beginCarry_kept | with_reducible apply State.cairnProgram_kept | with_reducible apply Kept.ite
    | split | dsimp only | fail_if_no_progress with_reducible apply Kept.update

theorem State.programmed_kept {s0 s : State} (h : Kept cwr s0 s) (hw : cwr) (t : TileId) (c d : Nat) : Kept cwr s0 (State.programmed s t c d) := by
  unfold State.programmed
  repeat first
    | with_reducible assumption | with_reducible apply State.medCcnt_kept | with_reducible apply State.modDie_kept
    | with_reducible apply State.progDone_kept | with_reducible apply State.retire_kept
    | with_reducible apply State.applyChange_kept | with_reducible apply State.cairnProgram_kept
    | with_reducible apply Kept.ite | split | dsimp only | fail_if_no_progress with_reducible apply Kept.update

theorem State.eraseStart_kept {s0 s : State} (h : Kept cwr s0 s) (t : TileId) (n : Nat) : Kept cwr s0 (State.eraseStart s t n) := by
  unfold State.eraseStart
  repeat first
    | with_reducible assumption | with_reducible apply State.modSch_kept | with_reducible apply State.stage_kept
    | with_reducible apply Kept.ite | split | dsimp only | fail_if_no_progress with_reducible apply Kept.update

theorem State.slabErased_kept {s0 s : State} (h : Kept cwr s0 s) (t : TileId) (c n : Nat) : Kept cwr s0 (State.slabErased s t c n) := by
  unfold State.slabErased
  repeat first
    | with_reducible assumption | with_reducible apply State.medCcnt_kept | with_reducible apply State.modDie_kept
    | with_reducible apply State.change_kept | with_reducible apply State.retire_kept | with_reducible apply Kept.ite | split
    | dsimp only | fail_if_no_progress with_reducible apply Kept.update

theorem wf_erase {m : Medium} (w : m.wf = true) {p : Nat → Bool} : ({ m with cws := Tab.keep p m.cws } : Medium).wf = true := by
  simp only [Medium.wf, Bool.and_eq_true] at w ⊢
  exact ⟨Tab.rising_filter w.1, w.2⟩

theorem State.eraseDone_kept {s0 s : State} (h : Kept cwr s0 s) (hw : cwr) (t : TileId) (n : Nat) : Kept cwr s0 (s.eraseDone t n) := by
  unfold State.eraseDone
  dsimp only
  split
  · refine State.journal_kept (State.modSch_kept (State.modStratum_kept ?_ _ _ _) _ _) _ _
    repeat first
      | with_reducible assumption | with_reducible apply State.medTcnt_kept | with_reducible apply State.modMed_kept
      | with_reducible apply State.levelling_kept
      | with_reducible apply State.slabErased_kept | with_reducible apply State.endErase_kept
      | with_reducible refine Kept.foldl (fun _ _ _ => ?_) ?_
      | with_reducible refine State.modMedium_kept ?_ _ (fun m w => ?_) fun n => absurd hw n | with_reducible apply Kept.ite
      | split | exact wf_erase (by assumption)
  · exact h

theorem State.drift_kept {s0 s : State} (h : Kept cwr s0 s) (t : TileId) (w : Nat) : Kept cwr s0 (State.drift s t w) := by
  unfold State.drift
  repeat first
    | with_reducible assumption | with_reducible apply State.modXlt_kept | with_reducible apply State.modMed_kept
    | with_reducible apply Kept.ite | split | dsimp only | fail_if_no_progress with_reducible apply Kept.update

theorem State.toRefresh_kept {s0 s : State} (h : Kept cwr s0 s) (t : TileId) (n : Nat) : Kept cwr s0 (State.toRefresh s t n) := by
  unfold State.toRefresh
  repeat first
    | with_reducible assumption | with_reducible apply State.modStratum_kept | dsimp only
    | fail_if_no_progress with_reducible apply Kept.update

theorem State.setBucket_kept {s0 s : State} (h : Kept cwr s0 s) (t : TileId) (n b progress : Nat) : Kept cwr s0 (State.setBucket s t n b progress) := by
  unfold State.setBucket
  repeat first
    | with_reducible assumption | with_reducible apply State.raise_kept | with_reducible apply State.modStratum_kept
    | with_reducible apply Kept.ite | split | dsimp only | fail_if_no_progress with_reducible apply Kept.update

theorem State.bucketEntry_kept {s0 s : State} (h : Kept cwr s0 s) (t : TileId) (n : Nat) : Kept cwr s0 (State.bucketEntry s t n) := by
  unfold State.bucketEntry
  repeat first
    | with_reducible assumption | with_reducible apply State.setBucket_kept | with_reducible apply Kept.ite | split
    | dsimp only

theorem fillCws_rising {m : Tab (BitVec 2304)} (h : Tab.rising none m = true) (n c p : Nat) : Tab.rising none (fillCws m n c p) = true :=
  Tab.rising_fold (fun _ _ g => by
    exact Tab.rising_fold (fun _ _ g => by exact Tab.rising_fold (fun _ _ g => Tab.rising_ins g (by simp)) _ g) _ g) _ h

theorem State.pad_kept {s0 s : State} (h : Kept cwr s0 s) (hw : cwr) (t : TileId) (n : Nat) : Kept cwr s0 (s.pad t n) := by
  unfold State.pad
  dsimp only
  split
  · refine State.medTcnt_kept (State.sealIfFull_kept (State.modStratum_kept (State.modMedium_kept h _ (fun m w => ?_) fun n => absurd hw n) _ _ _) _ _) ..
    simp only [Medium.wf, Bool.and_eq_true] at w ⊢
    exact ⟨Tab.rising_fold (fun _ _ g => fillCws_rising g _ _ _) _ w.1, w.2⟩
  · exact h

theorem State.passFrom_kept {s0 s : State} (h : Kept cwr s0 s) (t : TileId) (n : Nat) : Kept cwr s0 (State.passFrom s t n) := by
  unfold State.passFrom
  repeat first
    | with_reducible assumption | with_reducible apply State.modMed_kept | with_reducible apply Kept.ite | split | dsimp only
    | fail_if_no_progress with_reducible apply Kept.update

theorem State.passStart_kept {s0 s : State} (h : Kept cwr s0 s) (t : TileId) : Kept cwr s0 (State.passStart s t) := by
  unfold State.passStart
  repeat first
    | with_reducible assumption | with_reducible apply State.modMed_kept | with_reducible apply State.passFrom_kept
    | with_reducible apply Kept.ite | split | dsimp only | fail_if_no_progress with_reducible apply Kept.update

theorem State.driftDue_kept {s0 s : State} (h : Kept cwr s0 s) (t : TileId) : Kept cwr s0 (State.driftDue s t) := by
  unfold State.driftDue
  repeat first
    | with_reducible assumption | with_reducible apply State.modMed_kept | with_reducible apply State.drift_kept | split
    | dsimp only | fail_if_no_progress with_reducible apply Kept.update

theorem State.finding_kept {s0 s : State} (h : Kept cwr s0 s) (t : TileId) (cwa : BitVec 34) (first : Option Nat) (next : Recourse) : Kept cwr s0 (State.finding s t cwa first next) := by
  unfold State.finding
  repeat first
    | with_reducible assumption | with_reducible apply State.medTcnt_kept | with_reducible apply State.medCcnt_kept
    | with_reducible apply State.modStratum_kept | with_reducible apply State.poisonCw_kept
    | with_reducible apply State.mapUnreadable_kept | with_reducible apply State.toRefresh_kept
    | with_reducible apply State.setBucket_kept | with_reducible apply Kept.ite | split | dsimp only
    | fail_if_no_progress with_reducible apply Kept.update

theorem State.reached_kept {s0 s : State} (h : Kept cwr s0 s) (t : TileId) (n : Nat) : Kept cwr s0 (State.reached s t n) := by
  unfold State.reached
  repeat first
    | with_reducible assumption | with_reducible apply State.modMed_kept | with_reducible apply State.modStratum_kept
    | with_reducible apply State.setBucket_kept | with_reducible apply State.passFrom_kept | with_reducible apply Kept.ite
    | split | dsimp only | fail_if_no_progress with_reducible apply Kept.update

theorem State.passOn_kept {s0 s : State} (h : Kept cwr s0 s) (t : TileId) (n : Nat) (cwa : BitVec 34) : Kept cwr s0 (State.passOn s t n cwa) := by
  unfold State.passOn
  repeat first
    | with_reducible assumption | with_reducible apply State.modMed_kept | with_reducible apply State.reached_kept | split
    | dsimp only | fail_if_no_progress with_reducible apply Kept.update

theorem State.patrol_kept {s0 s : State} (h : Kept cwr s0 s) (t : TileId) : Kept cwr s0 (State.patrol s t) := by
  unfold State.patrol
  repeat first
    | with_reducible assumption | with_reducible refine Kept.foldl (fun _ _ _ => ?_) ?_
    | with_reducible apply State.newFetch_kept | with_reducible apply State.bgFetch_kept
    | with_reducible apply State.passFrom_kept | with_reducible apply State.passStart_kept
    | with_reducible apply State.passOn_kept | with_reducible apply Kept.ite | split | dsimp only
    | fail_if_no_progress with_reducible apply Kept.update

theorem State.found_kept {s0 s : State} (h : Kept cwr s0 s) (t : TileId) (cwa : BitVec 34) (first : Option Nat) (next : Recourse) (sets : List (Option Nat)) : Kept cwr s0 (State.found s t cwa first next sets) := by
  unfold State.found
  repeat first
    | with_reducible assumption | with_reducible apply State.modMed_kept | with_reducible apply State.dropFetches_kept
    | with_reducible apply State.rebuildNow_kept | with_reducible apply State.passFrom_kept
    | with_reducible apply State.finding_kept | with_reducible apply State.passOn_kept | with_reducible apply State.patrol_kept
    | with_reducible apply Kept.ite | split | dsimp only | fail_if_no_progress with_reducible apply Kept.update

theorem State.enterUnknown_kept {s0 s : State} (h : Kept cwr s0 s) (t : TileId) : Kept cwr s0 (State.enterUnknown s t) := by
  unfold State.enterUnknown
  repeat first
    | with_reducible assumption | with_reducible apply State.modXlt_kept | with_reducible apply State.modMed_kept
    | with_reducible apply State.raise_kept | with_reducible apply Kept.ite | split | dsimp only
    | fail_if_no_progress with_reducible apply Kept.update

theorem State.surveyDone_kept {s0 s : State} (h : Kept cwr s0 s) (t : TileId) : Kept cwr s0 (State.surveyDone s t) := by
  unfold State.surveyDone
  repeat first
    | with_reducible assumption | with_reducible apply State.modMed_kept | with_reducible apply State.raise_kept
    | with_reducible apply Kept.ite | split | dsimp only | fail_if_no_progress with_reducible apply Kept.update

theorem State.dieTimeout_kept {s0 s : State} (h : Kept cwr s0 s) (t : TileId) (c d : Nat) : Kept cwr s0 (State.dieTimeout s t c d) := by
  unfold State.dieTimeout
  repeat first
    | with_reducible assumption | with_reducible apply State.modDie_kept | with_reducible apply State.loseDie_kept
    | with_reducible apply Kept.ite | split | dsimp only | fail_if_no_progress with_reducible apply Kept.update

theorem State.evacSync_kept {s0 s : State} (h : Kept cwr s0 s) (t : TileId) : Kept cwr s0 (State.evacSync s t) := by
  unfold State.evacSync
  repeat first
    | with_reducible assumption | with_reducible apply State.modMed_kept | with_reducible apply State.evacEnds_kept
    | dsimp only | fail_if_no_progress with_reducible apply Kept.update

theorem State.initMedium_kept {s0 s : State} (h : Kept cwr s0 s) (t : TileId) (m : MedInit) : Kept cwr s0 (State.initMedium s t m) := by
  unfold State.initMedium
  repeat first
    | with_reducible assumption | with_reducible refine Kept.foldl (fun _ _ _ => ?_) ?_
    | with_reducible apply State.modMedium_kept | with_reducible apply State.modCtl_kept
    | with_reducible apply State.modXlt_kept | with_reducible apply State.modMed_kept
    | with_reducible apply State.poolCheck_kept | with_reducible apply State.loseDie_kept
    | with_reducible apply State.levelling_kept | with_reducible apply State.retire_kept
    | with_reducible apply State.enterUnknown_kept | with_reducible apply State.evacSync_kept | with_reducible apply Kept.ite
    | split | exact fun _ w => w | exact fun _ _ => rfl | dsimp only | fail_if_no_progress with_reducible apply Kept.update

/-! ### Machine/Region.lean -/

theorem State.ackReq_kept {s0 s : State} (h : Kept cwr s0 s) (x : SessId) (epoch : BitVec 16) (seq : Word) (st : Byte) : Kept cwr s0 (State.ackReq s x epoch seq st) := by
  unfold State.ackReq
  repeat first
    | with_reducible assumption | with_reducible apply State.ack_kept | split | dsimp only
    | fail_if_no_progress with_reducible apply Kept.update

theorem State.ackLock_kept {s0 s : State} (h : Kept cwr s0 s) (x : SessId) (epoch : BitVec 16) (seq : Word) (r : RegionId) (lease : Nat) : Kept cwr s0 (State.ackLock s x epoch seq r lease) := by
  unfold State.ackLock
  repeat first
    | with_reducible assumption | with_reducible apply State.wait_kept | with_reducible apply State.flush_kept | split
    | dsimp only | fail_if_no_progress with_reducible apply Kept.update

theorem State.scrub_kept {s0 s : State} (h : Kept cwr s0 s) (t : TileId) (lo n : Nat) : Kept cwr s0 (State.scrub s t lo n) := by
  unfold State.scrub
  repeat first
    | with_reducible assumption | with_reducible apply State.modAdm_kept | with_reducible apply State.modXlt_kept
    | with_reducible apply State.modMed_kept | with_reducible apply State.modSch_kept | with_reducible apply State.modSec_kept
    | with_reducible apply State.dropFetches_kept | with_reducible apply State.dropFolds_kept | split | dsimp only
    | fail_if_no_progress with_reducible apply Kept.update

theorem State.dropStaged_kept {s0 s : State} (h : Kept cwr s0 s) (t : TileId) (lo n : Nat) : Kept cwr s0 (State.dropStaged s t lo n) := by
  unfold State.dropStaged
  repeat first
    | with_reducible assumption | with_reducible apply State.modAdm_kept | dsimp only
    | fail_if_no_progress with_reducible apply Kept.update

theorem State.zeroTile_kept {s0 s : State} (h : Kept cwr s0 s) (t : TileId) (r : RegionId) : Kept cwr s0 (State.zeroTile s t r) := by
  unfold State.zeroTile
  repeat first
    | with_reducible assumption | with_reducible refine Kept.foldl (fun _ _ _ => ?_) ?_
    | with_reducible apply State.modXlt_kept | with_reducible apply State.modSec_kept | with_reducible apply State.commit_kept
    | with_reducible apply State.scrub_kept | with_reducible apply State.dropStaged_kept | with_reducible apply Kept.ite
    | split | dsimp only | fail_if_no_progress with_reducible apply Kept.update

theorem State.zeroize_kept {s0 s : State} (h : Kept cwr s0 s) (r : RegionId) : Kept cwr s0 (State.zeroize s r) := by
  unfold State.zeroize
  repeat first
    | with_reducible assumption | with_reducible refine Kept.foldl (fun _ _ _ => ?_) ?_
    | with_reducible apply State.modRgn_kept | with_reducible apply State.zeroTile_kept | with_reducible apply Kept.ite | split
    | dsimp only | fail_if_no_progress with_reducible apply Kept.update

theorem State.lostTile_kept {s0 s : State} (h : Kept cwr s0 s) (t : TileId) (r : RegionId) (all : Bool) : Kept cwr s0 (State.lostTile s t r all) := by
  unfold State.lostTile
  repeat first
    | with_reducible assumption | with_reducible refine Kept.foldl (fun _ _ _ => ?_) ?_
    | with_reducible apply State.modXlt_kept | with_reducible apply State.modSec_kept
    | with_reducible apply State.dropFolds_kept | with_reducible apply State.scrub_kept
    | with_reducible apply State.dropStaged_kept | with_reducible apply Kept.ite | split | dsimp only
    | fail_if_no_progress with_reducible apply Kept.update

theorem State.passStarts_kept {s0 s : State} (h : Kept cwr s0 s) (r : RegionId) (lost : Nat) : Kept cwr s0 (State.passStarts s r lost) := by
  unfold State.passStarts
  repeat first
    | with_reducible assumption | with_reducible refine Kept.foldl (fun _ _ _ => ?_) ?_
    | with_reducible apply State.modRgn_kept | with_reducible apply State.modSec_kept | with_reducible apply State.raise_kept
    | with_reducible apply State.lostTile_kept | with_reducible apply Kept.ite | split | dsimp only
    | fail_if_no_progress with_reducible apply Kept.update

theorem State.passEnds_kept {s0 s : State} (h : Kept cwr s0 s) (r : RegionId) : Kept cwr s0 (State.passEnds s r) := by
  unfold State.passEnds
  repeat first
    | with_reducible assumption | with_reducible apply State.modRgn_kept | with_reducible apply State.rgnCommit_kept
    | with_reducible apply State.raise_kept | with_reducible apply State.beginPass_kept | with_reducible apply Kept.ite | split
    | dsimp only | fail_if_no_progress with_reducible apply Kept.update

theorem State.headCommit_kept {s0 s : State} (h : Kept cwr s0 s) (r : RegionId) (isOpen : Bool) (post : List Deferred) : Kept cwr s0 (State.headCommit s r isOpen post) := by
  unfold State.headCommit
  repeat first
    | with_reducible assumption | with_reducible apply State.commit_kept | dsimp only

theorem State.stepDone_kept {s0 s : State} (h : Kept cwr s0 s) (r : RegionId) (k : Nat) (id : Word) : Kept cwr s0 (State.stepDone s r k id) := by
  unfold State.stepDone
  repeat first
    | with_reducible assumption | with_reducible apply State.modRgn_kept | with_reducible apply State.ackReq_kept
    | with_reducible apply State.headCommit_kept | with_reducible apply Kept.ite | split | dsimp only
    | fail_if_no_progress with_reducible apply Kept.update

theorem State.stepAcked_kept {s0 s : State} (h : Kept cwr s0 s) (r : RegionId) (k : Nat) (id : Word) : Kept cwr s0 (State.stepAcked s r k id) := by
  unfold State.stepAcked
  repeat first
    | with_reducible assumption | with_reducible apply State.modRgn_kept | with_reducible apply State.ackReq_kept | split
    | dsimp only | fail_if_no_progress with_reducible apply Kept.update

theorem State.roDone_kept {s0 s : State} (h : Kept cwr s0 s) (r : RegionId) : Kept cwr s0 (State.roDone s r) := by
  unfold State.roDone
  repeat first
    | with_reducible assumption | with_reducible refine Kept.foldl (fun _ _ _ => ?_) ?_
    | with_reducible apply State.stepDone_kept | with_reducible apply Kept.ite | split | dsimp only

theorem State.shutdown_kept {s0 s : State} (h : Kept cwr s0 s) (r : RegionId) : Kept cwr s0 (State.shutdown s r) := by
  unfold State.shutdown
  repeat first
    | with_reducible assumption | with_reducible apply State.rgnCommit_kept | with_reducible apply State.roDone_kept
    | with_reducible refine State.draw_kept (e := by assumption) ?_ .. | with_reducible refine State.draw_fin ?_ ..
    | with_reducible apply Kept.ite | split | dsimp only | fail_if_no_progress with_reducible apply Kept.update

theorem State.rgnSet_kept {s0 s : State} (h : Kept cwr s0 s) (r : RegionId) (us : List RgnUpd) : Kept cwr s0 (State.rgnSet s r us) := by
  unfold State.rgnSet
  repeat first
    | with_reducible assumption | with_reducible refine Kept.foldl (fun _ _ _ => ?_) ?_
    | with_reducible apply State.modRgn_kept | with_reducible apply State.rgnCommit_kept
    | with_reducible apply State.raise_kept | with_reducible apply State.zeroize_kept
    | with_reducible refine State.draw_kept (e := by assumption) ?_ .. | with_reducible refine State.draw_fin ?_ ..
    | with_reducible apply Kept.ite | split | dsimp only

theorem State.adminStep_fin {s0 s : State} (h : Kept cwr s0 s) (r : RegionId) (x : SessId) (w : Writes) (addr : Word) (count : Nat)
    (req : Option (SessId × BitVec 16 × Word)) : Kept cwr s0 (State.adminStep s r x w addr count req).1 := by
  unfold State.adminStep
  repeat first
    | with_reducible assumption | with_reducible apply State.modRgn_kept | with_reducible apply State.commit_kept
    | with_reducible apply Kept.ite | split | dsimp only | fail_if_no_progress with_reducible apply Kept.update

theorem State.adminStep_kept {s0 s s' : State} {o : Option Byte} (h : Kept cwr s0 s) (r : RegionId) (x : SessId) (w : Writes) (addr : Word) (count : Nat)
    (req : Option (SessId × BitVec 16 × Word)) (e : State.adminStep s r x w addr count req = (s', o)) : Kept cwr s0 s' := by
  have g := State.adminStep_fin h r x w addr count req
  rw [e] at g
  exact g

theorem State.runStep_kept {s0 s : State} (h : Kept cwr s0 s) (r : RegionId) (w : Writes) (done : List Deferred) : Kept cwr s0 (State.runStep s r w done) := by
  unfold State.runStep
  repeat first
    | with_reducible assumption | with_reducible refine Kept.foldl (fun _ _ _ => ?_) ?_
    | with_reducible apply State.rgnCommit_kept | with_reducible apply State.beginPass_kept
    | with_reducible refine State.draw_kept (e := by assumption) ?_ .. | with_reducible refine State.draw_fin ?_ ..
    | with_reducible apply Kept.ite | split | dsimp only | fail_if_no_progress with_reducible apply Kept.update

theorem State.stepApply_kept {s0 s : State} (h : Kept cwr s0 s) (r : RegionId) (k : Nat) (id : Word) : Kept cwr s0 (State.stepApply s r k id) := by
  unfold State.stepApply
  repeat first
    | with_reducible assumption | with_reducible apply State.modRgn_kept | with_reducible apply State.stepDone_kept
    | with_reducible apply State.runStep_kept | with_reducible apply Kept.ite | split | dsimp only
    | fail_if_no_progress with_reducible apply Kept.update

theorem State.lockReq_kept {s0 s : State} (h : Kept cwr s0 s) (x : SessId) (epoch : BitVec 16) (seq : Word) (r : RegionId) (lease : Nat) : Kept cwr s0 (State.lockReq s x epoch seq r lease) := by
  unfold State.lockReq
  repeat first
    | with_reducible assumption | with_reducible apply State.modRgn_kept | with_reducible apply State.ackReq_kept
    | with_reducible apply State.ackLock_kept | with_reducible apply State.headCommit_kept | with_reducible apply Kept.ite
    | split | dsimp only | fail_if_no_progress with_reducible apply Kept.update

theorem State.unlockReq_kept {s0 s : State} (h : Kept cwr s0 s) (x : SessId) (epoch : BitVec 16) (seq : Word) (r : RegionId) : Kept cwr s0 (State.unlockReq s x epoch seq r) := by
  unfold State.unlockReq
  repeat first
    | with_reducible assumption | with_reducible apply State.modRgn_kept | with_reducible apply State.ackReq_kept
    | with_reducible apply State.headCommit_kept | with_reducible apply Kept.ite | split | dsimp only
    | fail_if_no_progress with_reducible apply Kept.update

theorem State.resolveLease_kept {s0 s : State} (h : Kept cwr s0 s) (r : RegionId) : Kept cwr s0 (State.resolveLease s r) := by
  unfold State.resolveLease
  repeat first
    | with_reducible assumption | with_reducible apply State.modRgn_kept | with_reducible apply State.rgnCommit_kept
    | with_reducible apply State.headCommit_kept | with_reducible apply State.stepDone_kept
    | with_reducible apply State.runStep_kept | with_reducible apply Kept.ite | split | dsimp only
    | fail_if_no_progress with_reducible apply Kept.update

theorem State.resolved_kept {s0 s : State} (h : Kept cwr s0 s) (r : RegionId) : Kept cwr s0 (State.resolved s r) := by
  unfold State.resolved
  repeat first
    | with_reducible assumption | with_reducible refine Kept.foldl (fun _ _ _ => ?_) ?_
    | with_reducible apply State.modRgn_kept | with_reducible apply State.raise_kept | with_reducible apply State.ackReq_kept
    | with_reducible apply Kept.ite | split | dsimp only | fail_if_no_progress with_reducible apply Kept.update

theorem State.leaseExpires_kept {s0 s : State} (h : Kept cwr s0 s) (r : RegionId) : Kept cwr s0 (State.leaseExpires s r) := by
  unfold State.leaseExpires
  repeat first
    | with_reducible assumption | with_reducible apply State.till_kept | with_reducible apply State.breakLease_kept | split
    | dsimp only | fail_if_no_progress with_reducible apply Kept.update

theorem State.holderStep_kept {s0 s : State} (h : Kept cwr s0 s) (r : RegionId) (w : Writes) (addr : Word) : Kept cwr s0 (State.holderStep s r w addr) := by
  unfold State.holderStep
  repeat first
    | with_reducible assumption | with_reducible refine State.adminStep_kept (e := by assumption) ?_ ..
    | with_reducible refine State.adminStep_fin ?_ .. | with_reducible apply Kept.ite | split | dsimp only

end Sys2Proof.Machine
end

