-- ==== Sys2Proof/Laws/KeptDevice.lean ====
section
/-! SUPPORT. `Kept` (Safety.lean) for the operations of the ledger, the ports, the supervisor, the resets, the registers and the home tiles: each operation keeps what every command must keep. -/

namespace Sys2Proof.Machine

variable {cwr : Prop}

/-! ### Machine/Ledger.lean -/

theorem State.recall_kept {s0 s : State} (h : Kept cwr s0 s) : Kept cwr s0 (State.recall s) := by
  unfold State.recall
  repeat first
    | with_reducible assumption | with_reducible refine Kept.fold3 (fun _ _ _ => ?_) ?_
    | with_reducible refine Kept.foldl (fun _ _ _ => ?_) ?_ | with_reducible apply State.modLdg_kept
    | with_reducible apply State.commit_kept | with_reducible apply State.raise_kept
    | with_reducible refine State.draw_kept (e := by assumption) ?_ .. | with_reducible refine State.draw_fin ?_ ..
    | with_reducible apply Kept.ite | split | dsimp only | fail_if_no_progress with_reducible apply Kept.update

theorem State.tear_kept {s0 s : State} (h : Kept cwr s0 s) (w : CopyWrite) : Kept cwr s0 (State.tear s w) :=
  Kept.foldl (fun s _ g => State.modLdg_kept (s := (s.draw 1).2) (State.draw_fin g 1) _) h

theorem State.cutCommit_kept {s0 s : State} (h : Kept cwr s0 s) : Kept cwr s0 (State.cutCommit s) := by
  unfold State.cutCommit
  repeat first
    | with_reducible assumption | with_reducible refine Kept.foldl (fun _ _ _ => ?_) ?_
    | with_reducible apply State.modLdg_kept | with_reducible apply State.tear_kept
    | with_reducible refine State.drawBool_kept (e := by assumption) ?_ .. | with_reducible refine State.drawBool_fin ?_ ..
    | with_reducible apply Kept.ite | split | dsimp only | fail_if_no_progress with_reducible apply Kept.update

/-! ### Machine/Port.lean -/

theorem State.mile_kept {s0 s : State} (h : Kept cwr s0 s) (m : Nat) : Kept cwr s0 (State.mile s m) := by
  unfold State.mile
  repeat first
    | with_reducible assumption | with_reducible apply State.modClk_kept | with_reducible apply Kept.ite | split | dsimp only
    | fail_if_no_progress with_reducible apply Kept.update

theorem State.setLink_kept {s0 s : State} (h : Kept cwr s0 s) (p : PortId) (j : LinkId) (st : LinkSt) : Kept cwr s0 (State.setLink s p j st) := by
  unfold State.setLink
  repeat first
    | with_reducible assumption | with_reducible apply State.modPort_kept | with_reducible apply State.raise_kept
    | with_reducible apply State.endLink_kept | with_reducible apply Kept.ite | split | dsimp only
    | fail_if_no_progress with_reducible apply Kept.update

theorem State.portStart_kept {s0 s : State} (h : Kept cwr s0 s) (p : PortId) : Kept cwr s0 (State.portStart s p) := by
  unfold State.portStart
  repeat first
    | with_reducible assumption | with_reducible refine Kept.foldl (fun _ _ _ => ?_) ?_
    | with_reducible apply State.modPort_kept | with_reducible apply State.setLink_kept | with_reducible apply Kept.ite | split
    | dsimp only | fail_if_no_progress with_reducible apply Kept.update

theorem State.portStop_kept {s0 s : State} (h : Kept cwr s0 s) (p : PortId) : Kept cwr s0 (State.portStop s p) := by
  unfold State.portStop
  repeat first
    | with_reducible assumption | with_reducible refine Kept.foldl (fun _ _ _ => ?_) ?_
    | with_reducible apply State.modPort_kept | with_reducible apply State.setLink_kept | with_reducible apply Kept.ite | split
    | dsimp only | fail_if_no_progress with_reducible apply Kept.update

theorem State.portDark_kept {s0 s : State} (h : Kept cwr s0 s) (p : PortId) : Kept cwr s0 (State.portDark s p) := by
  unfold State.portDark
  repeat first
    | with_reducible assumption | with_reducible refine Kept.foldl (fun _ _ _ => ?_) ?_
    | with_reducible apply State.modPort_kept | with_reducible apply State.setLink_kept | dsimp only
    | fail_if_no_progress with_reducible apply Kept.update

theorem State.portOn1_kept {s0 s : State} (h : Kept cwr s0 s) (p : PortId) (v : Word) : Kept cwr s0 (State.portOn1 s p v) := by
  unfold State.portOn1
  repeat first
    | with_reducible assumption | with_reducible apply State.modPort_kept | with_reducible apply State.portStart_kept
    | with_reducible apply Kept.ite | split | dsimp only | fail_if_no_progress with_reducible apply Kept.update

theorem State.portOff1_kept {s0 s : State} (h : Kept cwr s0 s) (p : PortId) (v : Word) : Kept cwr s0 (State.portOff1 s p v) := by
  unfold State.portOff1
  repeat first
    | with_reducible assumption | with_reducible apply State.modPort_kept | with_reducible apply State.portStop_kept
    | dsimp only

theorem State.hitPends_kept {s0 s : State} (h : Kept cwr s0 s) (p : Nat → Bool) : Kept cwr s0 (State.hitPends s p) := by
  unfold State.hitPends
  repeat first
    | with_reducible assumption | with_reducible apply State.modClk_kept | with_reducible apply Kept.ite | split | dsimp only
    | fail_if_no_progress with_reducible apply Kept.update

theorem State.portClear_kept {s0 s : State} (h : Kept cwr s0 s) (p : PortId) : Kept cwr s0 (State.portClear s p) := by
  unfold State.portClear
  repeat first
    | with_reducible assumption | with_reducible refine Kept.foldl (fun _ _ _ => ?_) ?_
    | with_reducible apply State.modPort_kept | with_reducible apply State.setLink_kept
    | with_reducible apply State.portStart_kept | with_reducible apply State.hitPends_kept | dsimp only
    | fail_if_no_progress with_reducible apply Kept.update

theorem State.portRst_kept {s0 s : State} (h : Kept cwr s0 s) (p : PortId) : Kept cwr s0 (State.portRst s p) := by
  unfold State.portRst
  repeat first
    | with_reducible assumption | with_reducible apply State.modPort_kept | with_reducible apply State.portClear_kept
    | with_reducible apply Kept.ite | split | dsimp only | fail_if_no_progress with_reducible apply Kept.update

theorem State.portStopped_kept {s0 s : State} (h : Kept cwr s0 s) (p : PortId) : Kept cwr s0 (State.portStopped s p) := by
  unfold State.portStopped
  repeat first
    | with_reducible assumption | with_reducible refine Kept.foldl (fun _ _ _ => ?_) ?_
    | with_reducible apply State.modPort_kept | with_reducible apply State.setLink_kept
    | with_reducible apply State.portStart_kept | with_reducible apply State.portClear_kept | with_reducible apply Kept.ite
    | split | dsimp only | fail_if_no_progress with_reducible apply Kept.update

theorem State.trained_kept {s0 s : State} (h : Kept cwr s0 s) (p : PortId) (j : LinkId) : Kept cwr s0 (State.trained s p j) := by
  unfold State.trained
  repeat first
    | with_reducible assumption | with_reducible apply State.mile_kept | with_reducible apply State.setLink_kept
    | with_reducible apply Kept.ite | split | dsimp only

theorem State.lostLink_kept {s0 s : State} (h : Kept cwr s0 s) (p : PortId) (j : LinkId) : Kept cwr s0 (State.lostLink s p j) := by
  unfold State.lostLink
  repeat first
    | with_reducible assumption | with_reducible apply State.setLink_kept | with_reducible apply Kept.ite | split | dsimp only

/-! ### Machine/Life.lean -/

theorem State.rollToken_kept {s0 s : State} (h : Kept cwr s0 s) (t : TileId) : Kept cwr s0 (State.rollToken s t) := by
  unfold State.rollToken
  repeat first
    | with_reducible assumption | with_reducible apply State.modXlt_kept
    | with_reducible refine State.draw_kept (e := by assumption) ?_ .. | with_reducible refine State.draw_fin ?_ .. | split
    | dsimp only | fail_if_no_progress with_reducible apply Kept.update

theorem State.quiesce_kept {s0 s : State} (h : Kept cwr s0 s) (hw : cwr) (t : TileId) : Kept cwr s0 (State.quiesce s t) := by
  unfold State.quiesce
  repeat first
    | with_reducible assumption | with_reducible refine Kept.foldl (fun _ _ _ => ?_) ?_
    | with_reducible apply State.modSch_kept | with_reducible apply State.modDie_kept | with_reducible apply State.unbind_kept
    | with_reducible apply State.abandon_kept | with_reducible apply State.endErase_kept
    | with_reducible apply State.applyChange_kept | with_reducible apply State.programmed_kept | with_reducible apply Kept.ite
    | split | dsimp only | fail_if_no_progress with_reducible apply Kept.update

theorem State.settleTile_kept {s0 s : State} (h : Kept cwr s0 s) (t : TileId) : Kept cwr s0 (State.settleTile s t) := by
  unfold State.settleTile
  repeat first
    | with_reducible assumption | with_reducible apply State.modTile_kept | dsimp only
    | fail_if_no_progress with_reducible apply Kept.update

theorem State.tileFault_kept {s0 s : State} (h : Kept cwr s0 s) (hw : cwr) (t : TileId) (cause : Byte) : Kept cwr s0 (State.tileFault s t cause) := by
  unfold State.tileFault
  repeat first
    | with_reducible assumption | with_reducible refine Kept.foldl (fun _ _ _ => ?_) ?_
    | with_reducible apply State.modTile_kept | with_reducible apply State.modCtl_kept | with_reducible apply State.modAdm_kept
    | with_reducible apply State.modSch_kept | with_reducible apply State.raise_kept
    | with_reducible apply State.dropLogic_kept | with_reducible apply State.failPending_kept
    | with_reducible apply State.hitPends_kept | with_reducible apply State.portRst_kept
    | with_reducible apply State.quiesce_kept | with_reducible apply Kept.ite | split | dsimp only
    | fail_if_no_progress with_reducible apply Kept.update

theorem State.replayed_kept {s0 s : State} (h : Kept cwr s0 s) (t : TileId) : Kept cwr s0 (State.replayed s t) := by
  unfold State.replayed
  repeat first
    | with_reducible assumption | with_reducible apply State.modCtl_kept | with_reducible apply State.serveWaiting_kept
    | with_reducible apply State.replayTile_kept | with_reducible apply Kept.ite | split | dsimp only
    | fail_if_no_progress with_reducible apply Kept.update

theorem State.stopPorts_kept {s0 s : State} (h : Kept cwr s0 s) (t : TileId) : Kept cwr s0 (State.stopPorts s t) := by
  unfold State.stopPorts
  repeat first
    | with_reducible assumption | with_reducible refine Kept.foldl (fun _ _ _ => ?_) ?_
    | with_reducible apply State.modCtl_kept | with_reducible apply State.portStop_kept | dsimp only
    | fail_if_no_progress with_reducible apply Kept.update

theorem State.packTile_kept {s0 s : State} (h : Kept cwr s0 s) (t : TileId) (cause : BitVec 4) : Kept cwr s0 (State.packTile s t cause) := by
  unfold State.packTile
  repeat first
    | with_reducible assumption | with_reducible apply State.modCtl_kept | dsimp only
    | fail_if_no_progress with_reducible apply Kept.update

theorem State.tileStop_kept {s0 s : State} (h : Kept cwr s0 s) (t : TileId) : Kept cwr s0 (State.tileStop s t) := by
  unfold State.tileStop
  repeat first
    | with_reducible assumption | with_reducible apply State.modCtl_kept | with_reducible apply State.stopPorts_kept
    | with_reducible apply State.packTile_kept | with_reducible apply Kept.ite | split | dsimp only
    | fail_if_no_progress with_reducible apply Kept.update

theorem State.beginDrain_kept {s0 s : State} (h : Kept cwr s0 s) (hw : cwr) (t : TileId) : Kept cwr s0 (State.beginDrain s t) := by
  unfold State.beginDrain
  repeat first
    | with_reducible assumption | with_reducible apply State.modCtl_kept | with_reducible apply State.modAdm_kept
    | with_reducible apply State.modSch_kept | with_reducible apply State.dropLogic_kept
    | with_reducible apply State.quiesce_kept | with_reducible apply State.settleTile_kept
    | with_reducible apply State.stopPorts_kept | with_reducible apply Kept.ite | split | dsimp only
    | fail_if_no_progress with_reducible apply Kept.update

theorem State.writeCairn_kept {s0 s : State} (h : Kept cwr s0 s) (t : TileId) : Kept cwr s0 (State.writeCairn s t) := by
  unfold State.writeCairn
  repeat first
    | with_reducible assumption | with_reducible apply State.modMedium_kept | exact fun _ w => w | exact fun _ _ => rfl
    | dsimp only | fail_if_no_progress with_reducible apply Kept.update

theorem State.drainRecord_kept {s0 s : State} (h : Kept cwr s0 s) (t : TileId) (kind : BitVec 2) (run : BitVec 64) : Kept cwr s0 (State.drainRecord s t kind run) := by
  unfold State.drainRecord
  repeat first
    | with_reducible assumption | with_reducible apply State.modLdg_kept | with_reducible apply State.modCtl_kept
    | with_reducible apply State.commit_kept | dsimp only | fail_if_no_progress with_reducible apply Kept.update

theorem State.requestRecord_kept {s0 s : State} (h : Kept cwr s0 s) (t : TileId) : Kept cwr s0 (State.requestRecord s t) := by
  unfold State.requestRecord
  repeat first
    | with_reducible assumption | with_reducible apply State.lastCheckpoint_kept | with_reducible apply State.writeCairn_kept
    | with_reducible apply State.drainRecord_kept | with_reducible apply Kept.ite | split | dsimp only

theorem State.ageLost_kept {s0 s : State} (h : Kept cwr s0 s) (t : TileId) : Kept cwr s0 (State.ageLost s t) := by
  unfold State.ageLost
  repeat first
    | with_reducible assumption | with_reducible apply State.modThm_kept | with_reducible apply State.enterUnknown_kept
    | with_reducible apply Kept.ite | split | dsimp only | fail_if_no_progress with_reducible apply Kept.update

theorem State.restartTile_kept {s0 s : State} (h : Kept cwr s0 s) (t : TileId) : Kept cwr s0 (State.restartTile s t) := by
  unfold State.restartTile
  repeat first
    | with_reducible assumption | with_reducible apply State.modCtl_kept | with_reducible apply State.modSch_kept
    | with_reducible apply State.ageLost_kept | dsimp only | fail_if_no_progress with_reducible apply Kept.update

theorem State.tileStart_kept {s0 s : State} (h : Kept cwr s0 s) (t : TileId) : Kept cwr s0 (State.tileStart s t) := by
  unfold State.tileStart
  repeat first
    | with_reducible assumption | with_reducible apply State.modCtl_kept | with_reducible apply State.restartTile_kept
    | with_reducible apply Kept.ite | split | dsimp only | fail_if_no_progress with_reducible apply Kept.update

theorem State.tileStopped_kept {s0 s : State} (h : Kept cwr s0 s) (t : TileId) : Kept cwr s0 (State.tileStopped s t) := by
  unfold State.tileStopped
  repeat first
    | with_reducible assumption | with_reducible apply State.modCtl_kept | with_reducible apply State.modSch_kept
    | with_reducible apply State.restartTile_kept | with_reducible apply Kept.ite | split | dsimp only
    | fail_if_no_progress with_reducible apply Kept.update

theorem State.engineDark_kept {s0 s : State} (h : Kept cwr s0 s) (hw : cwr) (t : TileId) : Kept cwr s0 (State.engineDark s t) := by
  unfold State.engineDark
  repeat first
    | with_reducible assumption | with_reducible apply State.modSch_kept | with_reducible apply State.quiesce_kept | dsimp only
    | fail_if_no_progress with_reducible apply Kept.update

theorem State.sramLost_kept {s0 s : State} (h : Kept cwr s0 s) (hw : cwr) (t : TileId) : Kept cwr s0 (State.sramLost s t) := by
  unfold State.sramLost
  repeat first
    | with_reducible assumption | with_reducible apply State.modTile_kept | with_reducible apply State.settleTile_kept
    | with_reducible apply State.engineDark_kept | dsimp only | fail_if_no_progress with_reducible apply Kept.update

theorem State.logicLost_kept {s0 s : State} (h : Kept cwr s0 s) (hw : cwr) (t : TileId) : Kept cwr s0 (State.logicLost s t) := by
  unfold State.logicLost
  repeat first
    | with_reducible assumption | with_reducible apply State.dropLogic_kept | with_reducible apply State.engineDark_kept
    | dsimp only

theorem State.resyncSlot_kept {s0 s : State} (h : Kept cwr s0 s) (t : TileId) (slot : Nat) : Kept cwr s0 (State.resyncSlot s t slot) := by
  unfold State.resyncSlot
  repeat first
    | with_reducible assumption | with_reducible refine Kept.fold3 (fun _ _ _ => ?_) ?_
    | with_reducible refine Kept.foldl (fun _ _ _ => ?_) ?_ | with_reducible apply State.modSec_kept
    | with_reducible apply State.addLost_kept | with_reducible apply Kept.ite | split | dsimp only
    | fail_if_no_progress with_reducible apply Kept.update

theorem State.resync_kept {s0 s : State} (h : Kept cwr s0 s) (t : TileId) : Kept cwr s0 (State.resync s t) := by
  unfold State.resync
  repeat first
    | with_reducible assumption | with_reducible refine Kept.foldl (fun _ _ _ => ?_) ?_
    | with_reducible apply State.resyncSlot_kept | dsimp only

theorem State.tellUnclean_kept {s0 s : State} (h : Kept cwr s0 s) (t : TileId) : Kept cwr s0 (State.tellUnclean s t) := by
  unfold State.tellUnclean
  repeat first
    | with_reducible assumption | with_reducible refine Kept.foldl (fun _ _ _ => ?_) ?_
    | with_reducible apply State.modSup_kept | with_reducible apply State.modCtl_kept | with_reducible apply State.raise_kept
    | dsimp only | fail_if_no_progress with_reducible apply Kept.update

theorem State.takeRoot_kept {s0 s : State} (h : Kept cwr s0 s) (t : TileId) : Kept cwr s0 (State.takeRoot s t) := by
  unfold State.takeRoot
  repeat first
    | with_reducible assumption | with_reducible apply State.modSec_kept | with_reducible apply State.addLost_kept | split
    | dsimp only | fail_if_no_progress with_reducible apply Kept.update

theorem State.takeCairn_kept {s0 s : State} (h : Kept cwr s0 s) (t : TileId) : Kept cwr s0 (State.takeCairn s t) := by
  unfold State.takeCairn
  repeat first
    | with_reducible assumption | with_reducible refine Kept.foldl (fun _ _ _ => ?_) ?_
    | with_reducible apply State.modTile_kept | with_reducible apply State.modSec_kept | with_reducible apply Kept.ite | split
    | dsimp only | fail_if_no_progress with_reducible apply Kept.update

theorem State.takeCheckpoint_kept {s0 s : State} (h : Kept cwr s0 s) (t : TileId) : Kept cwr s0 (State.takeCheckpoint s t) := by
  unfold State.takeCheckpoint
  repeat first
    | with_reducible assumption | with_reducible apply State.modTile_kept | with_reducible apply State.takeRoot_kept
    | dsimp only | fail_if_no_progress with_reducible apply Kept.update

theorem State.performRecovery_kept {s0 s : State} (h : Kept cwr s0 s) (t : TileId) (r : BitVec 3) : Kept cwr s0 (State.performRecovery s t r) := by
  unfold State.performRecovery
  repeat first
    | with_reducible assumption | with_reducible apply State.modTile_kept | with_reducible apply State.modCtl_kept
    | with_reducible apply State.modXlt_kept | with_reducible apply State.modSec_kept | with_reducible apply State.resync_kept
    | with_reducible apply State.tellUnclean_kept | with_reducible apply State.takeCairn_kept
    | with_reducible apply State.takeCheckpoint_kept | with_reducible apply Kept.ite | split | dsimp only
    | fail_if_no_progress with_reducible apply Kept.update

theorem State.takeUp_kept {s0 s : State} (h : Kept cwr s0 s) (t : TileId) : Kept cwr s0 (State.takeUp s t) := by
  unfold State.takeUp
  repeat first
    | with_reducible assumption | with_reducible apply State.performRecovery_kept | with_reducible apply Kept.ite | split
    | dsimp only

theorem State.drainTile_kept {s0 s : State} (h : Kept cwr s0 s) (hw : cwr) (t : TileId) : Kept cwr s0 (State.drainTile s t) := by
  unfold State.drainTile
  repeat first
    | with_reducible assumption | with_reducible apply State.beginDrain_kept | with_reducible apply State.takeUp_kept
    | dsimp only

theorem State.recoverTile_kept {s0 s : State} (h : Kept cwr s0 s) (t : TileId) : Kept cwr s0 (State.recoverTile s t) := by
  unfold State.recoverTile
  repeat first
    | with_reducible assumption | with_reducible refine Kept.foldl (fun _ _ _ => ?_) ?_
    | with_reducible apply State.modCtl_kept | with_reducible apply State.commit_kept | with_reducible apply State.raise_kept
    | with_reducible apply State.bgFetch_kept | with_reducible apply State.mapLost_kept
    | with_reducible apply State.lastCheckpoint_kept | with_reducible apply State.zeroTile_kept
    | with_reducible apply State.performRecovery_kept | with_reducible apply Kept.ite | split | dsimp only
    | fail_if_no_progress with_reducible apply Kept.update

theorem State.openTile_kept {s0 s : State} (h : Kept cwr s0 s) (t : TileId) : Kept cwr s0 (State.openTile s t) := by
  unfold State.openTile
  repeat first
    | with_reducible assumption | with_reducible refine Kept.foldl (fun _ _ _ => ?_) ?_
    | with_reducible apply State.modMedium_kept | with_reducible apply State.modCtl_kept | with_reducible apply State.mile_kept
    | with_reducible apply State.portStart_kept | with_reducible apply State.stopPorts_kept
    | with_reducible apply State.packTile_kept | with_reducible apply Kept.ite | split | exact fun _ w => w
    | exact fun _ _ => rfl | dsimp only | fail_if_no_progress with_reducible apply Kept.update

theorem State.admitTile_kept {s0 s : State} (h : Kept cwr s0 s) (t : TileId) : Kept cwr s0 (State.admitTile s t) := by
  unfold State.admitTile
  repeat first
    | with_reducible assumption | with_reducible refine Kept.foldl (fun _ _ _ => ?_) ?_
    | with_reducible apply State.modLdg_kept | with_reducible apply State.modCtl_kept | with_reducible apply State.commit_kept
    | with_reducible apply State.portStart_kept | with_reducible apply State.openTile_kept | with_reducible apply Kept.ite
    | split | dsimp only | fail_if_no_progress with_reducible apply Kept.update

/-! ### Machine/Supervisor.lean -/

theorem State.modRail_kept {s0 s : State} (h : Kept cwr s0 s) (x : RailId) (f : Rail → Rail) : Kept cwr s0 (State.modRail s x f) := by
  unfold State.modRail
  repeat first
    | with_reducible assumption | with_reducible apply State.modSup_kept | dsimp only

theorem State.modDom_kept {s0 s : State} (h : Kept cwr s0 s) (d : DomainId) (f : Dom → Dom) : Kept cwr s0 (State.modDom s d f) := by
  unfold State.modDom
  repeat first
    | with_reducible assumption | with_reducible apply State.modSup_kept | dsimp only

theorem State.domDark_kept {s0 s : State} (h : Kept cwr s0 s) (hw : cwr) (d : DomainId) : Kept cwr s0 (State.domDark s d) := by
  unfold State.domDark
  repeat first
    | with_reducible assumption | with_reducible refine Kept.foldl (fun _ _ _ => ?_) ?_
    | with_reducible apply State.modThm_kept | with_reducible apply State.endSession_kept
    | with_reducible apply State.forgetEnr_kept | with_reducible apply State.portDark_kept
    | with_reducible apply State.logicLost_kept | with_reducible apply Kept.ite | split | dsimp only
    | fail_if_no_progress with_reducible apply Kept.update

theorem State.domLost_kept {s0 s : State} (h : Kept cwr s0 s) (hw : cwr) (d : DomainId) : Kept cwr s0 (State.domLost s d) := by
  unfold State.domLost
  repeat first
    | with_reducible assumption | with_reducible apply State.sramLost_kept | with_reducible apply State.modDom_kept
    | with_reducible apply State.domDark_kept | with_reducible apply Kept.ite | split | dsimp only
    | fail_if_no_progress with_reducible apply Kept.update

theorem State.domStarted_kept {s0 s : State} (h : Kept cwr s0 s) (hw : cwr) (d : DomainId) : Kept cwr s0 (State.domStarted s d) := by
  unfold State.domStarted
  repeat first
    | with_reducible assumption | with_reducible refine Kept.foldl (fun _ _ _ => ?_) ?_
    | with_reducible apply State.portRst_kept | with_reducible apply State.tileFault_kept
    | with_reducible apply State.modDom_kept | with_reducible apply Kept.ite | split | dsimp only
    | fail_if_no_progress with_reducible apply Kept.update

theorem State.stopDom_kept {s0 s : State} (h : Kept cwr s0 s) (hw : cwr) (d : DomainId) : Kept cwr s0 (State.stopDom s d) := by
  unfold State.stopDom
  repeat first
    | with_reducible assumption | with_reducible apply State.modDom_kept | with_reducible apply State.domDark_kept | split
    | dsimp only | fail_if_no_progress with_reducible apply Kept.update

theorem State.seqGoOn_kept {s0 s : State} (h : Kept cwr s0 s) : Kept cwr s0 (State.seqGoOn s) := by
  unfold State.seqGoOn
  repeat first
    | with_reducible assumption | with_reducible apply State.modSup_kept | with_reducible apply Kept.ite | split | dsimp only

theorem State.seqEnable_kept {s0 s : State} (h : Kept cwr s0 s) : Kept cwr s0 (State.seqEnable s) := by
  unfold State.seqEnable
  repeat first
    | with_reducible assumption | with_reducible refine Kept.foldl (fun _ _ _ => ?_) ?_
    | with_reducible apply State.modRail_kept | with_reducible apply State.seqGoOn_kept | with_reducible apply Kept.ite | split
    | dsimp only | fail_if_no_progress with_reducible apply Kept.update

theorem State.railDown_kept {s0 s : State} (h : Kept cwr s0 s) (hw : cwr) (x : RailId) : Kept cwr s0 (State.railDown s x) := by
  unfold State.railDown
  repeat first
    | with_reducible assumption | with_reducible refine Kept.foldl (fun _ _ _ => ?_) ?_
    | with_reducible apply State.modRail_kept | with_reducible apply State.modDom_kept
    | with_reducible apply State.domLost_kept | with_reducible apply Kept.ite | split | dsimp only
    | fail_if_no_progress with_reducible apply Kept.update

theorem State.seqDisable_kept {s0 s : State} (h : Kept cwr s0 s) (hw : cwr) : Kept cwr s0 (State.seqDisable s) := by
  unfold State.seqDisable
  repeat first
    | with_reducible assumption | with_reducible refine Kept.foldl (fun _ _ _ => ?_) ?_
    | with_reducible apply State.modSup_kept | with_reducible apply State.stopDom_kept
    | with_reducible apply State.seqGoOn_kept | with_reducible apply State.railDown_kept | with_reducible apply Kept.ite
    | split | dsimp only | fail_if_no_progress with_reducible apply Kept.update

theorem State.seqWait_kept {s0 s : State} (h : Kept cwr s0 s) : Kept cwr s0 (State.seqWait s) := by
  unfold State.seqWait
  repeat first
    | with_reducible assumption | with_reducible apply State.modSup_kept | with_reducible apply Kept.ite | split | dsimp only
    | fail_if_no_progress with_reducible apply Kept.update

theorem State.waitEnds_kept {s0 s : State} (h : Kept cwr s0 s) : Kept cwr s0 (State.waitEnds s) := by
  unfold State.waitEnds
  repeat first
    | with_reducible assumption | with_reducible apply State.modSup_kept | with_reducible apply State.till_kept
    | with_reducible apply Kept.ite | split | dsimp only

theorem State.seqCheck_kept {s0 s : State} (h : Kept cwr s0 s) : Kept cwr s0 (State.seqCheck s) := by
  unfold State.seqCheck
  repeat first
    | with_reducible assumption | with_reducible apply State.modSup_kept | with_reducible apply State.modRail_kept
    | with_reducible apply Kept.ite | split | dsimp only | fail_if_no_progress with_reducible apply Kept.update

theorem State.seqJump_kept {s0 s : State} (h : Kept cwr s0 s) : Kept cwr s0 (State.seqJump s) := by
  unfold State.seqJump
  repeat first
    | with_reducible assumption | with_reducible apply State.modSup_kept | with_reducible apply Kept.ite | split | dsimp only
    | fail_if_no_progress with_reducible apply Kept.update

theorem State.seqMark_kept {s0 s : State} (h : Kept cwr s0 s) : Kept cwr s0 (State.seqMark s) := by
  unfold State.seqMark
  repeat first
    | with_reducible assumption | with_reducible apply State.modSup_kept | with_reducible apply Kept.ite | split | dsimp only
    | fail_if_no_progress with_reducible apply Kept.update

theorem State.retryFalls_kept {s0 s : State} (h : Kept cwr s0 s) (hw : cwr) : Kept cwr s0 (State.retryFalls s) := by
  unfold State.retryFalls
  repeat first
    | with_reducible assumption | with_reducible apply State.modSup_kept | with_reducible apply State.modRail_kept
    | with_reducible apply State.railDown_kept | with_reducible apply Kept.ite | split | dsimp only
    | fail_if_no_progress with_reducible apply Kept.update

theorem State.retryDown_kept {s0 s : State} (h : Kept cwr s0 s) (hw : cwr) (x : RailId) : Kept cwr s0 (State.retryDown s x) := by
  unfold State.retryDown
  repeat first
    | with_reducible assumption | with_reducible refine Kept.foldl (fun _ _ _ => ?_) ?_
    | with_reducible apply State.modSup_kept | with_reducible apply State.modRail_kept
    | with_reducible apply State.stopDom_kept | with_reducible apply State.retryFalls_kept | dsimp only
    | fail_if_no_progress with_reducible apply Kept.update

theorem State.beginAction_kept {s0 s : State} (h : Kept cwr s0 s) (hw : cwr) (a : Action) : Kept cwr s0 (State.beginAction s a) := by
  unfold State.beginAction
  repeat first
    | with_reducible assumption | with_reducible refine Kept.foldl (fun _ _ _ => ?_) ?_
    | with_reducible apply State.modSup_kept | with_reducible apply State.modRail_kept
    | with_reducible apply State.retryDown_kept | split | dsimp only | fail_if_no_progress with_reducible apply Kept.update

theorem State.askWarm_kept {s0 s : State} (h : Kept cwr s0 s) (cause : BitVec 4) : Kept cwr s0 (State.askWarm s cause) := by
  unfold State.askWarm
  repeat first
    | with_reducible assumption | with_reducible refine Kept.foldl (fun _ _ _ => ?_) ?_
    | with_reducible apply State.modClk_kept | with_reducible apply State.emit_kept | with_reducible apply State.frame_kept
    | with_reducible apply Kept.ite | split | dsimp only | fail_if_no_progress with_reducible apply Kept.update

theorem State.stopEnds_kept {s0 s : State} (h : Kept cwr s0 s) : Kept cwr s0 (State.stopEnds s) := by
  unfold State.stopEnds
  repeat first
    | with_reducible assumption | with_reducible apply State.modSup_kept | dsimp only
    | fail_if_no_progress with_reducible apply Kept.update

theorem State.signalDrain_kept {s0 s : State} (h : Kept cwr s0 s) (hw : cwr) : Kept cwr s0 (State.signalDrain s) := by
  unfold State.signalDrain
  repeat first
    | with_reducible assumption | with_reducible refine Kept.foldl (fun _ _ _ => ?_) ?_
    | with_reducible apply State.modSup_kept | with_reducible apply State.drainTile_kept | dsimp only
    | fail_if_no_progress with_reducible apply Kept.update

theorem State.cleanStop_kept {s0 s : State} (h : Kept cwr s0 s) : Kept cwr s0 (State.cleanStop s) := by
  unfold State.cleanStop
  repeat first
    | with_reducible assumption | with_reducible refine Kept.foldl (fun _ _ _ => ?_) ?_
    | with_reducible apply State.modSup_kept | with_reducible apply State.packTile_kept
    | with_reducible apply State.takeUp_kept | with_reducible apply State.stopEnds_kept | with_reducible apply Kept.ite | split
    | dsimp only | fail_if_no_progress with_reducible apply Kept.update

theorem State.powerUp_kept {s0 s : State} (h : Kept cwr s0 s) : Kept cwr s0 (State.powerUp s) := by
  unfold State.powerUp
  repeat first
    | with_reducible assumption | with_reducible apply State.modSup_kept | with_reducible apply Kept.ite | split | dsimp only
    | fail_if_no_progress with_reducible apply Kept.update

theorem State.offReq_kept {s0 s : State} (h : Kept cwr s0 s) : Kept cwr s0 (State.offReq s) := by
  unfold State.offReq
  repeat first
    | with_reducible assumption | with_reducible apply State.modSup_kept | with_reducible apply State.cleanStop_kept
    | with_reducible apply Kept.ite | split | dsimp only | fail_if_no_progress with_reducible apply Kept.update

theorem State.onReq_kept {s0 s : State} (h : Kept cwr s0 s) : Kept cwr s0 (State.onReq s) := by
  unfold State.onReq
  repeat first
    | with_reducible assumption | with_reducible apply State.modSup_kept | with_reducible apply State.askWarm_kept
    | with_reducible apply State.powerUp_kept | with_reducible apply Kept.ite | split | dsimp only
    | fail_if_no_progress with_reducible apply Kept.update

theorem State.actionEnds_kept {s0 s : State} (h : Kept cwr s0 s) (hw : cwr) : Kept cwr s0 (State.actionEnds s) := by
  unfold State.actionEnds
  repeat first
    | with_reducible assumption | with_reducible refine Kept.foldl (fun _ _ _ => ?_) ?_
    | with_reducible apply State.modSup_kept | with_reducible apply State.beginAction_kept
    | with_reducible apply State.stopEnds_kept | with_reducible apply State.offReq_kept | with_reducible apply State.onReq_kept
    | with_reducible apply Kept.ite | split | dsimp only | fail_if_no_progress with_reducible apply Kept.update

theorem State.railFault_kept {s0 s : State} (h : Kept cwr s0 s) (hw : cwr) (x : RailId) : Kept cwr s0 (State.railFault s x) := by
  unfold State.railFault
  repeat first
    | with_reducible assumption | with_reducible refine Kept.fold1 (fun _ _ _ => ?_) ?_
    | with_reducible refine Kept.foldl (fun _ _ _ => ?_) ?_ | with_reducible apply State.modSup_kept
    | with_reducible apply State.raise_kept | with_reducible apply State.sramLost_kept
    | with_reducible apply State.modRail_kept | with_reducible apply State.beginAction_kept | with_reducible apply Kept.ite
    | split | dsimp only | fail_if_no_progress with_reducible apply Kept.update

theorem State.comeUpFails_kept {s0 s : State} (h : Kept cwr s0 s) (hw : cwr) (x : RailId) (n : Byte) (next : Nat) : Kept cwr s0 (State.comeUpFails s x n next) := by
  unfold State.comeUpFails
  repeat first
    | with_reducible assumption | with_reducible apply State.modSup_kept | with_reducible apply State.modRail_kept
    | with_reducible apply State.railDown_kept | split | dsimp only | fail_if_no_progress with_reducible apply Kept.update

theorem State.pgFalls_kept {s0 s : State} (h : Kept cwr s0 s) (hw : cwr) (x : RailId) (long : Bool) : Kept cwr s0 (State.pgFalls s x long) := by
  unfold State.pgFalls
  repeat first
    | with_reducible assumption | with_reducible apply State.modRail_kept | with_reducible apply State.railFault_kept
    | with_reducible apply State.comeUpFails_kept | with_reducible apply Kept.ite | split | dsimp only
    | fail_if_no_progress with_reducible apply Kept.update

theorem State.pgPulse_kept {s0 s : State} (h : Kept cwr s0 s) (hw : cwr) (x : RailId) (clocks : Nat) : Kept cwr s0 (State.pgPulse s x clocks) := by
  unfold State.pgPulse
  repeat first
    | with_reducible assumption | with_reducible apply State.modRail_kept | with_reducible apply State.pgFalls_kept
    | with_reducible apply Kept.ite | split | dsimp only | fail_if_no_progress with_reducible apply Kept.update

theorem State.retryAgain_kept {s0 s : State} (h : Kept cwr s0 s) (x : RailId) : Kept cwr s0 (State.retryAgain s x) := by
  unfold State.retryAgain
  repeat first
    | with_reducible assumption | with_reducible apply State.modSup_kept | with_reducible apply State.till_kept
    | with_reducible apply State.modRail_kept | with_reducible apply Kept.ite | split | dsimp only
    | fail_if_no_progress with_reducible apply Kept.update

theorem State.retryEnds_kept {s0 s : State} (h : Kept cwr s0 s) (hw : cwr) : Kept cwr s0 (State.retryEnds s) := by
  unfold State.retryEnds
  repeat first
    | with_reducible assumption | with_reducible apply State.actionEnds_kept | with_reducible apply Kept.ite | split
    | dsimp only | fail_if_no_progress with_reducible apply Kept.update

theorem State.retryPasses_kept {s0 s : State} (h : Kept cwr s0 s) (hw : cwr) (x : RailId) (n : Byte) : Kept cwr s0 (State.retryPasses s x n) := by
  unfold State.retryPasses
  repeat first
    | with_reducible assumption | with_reducible refine Kept.foldl (fun _ _ _ => ?_) ?_
    | with_reducible apply State.modSup_kept | with_reducible apply State.till_kept | with_reducible apply State.raise_kept
    | with_reducible apply State.modRail_kept | with_reducible apply State.retryEnds_kept | with_reducible apply Kept.ite
    | split | dsimp only | fail_if_no_progress with_reducible apply Kept.update

theorem State.retryFails_kept {s0 s : State} (h : Kept cwr s0 s) (hw : cwr) (x : RailId) (n : Byte) : Kept cwr s0 (State.retryFails s x n) := by
  unfold State.retryFails
  repeat first
    | with_reducible assumption | with_reducible apply State.till_kept | with_reducible apply State.modRail_kept
    | with_reducible apply State.retryDown_kept | with_reducible apply State.beginAction_kept | split | dsimp only
    | fail_if_no_progress with_reducible apply Kept.update

theorem State.vgpioUp_kept {s0 s : State} (h : Kept cwr s0 s) : Kept cwr s0 (State.vgpioUp s) := by
  unfold State.vgpioUp
  repeat first
    | with_reducible assumption | with_reducible apply State.modLdg_kept | with_reducible apply State.commit_kept | dsimp only
    | fail_if_no_progress with_reducible apply Kept.update

theorem State.preludePasses_kept {s0 s : State} (h : Kept cwr s0 s) (n : Byte) : Kept cwr s0 (State.preludePasses s n) := by
  unfold State.preludePasses
  repeat first
    | with_reducible assumption | with_reducible apply State.modSup_kept | with_reducible apply State.raise_kept
    | with_reducible apply State.till_kept | with_reducible apply State.modRail_kept | with_reducible apply State.vgpioUp_kept
    | with_reducible apply Kept.ite | split | dsimp only | fail_if_no_progress with_reducible apply Kept.update

theorem State.preludeFails_kept {s0 s : State} (h : Kept cwr s0 s) (n : Byte) : Kept cwr s0 (State.preludeFails s n) := by
  unfold State.preludeFails
  repeat first
    | with_reducible assumption | with_reducible apply State.modSup_kept | with_reducible apply State.till_kept
    | with_reducible apply State.modRail_kept | dsimp only | fail_if_no_progress with_reducible apply Kept.update

theorem State.checkPasses_kept {s0 s : State} (h : Kept cwr s0 s) (hw : cwr) (n : Byte) : Kept cwr s0 (State.checkPasses s n) := by
  unfold State.checkPasses
  repeat first
    | with_reducible assumption | with_reducible apply State.modSup_kept | with_reducible apply State.raise_kept
    | with_reducible apply State.till_kept | with_reducible apply State.modRail_kept
    | with_reducible apply State.retryPasses_kept | with_reducible apply State.preludePasses_kept
    | with_reducible apply Kept.ite | split | dsimp only | fail_if_no_progress with_reducible apply Kept.update

theorem State.checkFails_kept {s0 s : State} (h : Kept cwr s0 s) (hw : cwr) (n : Byte) : Kept cwr s0 (State.checkFails s n) := by
  unfold State.checkFails
  repeat first
    | with_reducible assumption | with_reducible apply State.modSup_kept | with_reducible apply State.till_kept
    | with_reducible apply State.modRail_kept | with_reducible apply State.comeUpFails_kept
    | with_reducible apply State.retryFails_kept | with_reducible apply State.preludeFails_kept | with_reducible apply Kept.ite
    | split | dsimp only | fail_if_no_progress with_reducible apply Kept.update

theorem State.systemDown_kept {s0 s : State} (h : Kept cwr s0 s) (drained : Bool) : Kept cwr s0 (State.systemDown s drained) := by
  unfold State.systemDown
  repeat first
    | with_reducible assumption | with_reducible refine Kept.foldl (fun _ _ _ => ?_) ?_
    | with_reducible apply State.modSup_kept | with_reducible apply State.modRail_kept | dsimp only
    | fail_if_no_progress with_reducible apply Kept.update

theorem State.systemBegins_kept {s0 s : State} (h : Kept cwr s0 s) (hw : cwr) : Kept cwr s0 (State.systemBegins s) := by
  unfold State.systemBegins
  repeat first
    | with_reducible assumption | with_reducible apply State.modSup_kept | with_reducible apply State.signalDrain_kept
    | with_reducible apply State.systemDown_kept | with_reducible apply Kept.ite | split | dsimp only
    | fail_if_no_progress with_reducible apply Kept.update

theorem State.dropDrain_kept {s0 s : State} (h : Kept cwr s0 s) (t : TileId) : Kept cwr s0 (State.dropDrain s t) := by
  unfold State.dropDrain
  repeat first
    | with_reducible assumption | with_reducible apply State.modLdg_kept | with_reducible apply State.modCtl_kept | split
    | dsimp only | fail_if_no_progress with_reducible apply Kept.update

theorem State.systemTimeout_kept {s0 s : State} (h : Kept cwr s0 s) : Kept cwr s0 (State.systemTimeout s) := by
  unfold State.systemTimeout
  repeat first
    | with_reducible assumption | with_reducible refine Kept.foldl (fun _ _ _ => ?_) ?_ | with_reducible apply State.till_kept
    | with_reducible apply State.systemDown_kept | with_reducible apply State.dropDrain_kept | with_reducible apply Kept.ite
    | split | dsimp only | fail_if_no_progress with_reducible apply Kept.update

theorem State.seqEnd_kept {s0 s : State} (h : Kept cwr s0 s) (hw : cwr) : Kept cwr s0 (State.seqEnd s) := by
  unfold State.seqEnd
  repeat first
    | with_reducible assumption | with_reducible refine Kept.foldl (fun _ _ _ => ?_) ?_
    | with_reducible apply State.modSup_kept | with_reducible apply State.raise_kept | with_reducible apply State.mile_kept
    | with_reducible apply State.actionEnds_kept | with_reducible apply Kept.ite | split | dsimp only
    | fail_if_no_progress with_reducible apply Kept.update

theorem State.offTimeEnds_kept {s0 s : State} (h : Kept cwr s0 s) : Kept cwr s0 (State.offTimeEnds s) := by
  unfold State.offTimeEnds
  repeat first
    | with_reducible assumption | with_reducible apply State.modSup_kept | with_reducible apply State.till_kept
    | with_reducible apply State.askWarm_kept | with_reducible apply Kept.ite | split | dsimp only
    | fail_if_no_progress with_reducible apply Kept.update

theorem State.pwrfailFalls_kept {s0 s : State} (h : Kept cwr s0 s) (hw : cwr) (clocks : Nat) : Kept cwr s0 (State.pwrfailFalls s clocks) := by
  unfold State.pwrfailFalls
  repeat first
    | with_reducible assumption | with_reducible apply State.modSup_kept | with_reducible apply State.modLdg_kept
    | with_reducible apply State.signalDrain_kept | with_reducible apply Kept.ite | split | dsimp only
    | fail_if_no_progress with_reducible apply Kept.update

theorem State.pwrfailRises_kept {s0 s : State} (h : Kept cwr s0 s) : Kept cwr s0 (State.pwrfailRises s) := by
  unfold State.pwrfailRises
  repeat first
    | with_reducible assumption | with_reducible apply State.modSup_kept | with_reducible apply State.modLdg_kept
    | with_reducible apply Kept.ite | split | dsimp only | fail_if_no_progress with_reducible apply Kept.update

theorem State.finalRecord_kept {s0 s : State} (h : Kept cwr s0 s) : Kept cwr s0 (State.finalRecord s) := by
  unfold State.finalRecord
  repeat first
    | with_reducible assumption | with_reducible apply State.modSup_kept | with_reducible apply State.modLdg_kept
    | with_reducible apply State.commit_kept | with_reducible apply Kept.ite | split | dsimp only
    | fail_if_no_progress with_reducible apply Kept.update

theorem State.vaonWarns_kept {s0 s : State} (h : Kept cwr s0 s) : Kept cwr s0 (State.vaonWarns s) := by
  unfold State.vaonWarns
  repeat first
    | with_reducible assumption | with_reducible apply State.modSup_kept | with_reducible apply State.modLdg_kept
    | with_reducible apply State.finalRecord_kept | with_reducible apply Kept.ite | split | dsimp only
    | fail_if_no_progress with_reducible apply Kept.update

theorem State.drainOver_kept {s0 s : State} (h : Kept cwr s0 s) : Kept cwr s0 (State.drainOver s) := by
  unfold State.drainOver
  repeat first
    | with_reducible assumption | with_reducible apply State.modSup_kept | with_reducible apply Kept.ite | split | dsimp only

theorem State.recordSeen_kept {s0 s : State} (h : Kept cwr s0 s) (t : TileId) (kind : BitVec 2) : Kept cwr s0 (State.recordSeen s t kind) := by
  unfold State.recordSeen
  repeat first
    | with_reducible assumption | with_reducible apply State.modSup_kept | with_reducible apply State.modCtl_kept
    | with_reducible apply State.tileStopped_kept | with_reducible apply State.stopEnds_kept
    | with_reducible apply State.systemDown_kept | with_reducible apply State.drainOver_kept | with_reducible apply Kept.ite
    | split | dsimp only | fail_if_no_progress with_reducible apply Kept.update

theorem State.cleanStopLate_kept {s0 s : State} (h : Kept cwr s0 s) (hw : cwr) (t : TileId) : Kept cwr s0 (State.cleanStopLate s t) := by
  unfold State.cleanStopLate
  repeat first
    | with_reducible assumption | with_reducible apply State.till_kept | with_reducible apply State.drainTile_kept
    | with_reducible apply Kept.ite | split | dsimp only

theorem State.startOn_kept {s0 s : State} (h : Kept cwr s0 s) : Kept cwr s0 (State.startOn s) := by
  unfold State.startOn
  repeat first
    | with_reducible assumption | with_reducible apply State.modSup_kept | with_reducible apply State.powerUp_kept
    | with_reducible apply Kept.ite | split | dsimp only | fail_if_no_progress with_reducible apply Kept.update

theorem State.onBegins_kept {s0 s : State} (h : Kept cwr s0 s) : Kept cwr s0 (State.onBegins s) := by
  unfold State.onBegins
  repeat first
    | with_reducible assumption | with_reducible apply State.modSup_kept | with_reducible apply State.till_kept
    | with_reducible apply State.askWarm_kept | with_reducible apply State.startOn_kept | with_reducible apply Kept.ite | split
    | dsimp only | fail_if_no_progress with_reducible apply Kept.update

theorem State.autoOns_kept {s0 s : State} (h : Kept cwr s0 s) : Kept cwr s0 (State.autoOns s) := by
  unfold State.autoOns
  repeat first
    | with_reducible assumption | with_reducible apply State.modSup_kept | with_reducible apply State.till_kept
    | with_reducible apply State.onReq_kept | with_reducible apply Kept.ite | split | dsimp only
    | fail_if_no_progress with_reducible apply Kept.update

theorem State.prelude__kept {s0 s : State} (h : Kept cwr s0 s) (p : Prelude) : Kept cwr s0 (State.prelude_ s p) := by
  unfold State.prelude_
  repeat first
    | with_reducible assumption | with_reducible apply State.modSup_kept | with_reducible apply State.modRail_kept
    | with_reducible apply Kept.ite | split | dsimp only | fail_if_no_progress with_reducible apply Kept.update

theorem State.preludeAgain_kept {s0 s : State} (h : Kept cwr s0 s) : Kept cwr s0 (State.preludeAgain s) := by
  unfold State.preludeAgain
  repeat first
    | with_reducible assumption | with_reducible apply State.modSup_kept | with_reducible apply State.till_kept
    | with_reducible apply State.modRail_kept | with_reducible apply Kept.ite | split | dsimp only
    | fail_if_no_progress with_reducible apply Kept.update

/-! ### Machine/Commit.lean -/

theorem State.askClear_kept {s0 s : State} (h : Kept cwr s0 s) (srcs : List Nat) : Kept cwr s0 (State.askClear s srcs) := by
  unfold State.askClear
  repeat first
    | with_reducible assumption | with_reducible refine Kept.foldl (fun _ _ _ => ?_) ?_
    | with_reducible apply State.modEvt_kept | with_reducible apply State.commit_kept | dsimp only
    | fail_if_no_progress with_reducible apply Kept.update

theorem State.trbCleared_kept {s0 s : State} (h : Kept cwr s0 s) (k : Nat) : Kept cwr s0 (State.trbCleared s k) := by
  unfold State.trbCleared
  repeat first
    | with_reducible assumption | with_reducible refine Kept.foldl (fun _ _ _ => ?_) ?_
    | with_reducible apply State.modEvt_kept | with_reducible apply Kept.ite | split | dsimp only
    | fail_if_no_progress with_reducible apply Kept.update

theorem State.credDone_kept {s0 s : State} (h : Kept cwr s0 s) (x : SessId) : Kept cwr s0 (State.credDone s x) := by
  unfold State.credDone
  repeat first
    | with_reducible assumption | with_reducible apply State.modCred_kept | with_reducible apply Kept.ite | split | dsimp only
    | fail_if_no_progress with_reducible apply Kept.update

theorem State.credSet_kept {s0 s : State} (h : Kept cwr s0 s) (x : SessId) : Kept cwr s0 (State.credSet s x) := by
  unfold State.credSet
  repeat first
    | with_reducible assumption | with_reducible apply State.modCred_kept | with_reducible apply State.credDone_kept
    | dsimp only | fail_if_no_progress with_reducible apply Kept.update

theorem State.credOff_kept {s0 s : State} (h : Kept cwr s0 s) (x : SessId) : Kept cwr s0 (State.credOff s x) := by
  unfold State.credOff
  repeat first
    | with_reducible assumption | with_reducible apply State.modSes_kept | with_reducible apply State.modCred_kept
    | with_reducible apply State.killSession_kept | with_reducible apply State.credDone_kept | dsimp only
    | fail_if_no_progress with_reducible apply Kept.update

theorem State.runDeferred_kept {s0 s : State} (h : Kept cwr s0 s) (d : Deferred) : Kept cwr s0 (s.runDeferred d) := by
  unfold State.runDeferred
  cases d
  all_goals repeat first
    | with_reducible assumption | with_reducible refine Kept.foldl (fun _ _ _ => ?_) ?_
    | with_reducible apply State.modSup_kept | with_reducible apply State.modLdg_kept | with_reducible apply State.modSec_kept
    | with_reducible apply State.eventFrames_kept | with_reducible apply State.dropFolds_kept
    | with_reducible apply State.passStart_kept | with_reducible apply State.ackReq_kept
    | with_reducible apply State.ackLock_kept | with_reducible apply State.passStarts_kept
    | with_reducible apply State.stepDone_kept | with_reducible apply State.stepAcked_kept
    | with_reducible apply State.rgnSet_kept | with_reducible apply State.stepApply_kept
    | with_reducible apply State.resolved_kept | with_reducible apply State.openTile_kept
    | with_reducible apply State.drainOver_kept | with_reducible apply State.recordSeen_kept
    | with_reducible apply State.trbCleared_kept | with_reducible apply State.credSet_kept
    | with_reducible apply State.credOff_kept | with_reducible apply Kept.ite | split | dsimp only
    | fail_if_no_progress with_reducible apply Kept.update

theorem State.commitDone_kept {s0 s : State} (h : Kept cwr s0 s) : Kept cwr s0 (State.commitDone s) := by
  unfold State.commitDone
  repeat first
    | with_reducible assumption | with_reducible refine Kept.foldl (fun _ _ _ => ?_) ?_
    | with_reducible apply State.modLdg_kept | with_reducible apply State.runDeferred_kept | with_reducible apply Kept.ite
    | split | dsimp only | fail_if_no_progress with_reducible apply Kept.update

/-! ### Machine/Image.lean -/

/-! ### Machine/Start.lean -/

theorem State.coldReset_kept {s0 s : State} (h : Kept cwr s0 s) (hw : cwr) : Kept cwr s0 (State.coldReset s) := by
  unfold State.coldReset
  repeat first
    | with_reducible assumption | with_reducible refine Kept.foldl (fun _ _ _ => ?_) ?_
    | with_reducible apply State.cutCommit_kept | with_reducible apply State.rollToken_kept
    | with_reducible apply State.quiesce_kept | with_reducible apply State.settleTile_kept
    | with_reducible apply State.pwrfailFalls_kept | with_reducible apply Kept.ite | split | dsimp only
    | fail_if_no_progress with_reducible apply Kept.update

theorem State.cold_kept {s0 s : State} (h : Kept cwr s0 s) (hw : cwr) (c : ColdCause) : Kept cwr s0 (State.cold s c) := by
  unfold State.cold
  repeat first
    | with_reducible assumption | with_reducible apply State.coldReset_kept | with_reducible apply Kept.ite | split
    | dsimp only | fail_if_no_progress with_reducible apply Kept.update

theorem State.loseVaon_kept {s0 s : State} (h : Kept cwr s0 s) (hw : cwr) : Kept cwr s0 (State.loseVaon s) := by
  unfold State.loseVaon
  repeat first
    | with_reducible assumption | with_reducible apply State.modSup_kept | with_reducible apply State.coldReset_kept
    | with_reducible apply Kept.ite | split | dsimp only | fail_if_no_progress with_reducible apply Kept.update

theorem State.warmClear_kept {s0 s : State} (h : Kept cwr s0 s) (hw : cwr) (cause : BitVec 4) : Kept cwr s0 (State.warmClear s cause) := by
  unfold State.warmClear
  repeat first
    | with_reducible assumption | with_reducible refine Kept.foldl (fun _ _ _ => ?_) ?_
    | with_reducible apply State.modTile_kept | with_reducible apply State.gatherCounts_kept
    | with_reducible apply State.rollToken_kept | with_reducible apply State.quiesce_kept
    | with_reducible apply State.settleTile_kept | with_reducible apply State.ageLost_kept | with_reducible apply Kept.ite
    | split | dsimp only | fail_if_no_progress with_reducible apply Kept.update

theorem State.warmEffects_kept {s0 s : State} (h : Kept cwr s0 s) (hw : cwr) (cause : BitVec 4) : Kept cwr s0 (State.warmEffects s cause) := by
  unfold State.warmEffects
  repeat first
    | with_reducible assumption | with_reducible apply State.raise_kept | with_reducible apply State.warmClear_kept
    | dsimp only

theorem State.mergeWarm_kept {s0 s : State} (h : Kept cwr s0 s) : Kept cwr s0 (State.mergeWarm s) := by
  unfold State.mergeWarm
  repeat first
    | with_reducible assumption | with_reducible apply State.modSup_kept | with_reducible apply State.modClk_kept | dsimp only
    | fail_if_no_progress with_reducible apply Kept.update

theorem State.warmReset_kept {s0 s : State} (h : Kept cwr s0 s) (hw : cwr) : Kept cwr s0 (State.warmReset s) := by
  unfold State.warmReset
  repeat first
    | with_reducible assumption | with_reducible apply State.warmEffects_kept | with_reducible apply State.mergeWarm_kept
    | with_reducible apply Kept.ite | split | dsimp only | fail_if_no_progress with_reducible apply Kept.update

theorem State.refLoss_kept {s0 s : State} (h : Kept cwr s0 s) (hw : cwr) : Kept cwr s0 (State.refLoss s) := by
  unfold State.refLoss
  repeat first
    | with_reducible assumption | with_reducible refine Kept.foldl (fun _ _ _ => ?_) ?_
    | with_reducible apply State.modThm_kept | with_reducible apply State.modClk_kept | with_reducible apply State.raise_kept
    | with_reducible apply State.warmClear_kept | with_reducible apply Kept.ite | split | dsimp only
    | fail_if_no_progress with_reducible apply Kept.update

theorem State.refBack_kept {s0 s : State} (h : Kept cwr s0 s) : Kept cwr s0 (State.refBack s) := by
  unfold State.refBack
  repeat first
    | with_reducible assumption | with_reducible apply State.modClk_kept | with_reducible apply State.raise_kept
    | with_reducible apply State.mergeWarm_kept | with_reducible apply Kept.ite | split | dsimp only
    | fail_if_no_progress with_reducible apply Kept.update

theorem State.pllLoss_kept {s0 s : State} (h : Kept cwr s0 s) (hw : cwr) (g : GenId) : Kept cwr s0 (State.pllLoss s g) := by
  unfold State.pllLoss
  repeat first
    | with_reducible assumption | with_reducible apply State.modClk_kept | with_reducible apply State.raise_kept
    | with_reducible apply State.portRst_kept | with_reducible apply State.tileFault_kept
    | with_reducible apply State.askWarm_kept | with_reducible apply Kept.ite | split | dsimp only
    | fail_if_no_progress with_reducible apply Kept.update

theorem State.refuseSlot_kept {s0 s : State} (h : Kept cwr s0 s) (b : Bool) (code : Nat) (l : Loc) : Kept cwr s0 (State.refuseSlot s b code l) := by
  unfold State.refuseSlot
  repeat first
    | with_reducible assumption | with_reducible apply State.raise_kept | with_reducible apply State.slot_kept
    | with_reducible apply State.frame_kept | with_reducible apply State.askWarm_kept | with_reducible apply Kept.ite | split
    | dsimp only | fail_if_no_progress with_reducible apply Kept.update

theorem State.loadConfig_kept {s0 s : State} (h : Kept cwr s0 s) (f : Flash) (sel : Bool) : Kept cwr s0 (State.loadConfig s f sel) := by
  unfold State.loadConfig
  repeat first
    | with_reducible assumption | with_reducible refine Kept.foldl (fun _ _ _ => ?_) ?_
    | with_reducible apply State.modAdm_kept | with_reducible apply State.modXlt_kept | with_reducible apply Kept.ite | split
    | dsimp only | fail_if_no_progress with_reducible apply Kept.update

theorem State.readSlot_kept {s0 s : State} (h : Kept cwr s0 s) (f : Flash) (b : Bool) : Kept cwr s0 (State.readSlot s f b) := by
  unfold State.readSlot
  repeat first
    | with_reducible assumption | with_reducible apply State.raise_kept | with_reducible apply Kept.ite | split | dsimp only
    | fail_if_no_progress with_reducible apply Kept.update

theorem State.configRead_kept {s0 s : State} (h : Kept cwr s0 s) (f : Flash) : Kept cwr s0 (State.configRead s f) := by
  unfold State.configRead
  repeat first
    | with_reducible assumption | with_reducible apply State.raise_kept | with_reducible apply State.mile_kept
    | with_reducible apply State.startOn_kept | with_reducible apply State.refuseSlot_kept
    | with_reducible apply State.loadConfig_kept | with_reducible apply State.readSlot_kept | with_reducible apply Kept.ite
    | split | dsimp only | fail_if_no_progress with_reducible apply Kept.update

theorem State.retryConfig_kept {s0 s : State} (h : Kept cwr s0 s) : Kept cwr s0 (State.retryConfig s) := by
  unfold State.retryConfig
  repeat first
    | with_reducible assumption | with_reducible apply State.askWarm_kept | with_reducible apply Kept.ite | split | dsimp only
    | fail_if_no_progress with_reducible apply Kept.update

theorem State.fillStore_kept {s0 s : State} (h : Kept cwr s0 s) (t : TileId) (f : Flash) : Kept cwr s0 (State.fillStore s t f) := by
  unfold State.fillStore
  repeat first
    | with_reducible assumption | with_reducible refine Kept.foldl (fun _ _ _ => ?_) ?_
    | with_reducible apply State.modTile_kept | with_reducible apply State.driftDue_kept | split | dsimp only
    | fail_if_no_progress with_reducible apply Kept.update

theorem State.readbackFails_kept {s0 s : State} (h : Kept cwr s0 s) (hw : cwr) (t : TileId) : Kept cwr s0 (State.readbackFails s t) := by
  unfold State.readbackFails
  repeat first
    | with_reducible assumption | with_reducible apply State.modCtl_kept | with_reducible apply State.raise_kept
    | with_reducible apply State.tileFault_kept | with_reducible apply Kept.ite | split | dsimp only
    | fail_if_no_progress with_reducible apply Kept.update

theorem State.tilePhase_kept {s0 s : State} (h : Kept cwr s0 s) (hw : cwr) (f : Flash) (bad : Byte) : Kept cwr s0 (State.tilePhase s f bad) := by
  unfold State.tilePhase
  repeat first
    | with_reducible assumption | with_reducible refine Kept.foldl (fun _ _ _ => ?_) ?_
    | with_reducible apply State.commit_kept | with_reducible apply State.refuseSlot_kept
    | with_reducible apply State.fillStore_kept | with_reducible apply State.readbackFails_kept | with_reducible apply Kept.ite
    | split | dsimp only | fail_if_no_progress with_reducible apply Kept.update

theorem State.tablesLoad_kept {s0 s : State} (h : Kept cwr s0 s) (hw : cwr) : Kept cwr s0 (State.tablesLoad s) := by
  unfold State.tablesLoad
  repeat first
    | with_reducible assumption | with_reducible refine Kept.fold3 (fun _ _ _ => ?_) ?_
    | with_reducible refine Kept.foldl (fun _ _ _ => ?_) ?_ | with_reducible apply State.modSec_kept
    | with_reducible apply State.raise_kept | with_reducible apply State.cold_kept | with_reducible apply Kept.ite | split
    | dsimp only | fail_if_no_progress with_reducible apply Kept.update

theorem State.medStart_kept {s0 s : State} (h : Kept cwr s0 s) (t : TileId) (m : MedInit) : Kept cwr s0 (State.medStart s t m) := by
  unfold State.medStart
  repeat first
    | with_reducible assumption | with_reducible apply State.initMedium_kept | with_reducible apply State.mile_kept
    | with_reducible apply Kept.ite | split | dsimp only

theorem State.engineStart_kept {s0 s : State} (h : Kept cwr s0 s) (t : TileId) : Kept cwr s0 (State.engineStart s t) := by
  unfold State.engineStart
  repeat first
    | with_reducible assumption | with_reducible apply State.modSch_kept | with_reducible apply Kept.ite | split | dsimp only
    | fail_if_no_progress with_reducible apply Kept.update

/-! ### Machine/Thermal.lean -/

theorem State.thmRise_kept {s0 s : State} (h : Kept cwr s0 s) (t : TileId) (q : Int) : Kept cwr s0 (State.thmRise s t q) := by
  unfold State.thmRise
  repeat first
    | with_reducible assumption | with_reducible apply State.modThm_kept | with_reducible apply State.raise_kept
    | with_reducible apply Kept.ite | split | dsimp only | fail_if_no_progress with_reducible apply Kept.update

theorem State.round_kept {s0 s : State} (h : Kept cwr s0 s) (t : TileId) (d : DiodeConv) (rails : List (BitVec 12)) : Kept cwr s0 (State.round s t d rails) := by
  unfold State.round
  repeat first
    | with_reducible assumption | with_reducible refine Kept.foldl (fun _ _ _ => ?_) ?_
    | with_reducible apply State.modThm_kept | with_reducible apply State.modMed_kept | with_reducible apply State.drift_kept
    | with_reducible apply State.thmRise_kept | with_reducible apply Kept.ite | split | dsimp only
    | fail_if_no_progress with_reducible apply Kept.update

theorem State.thmFall_kept {s0 s : State} (h : Kept cwr s0 s) (t : TileId) : Kept cwr s0 (State.thmFall s t) := by
  unfold State.thmFall
  repeat first
    | with_reducible assumption | with_reducible apply State.modThm_kept | with_reducible apply State.raise_kept
    | with_reducible apply Kept.ite | split | dsimp only | fail_if_no_progress with_reducible apply Kept.update

theorem State.soloDrain_kept {s0 s : State} (h : Kept cwr s0 s) (hw : cwr) (t : TileId) (cause : BitVec 4) : Kept cwr s0 (State.soloDrain s t cause) := by
  unfold State.soloDrain
  repeat first
    | with_reducible assumption | with_reducible apply State.modSup_kept | with_reducible apply State.modCtl_kept
    | with_reducible apply State.modSch_kept | with_reducible apply State.dropLogic_kept
    | with_reducible apply State.quiesce_kept | with_reducible apply State.stopPorts_kept
    | with_reducible apply State.drainTile_kept | with_reducible apply Kept.ite | split | dsimp only
    | fail_if_no_progress with_reducible apply Kept.update

theorem State.thermalStop_kept {s0 s : State} (h : Kept cwr s0 s) (hw : cwr) (t : TileId) : Kept cwr s0 (State.thermalStop s t) := by
  unfold State.thermalStop
  repeat first
    | with_reducible assumption | with_reducible apply State.modThm_kept | with_reducible apply State.raise_kept
    | with_reducible apply State.soloDrain_kept | with_reducible apply Kept.ite | split | dsimp only
    | fail_if_no_progress with_reducible apply Kept.update

theorem State.sensorStop_kept {s0 s : State} (h : Kept cwr s0 s) (hw : cwr) (t : TileId) : Kept cwr s0 (State.sensorStop s t) := by
  unfold State.sensorStop
  repeat first
    | with_reducible assumption | with_reducible apply State.modThm_kept | with_reducible apply State.raise_kept
    | with_reducible apply State.soloDrain_kept | with_reducible apply Kept.ite | split | dsimp only
    | fail_if_no_progress with_reducible apply Kept.update

theorem State.resume1_kept {s0 s : State} (h : Kept cwr s0 s) (t : TileId) : Kept cwr s0 (State.resume1 s t) := by
  unfold State.resume1
  repeat first
    | with_reducible assumption | with_reducible apply State.modThm_kept | with_reducible apply State.modCtl_kept
    | with_reducible apply State.raise_kept | with_reducible apply State.restartTile_kept | with_reducible apply Kept.ite
    | split | dsimp only | fail_if_no_progress with_reducible apply Kept.update

theorem State.resumeAll_kept {s0 s : State} (h : Kept cwr s0 s) (mask : Byte) : Kept cwr s0 (State.resumeAll s mask) := by
  unfold State.resumeAll
  repeat first
    | with_reducible assumption | with_reducible refine Kept.foldl (fun _ _ _ => ?_) ?_
    | with_reducible apply State.resume1_kept | with_reducible apply Kept.ite | split | dsimp only

theorem State.maxClr_kept {s0 s : State} (h : Kept cwr s0 s) (mask : Byte) : Kept cwr s0 (State.maxClr s mask) := by
  unfold State.maxClr
  repeat first
    | with_reducible assumption | with_reducible refine Kept.foldl (fun _ _ _ => ?_) ?_
    | with_reducible apply State.modThm_kept | with_reducible apply Kept.ite | split | dsimp only
    | fail_if_no_progress with_reducible apply Kept.update

/-! ### Machine/Regs.lean -/

theorem State.readReg_fin {s0 s : State} (h : Kept cwr s0 s) (bridge a : Nat) : Kept cwr s0 (State.readReg s bridge a).2.2 := by
  unfold State.readReg
  repeat first
    | with_reducible assumption | with_reducible apply State.modClk_kept | with_reducible apply State.raise_kept
    | with_reducible refine State.draw_kept (e := by assumption) ?_ ..
    | with_reducible refine State.drawBool_kept (e := by assumption) ?_ .. | with_reducible refine State.draw_fin ?_ ..
    | with_reducible refine State.drawBool_fin ?_ .. | with_reducible apply Kept.ite | split | dsimp only
    | fail_if_no_progress with_reducible apply Kept.update

theorem State.readReg_kept {s0 s s' : State} {v : Word} {b : Bool} (h : Kept cwr s0 s) (bridge a : Nat) (e : State.readReg s bridge a = (v, b, s')) : Kept cwr s0 s' := by
  have g := State.readReg_fin h bridge a
  rw [e] at g
  exact g

/-! ### Machine/Write.lean -/

theorem State.clearPend_kept {s0 s : State} (h : Kept cwr s0 s) (k : Nat) (mask : Word) : Kept cwr s0 (State.clearPend s k mask) := by
  unfold State.clearPend
  repeat first
    | with_reducible assumption | with_reducible apply State.modEvt_kept | dsimp only
    | fail_if_no_progress with_reducible apply Kept.update

theorem State.clearTrouble_kept {s0 s : State} (h : Kept cwr s0 s) (src : Nat) (clr all : Bool) : Kept cwr s0 (State.clearTrouble s src clr all) := by
  unfold State.clearTrouble
  repeat first
    | with_reducible assumption | with_reducible apply State.askClear_kept | with_reducible apply Kept.ite | split | dsimp only

theorem State.pmcClear_kept {s0 s : State} (h : Kept cwr s0 s) (t : TileId) : Kept cwr s0 (State.pmcClear s t) := by
  unfold State.pmcClear
  repeat first
    | with_reducible assumption | with_reducible apply State.modPmc_kept | dsimp only
    | fail_if_no_progress with_reducible apply Kept.update

theorem State.pmcClear1_kept {s0 s : State} (h : Kept cwr s0 s) (t : TileId) (i : Nat) : Kept cwr s0 (State.pmcClear1 s t i) := by
  unfold State.pmcClear1
  repeat first
    | with_reducible assumption | with_reducible apply State.modPmc_kept | dsimp only
    | fail_if_no_progress with_reducible apply Kept.update

theorem State.pmcPop_kept {s0 s : State} (h : Kept cwr s0 s) (t : TileId) : Kept cwr s0 (State.pmcPop s t) := by
  unfold State.pmcPop
  repeat first
    | with_reducible assumption | with_reducible apply State.modPmc_kept | dsimp only
    | fail_if_no_progress with_reducible apply Kept.update

theorem State.portCntClear_kept {s0 s : State} (h : Kept cwr s0 s) (p : PortId) (mask : BitVec 4) : Kept cwr s0 (State.portCntClear s p mask) := by
  unfold State.portCntClear
  repeat first
    | with_reducible assumption | with_reducible apply State.modPort_kept | dsimp only
    | fail_if_no_progress with_reducible apply Kept.update

theorem State.admCntClear_kept {s0 s : State} (h : Kept cwr s0 s) (t : TileId) : Kept cwr s0 (State.admCntClear s t) := by
  unfold State.admCntClear
  repeat first
    | with_reducible assumption | with_reducible apply State.modAdm_kept | dsimp only
    | fail_if_no_progress with_reducible apply Kept.update

theorem State.xltCntClear_kept {s0 s : State} (h : Kept cwr s0 s) (t : TileId) : Kept cwr s0 (State.xltCntClear s t) := by
  unfold State.xltCntClear
  repeat first
    | with_reducible assumption | with_reducible apply State.modXlt_kept | dsimp only
    | fail_if_no_progress with_reducible apply Kept.update

theorem State.medCcntClear_kept {s0 s : State} (h : Kept cwr s0 s) (t : TileId) (c : ChanId) : Kept cwr s0 (State.medCcntClear s t c) := by
  unfold State.medCcntClear
  repeat first
    | with_reducible assumption | with_reducible apply State.modMed_kept | dsimp only
    | fail_if_no_progress with_reducible apply Kept.update

theorem State.medTcntClear_kept {s0 s : State} (h : Kept cwr s0 s) (t : TileId) : Kept cwr s0 (State.medTcntClear s t) := by
  unfold State.medTcntClear
  repeat first
    | with_reducible assumption | with_reducible apply State.modMed_kept | dsimp only
    | fail_if_no_progress with_reducible apply Kept.update

theorem State.schCntClear_kept {s0 s : State} (h : Kept cwr s0 s) (t : TileId) : Kept cwr s0 (State.schCntClear s t) := by
  unfold State.schCntClear
  repeat first
    | with_reducible assumption | with_reducible apply State.modSch_kept | dsimp only
    | fail_if_no_progress with_reducible apply Kept.update

theorem State.secCntClear_kept {s0 s : State} (h : Kept cwr s0 s) (t : TileId) : Kept cwr s0 (State.secCntClear s t) := by
  unfold State.secCntClear
  repeat first
    | with_reducible assumption | with_reducible apply State.modSec_kept | dsimp only
    | fail_if_no_progress with_reducible apply Kept.update

theorem State.eccClear_kept {s0 s : State} (h : Kept cwr s0 s) (t : TileId) : Kept cwr s0 (State.eccClear s t) := by
  unfold State.eccClear
  repeat first
    | with_reducible assumption | with_reducible apply State.modTile_kept | dsimp only
    | fail_if_no_progress with_reducible apply Kept.update

theorem State.supCntClear_kept {s0 s : State} (h : Kept cwr s0 s) : Kept cwr s0 (State.supCntClear s) := by
  unfold State.supCntClear
  repeat first
    | with_reducible assumption | with_reducible apply State.modSup_kept | dsimp only
    | fail_if_no_progress with_reducible apply Kept.update

theorem State.strangerClear_kept {s0 s : State} (h : Kept cwr s0 s) (p : PortId) (j : LinkId) : Kept cwr s0 (State.strangerClear s p j) := by
  unfold State.strangerClear
  repeat first
    | with_reducible assumption | with_reducible apply State.modStrg_kept | dsimp only
    | fail_if_no_progress with_reducible apply Kept.update

theorem State.credDisable_kept {s0 s : State} (h : Kept cwr s0 s) (x : SessId) : Kept cwr s0 (State.credDisable s x) := by
  unfold State.credDisable
  repeat first
    | with_reducible assumption | with_reducible apply State.modCred_kept | with_reducible apply State.commit_kept
    | with_reducible apply State.credOff_kept | with_reducible apply Kept.ite | split | dsimp only
    | fail_if_no_progress with_reducible apply Kept.update

theorem State.credEnable_kept {s0 s : State} (h : Kept cwr s0 s) (x : SessId) : Kept cwr s0 (State.credEnable s x) := by
  unfold State.credEnable
  repeat first
    | with_reducible assumption | with_reducible apply State.modCred_kept | with_reducible apply State.commit_kept
    | with_reducible apply State.credSet_kept | with_reducible apply Kept.ite | split | dsimp only
    | fail_if_no_progress with_reducible apply Kept.update

theorem State.credCtl_kept {s0 s : State} (h : Kept cwr s0 s) (x : SessId) (v : Word) : Kept cwr s0 (State.credCtl s x v) := by
  unfold State.credCtl
  repeat first
    | with_reducible assumption | with_reducible apply State.modCred_kept | with_reducible apply State.credDisable_kept
    | with_reducible apply State.credEnable_kept | with_reducible apply Kept.ite | split | dsimp only
    | fail_if_no_progress with_reducible apply Kept.update

theorem State.credField_kept {s0 s : State} (h : Kept cwr s0 s) (x : SessId) (f : Cred → Cred) : Kept cwr s0 (State.credField s x f) := by
  unfold State.credField
  repeat first
    | with_reducible assumption | with_reducible apply State.modCred_kept | with_reducible apply Kept.ite | split | dsimp only

theorem State.provision_kept {s0 s : State} (h : Kept cwr s0 s) : Kept cwr s0 (State.provision s) := by
  unfold State.provision
  repeat first
    | with_reducible assumption | with_reducible apply State.commit_kept | with_reducible apply Kept.ite | split | dsimp only

theorem State.windowWrite_kept {s0 s : State} (h : Kept cwr s0 s) (o : Nat) (vs : List Word) (post : List Deferred) : Kept cwr s0 (State.windowWrite s o vs post) := by
  unfold State.windowWrite
  repeat first
    | with_reducible assumption | with_reducible apply State.commit_kept | with_reducible apply Kept.ite | split | dsimp only

theorem State.denied_kept {s0 s : State} (h : Kept cwr s0 s) (dma : Bool) (addr : Nat) : Kept cwr s0 (State.denied s dma addr) := by
  unfold State.denied
  repeat first
    | with_reducible assumption | with_reducible apply State.raise_kept | dsimp only
    | fail_if_no_progress with_reducible apply Kept.update

theorem State.dmaStart_kept {s0 s : State} (h : Kept cwr s0 s) (t : TileId) : Kept cwr s0 (State.dmaStart s t) := by
  unfold State.dmaStart
  repeat first
    | with_reducible assumption | with_reducible refine Kept.foldl (fun _ _ _ => ?_) ?_
    | with_reducible apply State.bgFetch_kept | with_reducible apply State.denied_kept | with_reducible apply Kept.ite | split
    | dsimp only | fail_if_no_progress with_reducible apply Kept.update

theorem State.dmaDone_kept {s0 s : State} (h : Kept cwr s0 s) : Kept cwr s0 s.dmaDone := by
  unfold State.dmaDone
  split
  extract_lets left n word cws
  split
  · exact h
  · split
    · apply Kept.update h
    · exact ⟨h.pending, h.part, h.stepping, h.now, h.free.trans (Nat.le_add_right _ _), h.media, h.cws⟩

theorem State.dapDone_kept {s0 s : State} (h : Kept cwr s0 s) (data : Word) (addr : Word) (write : Bool) (st : Byte) (done : Bool) : Kept cwr s0 (State.dapDone s data addr write st done) := by
  unfold State.dapDone
  repeat first
    | with_reducible assumption | with_reducible apply Kept.ite | split | dsimp only
    | fail_if_no_progress with_reducible apply Kept.update

theorem State.lockDebug_kept {s0 s : State} (h : Kept cwr s0 s) : Kept cwr s0 (State.lockDebug s) := by
  unfold State.lockDebug
  repeat first
    | with_reducible assumption | with_reducible apply State.modClk_kept | with_reducible apply State.dapDone_kept
    | with_reducible apply Kept.ite | split | dsimp only | fail_if_no_progress with_reducible apply Kept.update

theorem State.dbgCtl_kept {s0 s : State} (h : Kept cwr s0 s) (v : Word) : Kept cwr s0 (State.dbgCtl s v) := by
  unfold State.dbgCtl
  repeat first
    | with_reducible assumption | with_reducible apply State.dmaStart_kept | with_reducible apply State.lockDebug_kept
    | with_reducible apply Kept.ite | split | dsimp only | fail_if_no_progress with_reducible apply Kept.update

theorem State.resetPend_kept {s0 s : State} (h : Kept cwr s0 s) (hw : cwr) (inBand : Bool) : Kept cwr s0 (State.resetPend s inBand) := by
  unfold State.resetPend
  repeat first
    | with_reducible assumption | with_reducible apply State.hitPends_kept | with_reducible apply State.portRst_kept
    | with_reducible apply State.tileFault_kept | with_reducible apply Kept.ite | split | dsimp only
    | fail_if_no_progress with_reducible apply Kept.update

theorem State.supCtl_kept {s0 s : State} (h : Kept cwr s0 s) (hw : cwr) (v : Word) : Kept cwr s0 (State.supCtl s v) := by
  unfold State.supCtl
  repeat first
    | with_reducible assumption | with_reducible apply State.offReq_kept | with_reducible apply State.onReq_kept
    | with_reducible apply State.supCntClear_kept | with_reducible apply Kept.ite | split | dsimp only

theorem State.portCtl_kept {s0 s : State} (h : Kept cwr s0 s) (p : PortId) (v : Word) : Kept cwr s0 (State.portCtl s p v) := by
  unfold State.portCtl
  repeat first
    | with_reducible assumption | with_reducible apply State.portOn1_kept | with_reducible apply State.portOff1_kept
    | with_reducible apply State.portRst_kept | with_reducible apply Kept.ite | split | dsimp only

theorem State.tctlCtl_kept {s0 s : State} (h : Kept cwr s0 s) (hw : cwr) (t : TileId) (v : Word) : Kept cwr s0 (State.tctlCtl s t v) := by
  unfold State.tctlCtl
  repeat first
    | with_reducible assumption | with_reducible apply State.tileFault_kept | with_reducible apply State.tileStop_kept
    | with_reducible apply State.tileStart_kept | with_reducible apply Kept.ite | split | dsimp only

theorem State.thmCtl_kept {s0 s : State} (h : Kept cwr s0 s) (v : Word) : Kept cwr s0 (State.thmCtl s v) := by
  unfold State.thmCtl
  repeat first
    | with_reducible assumption | with_reducible apply State.resumeAll_kept | with_reducible apply State.maxClr_kept
    | dsimp only

theorem State.pmcWrite_kept {s0 s : State} (h : Kept cwr s0 s) (t : TileId) (o : Nat) (v : Word) : Kept cwr s0 (State.pmcWrite s t o v) := by
  unfold State.pmcWrite
  repeat first
    | with_reducible assumption | with_reducible apply State.modPmc_kept | with_reducible apply State.pmcClear_kept
    | with_reducible apply State.pmcClear1_kept | with_reducible apply State.pmcPop_kept | with_reducible apply Kept.ite
    | split | dsimp only | fail_if_no_progress with_reducible apply Kept.update

theorem State.sesWrite_kept {s0 s : State} (h : Kept cwr s0 s) (o : Nat) (v : Word) : Kept cwr s0 (State.sesWrite s o v) := by
  unfold State.sesWrite
  extract_lets x
  split
  · apply Kept.update h
  · exact Kept.ite (State.killSession_kept h ..) h
  · exact Kept.ite (State.strangerClear_kept h ..) h
  · generalize arr o 0x1000 0x40 64 = r
    cases r with
    | none => exact h
    | some e => exact Kept.ite (State.credCtl_kept h ..) (Kept.ite (State.credField_kept h ..) (Kept.ite (State.credField_kept h ..) h))

theorem State.rgnWrite_kept {s0 s : State} (h : Kept cwr s0 s) (o : Nat) (v : Word) : Kept cwr s0 (State.rgnWrite s o v) := by
  unfold State.rgnWrite
  split
  · split
    · apply Kept.update h
    · exact h
  · split
    · exact State.holderStep_kept h ..
    · exact h

theorem State.ldgWrite_kept {s0 s : State} (h : Kept cwr s0 s) (o : Nat) (v : Word) (post : List Deferred) : Kept cwr s0 (State.ldgWrite s o v post) := by
  unfold State.ldgWrite
  repeat first
    | with_reducible assumption | with_reducible apply State.modLdg_kept | with_reducible apply State.provision_kept
    | with_reducible apply State.windowWrite_kept | with_reducible apply Kept.ite | split | dsimp only
    | fail_if_no_progress with_reducible apply Kept.update

theorem State.writeReg_kept {s0 s : State} (h : Kept cwr s0 s) (hw : cwr) (b : Block) (o : Nat) (v : Word) (post : List Deferred) : Kept cwr s0 (State.writeReg s b o v post) := by
  unfold State.writeReg
  repeat first
    | with_reducible assumption | with_reducible apply State.modPort_kept | with_reducible apply State.modClk_kept
    | with_reducible apply State.modSch_kept | with_reducible apply State.pmc_kept | with_reducible apply State.rollToken_kept
    | with_reducible apply State.askWarm_kept | with_reducible apply State.retryConfig_kept
    | with_reducible apply State.clearPend_kept | with_reducible apply State.clearTrouble_kept
    | with_reducible apply State.portCntClear_kept | with_reducible apply State.admCntClear_kept
    | with_reducible apply State.xltCntClear_kept | with_reducible apply State.medCcntClear_kept
    | with_reducible apply State.medTcntClear_kept | with_reducible apply State.schCntClear_kept
    | with_reducible apply State.secCntClear_kept | with_reducible apply State.eccClear_kept
    | with_reducible apply State.dbgCtl_kept | with_reducible apply State.resetPend_kept
    | with_reducible apply State.supCtl_kept | with_reducible apply State.portCtl_kept
    | with_reducible apply State.tctlCtl_kept | with_reducible apply State.thmCtl_kept
    | with_reducible apply State.pmcWrite_kept | with_reducible apply State.sesWrite_kept
    | with_reducible apply State.rgnWrite_kept | with_reducible apply State.ldgWrite_kept | with_reducible apply Kept.ite
    | split | dsimp only | fail_if_no_progress with_reducible apply Kept.update

/-! ### Machine/Pins.lean -/

/-! ### Machine/Bridge.lean -/

theorem State.readOn_fin {s0 s : State} (h : Kept cwr s0 s) (bridge n a : Nat) (r : Acc) : Kept cwr s0 (State.readOn bridge n a r s).2 := by
  induction n generalizing s a r with
  | zero => exact h
  | succ n ih =>
    unfold State.readOn
    split
    · exact h
    · exact ih (State.readReg_fin h _ _) _ _

theorem State.readOn_kept {s0 s s' : State} {q : Acc} (h : Kept cwr s0 s) (bridge n a : Nat) (r : Acc)
    (e : State.readOn bridge n a r s = (q, s')) : Kept cwr s0 s' := by
  have g := State.readOn_fin h bridge n a r
  rw [e] at g
  exact g

theorem State.writeOn_fin {s0 s : State} (h : Kept cwr s0 s) (hw : cwr) (post : List Deferred) (l : List Word) (a : Nat) :
    Kept cwr s0 (State.writeOn post l a s).2 := by
  induction l generalizing s a with
  | nil => exact h
  | cons v l ih =>
    unfold State.writeOn
    split
    · exact h
    · refine ih ?_ _
      split
      · split
        · exact State.writeReg_kept h hw _ _ _ _
        · exact h
      · exact h

theorem State.writeOn_kept {s0 s s' : State} {q : Acc} (h : Kept cwr s0 s) (hw : cwr) (post : List Deferred) (l : List Word) (a : Nat)
    (e : State.writeOn post l a s = (q, s')) : Kept cwr s0 s' := by
  have g := State.writeOn_fin h hw post l a
  rw [e] at g
  exact g

theorem State.writeAll_fin {s0 s : State} (h : Kept cwr s0 s) (hw : cwr) (post : List Deferred) (l : List Word) (a : Nat) :
    Kept cwr s0 (State.writeAll post l a s).2 := by
  unfold State.writeAll
  exact State.writeOn_fin (Kept.ite (State.windowWrite_kept h ..) h) hw ..

theorem State.writeAll_kept {s0 s s' : State} {q : Acc} (h : Kept cwr s0 s) (hw : cwr) (post : List Deferred) (l : List Word) (a : Nat)
    (e : State.writeAll post l a s = (q, s')) : Kept cwr s0 s' := by
  have g := State.writeAll_fin h hw post l a
  rw [e] at g
  exact g

theorem State.hold_kept {s0 s : State} (h : Kept cwr s0 s) (inBand : Bool) (r : Acc) (write : Bool) (req : Option (SessId × BitVec 16 × Word)) (dap : Bool) : Kept cwr s0 (State.hold s inBand r write req dap) := by
  unfold State.hold
  repeat first
    | with_reducible assumption | with_reducible apply State.modClk_kept | with_reducible apply Kept.ite | split | dsimp only
    | fail_if_no_progress with_reducible apply Kept.update

theorem State.mgmtData_kept {s0 s : State} (h : Kept cwr s0 s) (x : SessId) (q : Req) (st : Byte) (got : List Word) (uns : List Bool) : Kept cwr s0 (State.mgmtData s x q st got uns) := by
  unfold State.mgmtData
  repeat first
    | with_reducible assumption | with_reducible apply State.respond_kept | with_reducible apply Kept.ite | split | dsimp only

theorem State.mgmtFails_kept {s0 s : State} (h : Kept cwr s0 s) (x : SessId) (q : Req) (st : Byte) : Kept cwr s0 (State.mgmtFails s x q st) := by
  unfold State.mgmtFails
  repeat first
    | with_reducible assumption | with_reducible apply State.ack_kept | with_reducible apply State.mgmtData_kept
    | with_reducible apply Kept.ite | split | dsimp only

theorem State.setReq_kept {s0 s : State} (h : Kept cwr s0 s) (x : SessId) (seq : Word) (f : Req → Req) : Kept cwr s0 (State.setReq s x seq f) := by
  unfold State.setReq
  repeat first
    | with_reducible assumption | with_reducible apply State.modSes_kept | with_reducible apply Kept.ite | split | dsimp only
    | fail_if_no_progress with_reducible apply Kept.update

theorem State.mgmtRan_kept {s0 s : State} (h : Kept cwr s0 s) (x : SessId) (e : BitVec 16) (seq : Word) (write : Bool) (r : Acc) : Kept cwr s0 (State.mgmtRan s x e seq write r) := by
  unfold State.mgmtRan
  repeat first
    | with_reducible assumption | with_reducible apply State.ack_kept | with_reducible apply State.ackReq_kept
    | with_reducible apply State.hold_kept | with_reducible apply State.mgmtData_kept | with_reducible apply State.setReq_kept
    | with_reducible apply Kept.ite | split | dsimp only | fail_if_no_progress with_reducible apply Kept.update

theorem State.mgmt_kept {s0 s : State} (h : Kept cwr s0 s) (hw : cwr) (x : SessId) (q : Req) : Kept cwr s0 (State.mgmt s x q) := by
  unfold State.mgmt
  repeat first
    | with_reducible assumption | with_reducible apply State.respond_kept | with_reducible apply State.ackReq_kept
    | with_reducible apply State.denied_kept | with_reducible apply State.mgmtFails_kept
    | with_reducible apply State.setReq_kept | with_reducible apply State.mgmtRan_kept
    | with_reducible refine State.adminStep_kept (e := by assumption) ?_ ..
    | with_reducible refine State.readOn_kept (e := by assumption) ?_ ..
    | with_reducible refine State.writeAll_kept (e := by assumption) ?_ ?_ .. | with_reducible refine State.adminStep_fin ?_ ..
    | with_reducible refine State.readOn_fin ?_ .. | with_reducible refine State.writeAll_fin ?_ ?_ ..
    | with_reducible apply Kept.ite | split | dsimp only | fail_if_no_progress with_reducible apply Kept.update

theorem State.mgmtArrives_kept {s0 s : State} (h : Kept cwr s0 s) (hw : cwr) (x : SessId) (q : Req) : Kept cwr s0 (State.mgmtArrives s x q) := by
  unfold State.mgmtArrives
  repeat first
    | with_reducible assumption | with_reducible apply State.setReq_kept | with_reducible apply State.mgmt_kept
    | with_reducible apply Kept.ite | split | dsimp only | fail_if_no_progress with_reducible apply Kept.update

theorem State.bridgeN_kept {s0 s : State} (h : Kept cwr s0 s) (hw : cwr) (n : Nat) (x : SessId) : Kept cwr s0 (State.bridgeN n x s) := by
  induction n generalizing s with
  | zero => exact h
  | succ n ih =>
    unfold State.bridgeN
    split
    · exact h
    · exact Kept.ite h (ih (State.mgmt_kept (State.setReq_kept h ..) hw ..))

theorem State.smbSay_kept {s0 s : State} (h : Kept cwr s0 s) (acked : Bool) (bytes : List Byte) : Kept cwr s0 (State.smbSay s acked bytes) := by
  unfold State.smbSay
  repeat first
    | with_reducible assumption | dsimp only | fail_if_no_progress with_reducible apply Kept.update

theorem State.smbStatus_kept {s0 s : State} (h : Kept cwr s0 s) (st : Byte) : Kept cwr s0 (State.smbStatus s st) := by
  unfold State.smbStatus
  repeat first
    | with_reducible assumption | dsimp only | fail_if_no_progress with_reducible apply Kept.update

theorem State.drawWords_fin {s0 s : State} (h : Kept cwr s0 s) (n : Nat) : Kept cwr s0 (State.drawWords n s).2 := by
  induction n generalizing s with
  | zero => exact h
  | succ n ih => exact ih (State.draw_fin h 32)

theorem State.drawWords_kept {s0 s s' : State} {l : List Word} (h : Kept cwr s0 s) (n : Nat)
    (e : State.drawWords n s = (l, s')) : Kept cwr s0 s' := by
  have g := State.drawWords_fin h n
  rw [e] at g
  exact g

theorem State.smbDone_kept {s0 s : State} (h : Kept cwr s0 s) (write : Bool) (st : Byte) (got : List Word) : Kept cwr s0 (State.smbDone s write st got) := by
  unfold State.smbDone
  repeat first
    | with_reducible assumption | with_reducible apply State.smbSay_kept | with_reducible apply State.smbStatus_kept
    | with_reducible apply Kept.ite | split | dsimp only

theorem State.regWrite_kept {s0 s : State} (h : Kept cwr s0 s) (hw : cwr) (w : SmbWrite) : Kept cwr s0 (State.regWrite s w) := by
  unfold State.regWrite
  repeat first
    | with_reducible assumption | with_reducible apply State.denied_kept | with_reducible apply State.hold_kept
    | with_reducible apply State.smbSay_kept | with_reducible apply State.smbStatus_kept
    | with_reducible apply State.smbDone_kept | with_reducible refine State.writeAll_kept (e := by assumption) ?_ ?_ ..
    | with_reducible refine State.writeAll_fin ?_ ?_ .. | with_reducible apply Kept.ite | split | dsimp only
    | fail_if_no_progress with_reducible apply Kept.update

theorem State.readSet_kept {s0 s : State} (h : Kept cwr s0 s) (w : SmbWrite) : Kept cwr s0 (State.readSet s w) := by
  unfold State.readSet
  repeat first
    | with_reducible assumption | with_reducible apply State.smbSay_kept | with_reducible apply State.smbStatus_kept
    | with_reducible apply Kept.ite | split | dsimp only | fail_if_no_progress with_reducible apply Kept.update

theorem State.blockWrite_kept {s0 s : State} (h : Kept cwr s0 s) (hw : cwr) (w : SmbWrite) : Kept cwr s0 (State.blockWrite s w) := by
  unfold State.blockWrite
  repeat first
    | with_reducible assumption | with_reducible apply State.smbSay_kept | with_reducible apply State.smbStatus_kept
    | with_reducible apply State.regWrite_kept | with_reducible apply State.readSet_kept | with_reducible apply Kept.ite
    | split | dsimp only

theorem State.regRead_kept {s0 s : State} (h : Kept cwr s0 s) : Kept cwr s0 (State.regRead s) := by
  unfold State.regRead
  repeat first
    | with_reducible assumption | with_reducible apply State.hold_kept | with_reducible apply State.smbSay_kept
    | with_reducible apply State.smbStatus_kept | with_reducible apply State.smbDone_kept
    | with_reducible refine State.readOn_kept (e := by assumption) ?_ ..
    | with_reducible refine State.drawWords_kept (e := by assumption) ?_ .. | with_reducible refine State.readOn_fin ?_ ..
    | with_reducible refine State.drawWords_fin ?_ .. | with_reducible apply Kept.ite | split | dsimp only
    | fail_if_no_progress with_reducible apply Kept.update

theorem State.xstatus_kept {s0 s : State} (h : Kept cwr s0 s) : Kept cwr s0 (State.xstatus s) := by
  unfold State.xstatus
  repeat first
    | with_reducible assumption | with_reducible apply State.smbSay_kept | with_reducible apply Kept.ite | split | dsimp only

theorem State.alertAnswer_kept {s0 s : State} (h : Kept cwr s0 s) : Kept cwr s0 (State.alertAnswer s) := by
  unfold State.alertAnswer
  repeat first
    | with_reducible assumption | with_reducible apply State.smbSay_kept | with_reducible apply Kept.ite | split | dsimp only

theorem State.smbTimedOut_kept {s0 s : State} (h : Kept cwr s0 s) : Kept cwr s0 (State.smbTimedOut s) := by
  unfold State.smbTimedOut
  repeat first
    | with_reducible assumption | with_reducible apply State.modClk_kept | with_reducible apply State.smbSay_kept
    | with_reducible apply State.smbStatus_kept | with_reducible apply Kept.ite | split | dsimp only
    | fail_if_no_progress with_reducible apply Kept.update

theorem State.stretchEnds_kept {s0 s : State} (h : Kept cwr s0 s) : Kept cwr s0 (State.stretchEnds s) := by
  unfold State.stretchEnds
  repeat first
    | with_reducible assumption | with_reducible apply State.till_kept | with_reducible apply State.smbTimedOut_kept | split
    | dsimp only | fail_if_no_progress with_reducible apply Kept.update

theorem State.dapRegister_kept {s0 s : State} (h : Kept cwr s0 s) (hw : cwr) (data addr : Word) (write go : Bool) : Kept cwr s0 (State.dapRegister s data addr write go) := by
  unfold State.dapRegister
  repeat first
    | with_reducible assumption | with_reducible apply State.denied_kept | with_reducible apply State.dapDone_kept
    | with_reducible apply State.hold_kept | with_reducible refine State.readOn_kept (e := by assumption) ?_ ..
    | with_reducible refine State.writeAll_kept (e := by assumption) ?_ ?_ .. | with_reducible refine State.readOn_fin ?_ ..
    | with_reducible refine State.writeAll_fin ?_ ?_ .. | with_reducible apply Kept.ite | split | dsimp only
    | fail_if_no_progress with_reducible apply Kept.update

theorem State.dapMemory_kept {s0 s : State} (h : Kept cwr s0 s) (data : BitVec 64) (struct : BitVec 4) (t : TileId) (write : Bool) : Kept cwr s0 (State.dapMemory s data struct t write) := by
  unfold State.dapMemory
  repeat first
    | with_reducible assumption | with_reducible apply State.denied_kept
    | with_reducible refine State.draw_kept (e := by assumption) ?_ .. | with_reducible refine State.draw_fin ?_ ..
    | with_reducible apply Kept.ite | split | dsimp only | fail_if_no_progress with_reducible apply Kept.update

theorem State.tap_kept {s0 s : State} (h : Kept cwr s0 s) (ir : Byte) (pins : BitVec 2) : Kept cwr s0 (State.tap s ir pins) := by
  unfold State.tap
  repeat first
    | with_reducible assumption | with_reducible refine State.draw_kept (e := by assumption) ?_ ..
    | with_reducible refine State.draw_fin ?_ .. | with_reducible apply Kept.ite | split | dsimp only
    | fail_if_no_progress with_reducible apply Kept.update

theorem State.idCode_kept {s0 s : State} (h : Kept cwr s0 s) : Kept cwr s0 (State.idCode s) := by
  unfold State.idCode
  repeat first
    | with_reducible assumption | with_reducible apply Kept.ite | split | dsimp only
    | fail_if_no_progress with_reducible apply Kept.update

theorem State.tapClear_kept {s0 s : State} (h : Kept cwr s0 s) : Kept cwr s0 (State.tapClear s) := by
  unfold State.tapClear
  repeat first
    | with_reducible assumption | with_reducible apply Kept.ite | split | dsimp only
    | fail_if_no_progress with_reducible apply Kept.update

theorem State.smbPendEnds_kept {s0 s : State} (h : Kept cwr s0 s) (d : Pend) (st : Byte) (got : List Word) : Kept cwr s0 (State.smbPendEnds s d st got) := by
  unfold State.smbPendEnds
  repeat first
    | with_reducible assumption | with_reducible apply State.modClk_kept | with_reducible apply State.smbDone_kept
    | with_reducible apply State.dapDone_kept | with_reducible apply Kept.ite | split | dsimp only
    | fail_if_no_progress with_reducible apply Kept.update

theorem State.pendOn_kept {s0 s : State} (h : Kept cwr s0 s) (hw : cwr) (inBand : Bool) : Kept cwr s0 (State.pendOn s inBand) := by
  unfold State.pendOn
  repeat first
    | with_reducible assumption | with_reducible apply State.modClk_kept | with_reducible apply State.ackReq_kept
    | with_reducible apply State.hold_kept | with_reducible apply State.mgmtRan_kept
    | with_reducible apply State.smbPendEnds_kept | with_reducible refine State.readOn_kept (e := by assumption) ?_ ..
    | with_reducible refine State.writeAll_kept (e := by assumption) ?_ ?_ .. | with_reducible refine State.readOn_fin ?_ ..
    | with_reducible refine State.writeAll_fin ?_ ?_ .. | with_reducible apply Kept.ite | split | dsimp only
    | fail_if_no_progress with_reducible apply Kept.update

theorem State.pendGoesOn_kept {s0 s : State} (h : Kept cwr s0 s) (hw : cwr) (inBand : Bool) : Kept cwr s0 (State.pendGoesOn s inBand) := by
  unfold State.pendGoesOn
  repeat first
    | with_reducible assumption | with_reducible apply State.pendOn_kept | with_reducible apply Kept.ite | split | dsimp only
    | fail_if_no_progress with_reducible apply Kept.update

theorem State.pendReleased_kept {s0 s : State} (h : Kept cwr s0 s) (inBand : Bool) : Kept cwr s0 (State.pendReleased s inBand) := by
  unfold State.pendReleased
  repeat first
    | with_reducible assumption | with_reducible apply State.modClk_kept | with_reducible apply State.mgmtFails_kept
    | with_reducible apply State.smbPendEnds_kept | with_reducible refine State.drawWords_kept (e := by assumption) ?_ ..
    | with_reducible refine State.drawWords_fin ?_ .. | with_reducible apply Kept.ite | split | dsimp only
    | fail_if_no_progress with_reducible apply Kept.update

/-! ### Machine/Home.lean -/

theorem State.admDrop_kept {s0 s : State} (h : Kept cwr s0 s) (t : TileId) (o : Nat) : Kept cwr s0 (State.admDrop s t o) := by
  unfold State.admDrop
  repeat first
    | with_reducible assumption | with_reducible apply State.raise_kept | dsimp only

theorem State.sealMarker_kept {s0 s : State} (h : Kept cwr s0 s) (x : SessId) (n : Word) : Kept cwr s0 (State.sealMarker s x n) := by
  unfold State.sealMarker
  repeat first
    | with_reducible assumption | with_reducible apply State.modSes_kept | with_reducible apply State.wait_kept
    | with_reducible apply Kept.ite | split | dsimp only | fail_if_no_progress with_reducible apply Kept.update

theorem State.markerLost_kept {s0 s : State} (h : Kept cwr s0 s) (x : SessId) : Kept cwr s0 (State.markerLost s x) := by
  unfold State.markerLost
  repeat first
    | with_reducible assumption | with_reducible apply State.modSes_kept | split | dsimp only
    | fail_if_no_progress with_reducible apply Kept.update

theorem State.sealLate_kept {s0 s : State} (h : Kept cwr s0 s) (x : SessId) : Kept cwr s0 (State.sealLate s x) := by
  unfold State.sealLate
  repeat first
    | with_reducible assumption | with_reducible apply State.till_kept | with_reducible apply State.flush_kept
    | with_reducible apply State.sealMarker_kept | with_reducible apply Kept.ite | split | dsimp only

theorem State.tellParts_kept {s0 s : State} (h : Kept cwr s0 s) (x : SessId) (q : Req) (p : Part → Bool) (b : MsgBody) : Kept cwr s0 (State.tellParts s x q p b) := by
  unfold State.tellParts
  repeat first
    | with_reducible assumption | with_reducible refine Kept.foldl (fun _ _ _ => ?_) ?_ | with_reducible apply State.send_kept
    | dsimp only

theorem State.releaseParts_kept {s0 s : State} (h : Kept cwr s0 s) (x : SessId) (q : Req) : Kept cwr s0 (State.releaseParts s x q) := by
  unfold State.releaseParts
  repeat first
    | with_reducible assumption | with_reducible apply State.rewind_kept | with_reducible apply State.tellParts_kept
    | with_reducible apply Kept.ite | split | dsimp only

theorem State.expectStale_kept {s0 s : State} (h : Kept cwr s0 s) (x : SessId) (q : Req) : Kept cwr s0 (State.expectStale s x q) := by
  unfold State.expectStale
  repeat first
    | with_reducible assumption | with_reducible refine Kept.foldl (fun _ _ _ => ?_) ?_
    | with_reducible apply State.modSes_kept | dsimp only | fail_if_no_progress with_reducible apply Kept.update

theorem State.dropReq_kept {s0 s : State} (h : Kept cwr s0 s) (x : SessId) (q : Req) : Kept cwr s0 (State.dropReq s x q) := by
  unfold State.dropReq
  repeat first
    | with_reducible assumption | with_reducible apply State.modSes_kept | with_reducible apply State.admCnt_kept
    | with_reducible apply State.pmc_kept | with_reducible apply State.admDrop_kept | with_reducible apply Kept.ite | split
    | dsimp only | fail_if_no_progress with_reducible apply Kept.update

theorem State.parkReq_kept {s0 s : State} (h : Kept cwr s0 s) (x : SessId) (q : Req) : Kept cwr s0 (State.parkReq s x q) := by
  unfold State.parkReq
  repeat first
    | with_reducible assumption | with_reducible refine Kept.foldl (fun _ _ _ => ?_) ?_
    | with_reducible apply State.modSes_kept | with_reducible apply State.admCnt_kept | with_reducible apply State.gapNak_kept
    | with_reducible apply State.admDrop_kept | with_reducible apply State.releaseParts_kept
    | with_reducible apply State.expectStale_kept | with_reducible apply Kept.ite | split | dsimp only
    | fail_if_no_progress with_reducible apply Kept.update

theorem State.unadmitted_kept {s0 s : State} (h : Kept cwr s0 s) (x : SessId) (q : Req) (fs : List Short) : Kept cwr s0 (State.unadmitted s x q fs) := by
  unfold State.unadmitted
  repeat first
    | with_reducible assumption | with_reducible apply State.modSes_kept | with_reducible apply State.admCnt_kept
    | with_reducible apply State.wait_kept | with_reducible apply State.refuse_kept | with_reducible apply State.pmc_kept
    | with_reducible apply State.admDrop_kept | with_reducible apply State.sealMarker_kept
    | with_reducible apply State.releaseParts_kept | with_reducible apply State.dropReq_kept
    | with_reducible apply State.parkReq_kept | with_reducible apply Kept.ite | split | dsimp only
    | fail_if_no_progress with_reducible apply Kept.update

theorem State.runHome_kept {s0 s : State} (h : Kept cwr s0 s) (hw : cwr) (x : SessId) (q : Req) : Kept cwr s0 (State.runHome s x q) := by
  unfold State.runHome
  repeat first
    | with_reducible assumption | with_reducible apply State.modSes_kept | with_reducible apply State.wait_kept
    | with_reducible apply State.flush_kept | with_reducible apply State.respond_kept | with_reducible apply State.ack_kept
    | with_reducible apply State.change_kept | with_reducible apply State.lockReq_kept
    | with_reducible apply State.unlockReq_kept | with_reducible apply State.mgmtArrives_kept
    | with_reducible refine State.draw_kept (e := by assumption) ?_ .. | with_reducible refine State.draw_fin ?_ ..
    | with_reducible apply Kept.ite | split | dsimp only | fail_if_no_progress with_reducible apply Kept.update

theorem State.armHome_kept {s0 s : State} (h : Kept cwr s0 s) (hw : cwr) (x : SessId) (q : Req) : Kept cwr s0 (State.armHome s x q) := by
  unfold State.armHome
  repeat first
    | with_reducible assumption | with_reducible apply State.modSes_kept | with_reducible apply State.modAdm_kept
    | with_reducible apply State.armCell_kept | with_reducible apply State.rewind_kept
    | with_reducible apply State.sealMarker_kept | with_reducible apply State.unadmitted_kept
    | with_reducible apply State.runHome_kept | with_reducible refine State.claim_kept (e := by assumption) ?_ ..
    | with_reducible refine State.claim_fin ?_ .. | with_reducible apply Kept.ite | split | dsimp only
    | fail_if_no_progress with_reducible apply Kept.update

theorem State.dataLines_fin {s0 s : State} (h : Kept cwr s0 s) (p : Part) (r : PartRes) : Kept cwr s0 (s.dataLines p r).2.2 := by
  unfold State.dataLines
  generalize List.range p.n = l
  suffices g : ∀ (e : List Line × BitVec 64 × State), Kept cwr s0 e.2.2 → Kept cwr s0 (l.foldl (fun (e : List Line × BitVec 64 × State) i =>
      let bad := r.poison.getLsbD (p.first + i) || decide (r.lines.length ≤ i)
      let (v, s) := if bad then e.2.2.draw 512 else (r.lines.getD i 0, e.2.2)
      (e.1 ++ [v], if bad then e.2.1 ||| (1#64 <<< (p.first + i)) else e.2.1, s)) e).2.2 from g _ h
  induction l with
  | nil => exact fun _ h => h
  | cons a l ih =>
    refine fun e h => ih _ ?_
    dsimp only
    split
    · exact State.draw_fin h 512
    · exact h

theorem State.dataLines_kept {s0 s s' : State} {l : List Line} {b : BitVec 64} (h : Kept cwr s0 s) (p : Part) (r : PartRes)
    (e : s.dataLines p r = (l, b, s')) : Kept cwr s0 s' := by
  have g := State.dataLines_fin h p r
  rw [e] at g
  exact g

theorem State.answer_kept {s0 s : State} (h : Kept cwr s0 s) (x : SessId) (q : Req) : Kept cwr s0 (State.answer s x q) := by
  unfold State.answer
  repeat first
    | with_reducible assumption | with_reducible refine Kept.fold3 (fun _ _ _ => ?_) ?_
    | with_reducible refine Kept.foldl (fun _ _ _ => ?_) ?_ | with_reducible apply State.respond_kept
    | with_reducible apply State.ack_kept | with_reducible refine State.dataLines_kept (e := by assumption) ?_ ..
    | with_reducible refine State.dataLines_fin ?_ .. | with_reducible apply Kept.ite | split | dsimp only
    | fail_if_no_progress with_reducible apply Kept.update

theorem State.partDone_kept {s0 s : State} (h : Kept cwr s0 s) (x : SessId) (seq : Word) (first : Nat) (r : PartRes) : Kept cwr s0 (State.partDone s x seq first r) := by
  unfold State.partDone
  repeat first
    | with_reducible assumption | with_reducible apply State.modSes_kept | with_reducible apply State.answer_kept
    | with_reducible apply Kept.ite | split | dsimp only | fail_if_no_progress with_reducible apply Kept.update

theorem State.sendClaims_kept {s0 s : State} (h : Kept cwr s0 s) (x : SessId) (q : Req) (armNow : Bool) : Kept cwr s0 (State.sendClaims s x q armNow) := by
  unfold State.sendClaims
  repeat first
    | with_reducible assumption | with_reducible refine Kept.foldl (fun _ _ _ => ?_) ?_
    | with_reducible apply State.modSes_kept | with_reducible apply State.send_kept
    | with_reducible refine State.claim_kept (e := by assumption) ?_ .. | with_reducible refine State.claim_fin ?_ ..
    | with_reducible apply Kept.ite | split | dsimp only | fail_if_no_progress with_reducible apply Kept.update

theorem State.armReq_kept {s0 s : State} (h : Kept cwr s0 s) (x : SessId) (q : Req) : Kept cwr s0 (State.armReq s x q) := by
  unfold State.armReq
  repeat first
    | with_reducible assumption | with_reducible apply State.modSes_kept | with_reducible apply State.sealMarker_kept
    | with_reducible apply State.tellParts_kept | with_reducible apply Kept.ite | split | dsimp only
    | fail_if_no_progress with_reducible apply Kept.update

theorem State.failReq_kept {s0 s : State} (h : Kept cwr s0 s) (x : SessId) (q : Req) (st : Option Byte) : Kept cwr s0 (State.failReq s x q st) := by
  unfold State.failReq
  repeat first
    | with_reducible assumption | with_reducible apply State.modSes_kept | with_reducible apply Kept.ite | split | dsimp only
    | fail_if_no_progress with_reducible apply Kept.update

theorem State.advance1_kept {s0 s s' : State} (h : Kept cwr s0 s) (hw : cwr) (x : SessId) (e : s.advance1 x = some s') : Kept cwr s0 s' := by
  unfold State.advance1 at e
  dsimp only at e
  repeat' split at e
  all_goals cases e
  all_goals repeat first
    | with_reducible assumption | with_reducible apply State.modSes_kept | with_reducible apply State.refuse_kept
    | with_reducible apply State.mgmtFails_kept | with_reducible apply State.releaseParts_kept
    | with_reducible apply State.unadmitted_kept | with_reducible apply State.armHome_kept
    | with_reducible apply State.sendClaims_kept | with_reducible apply State.armReq_kept
    | with_reducible apply State.failReq_kept | with_reducible apply Kept.ite | split | dsimp only
    | fail_if_no_progress with_reducible apply Kept.update

theorem State.advanceN_kept {s0 s : State} (h : Kept cwr s0 s) (hw : cwr) (n : Nat) (x : SessId) : Kept cwr s0 (State.advanceN n x s) := by
  induction n generalizing s with
  | zero => exact h
  | succ n ih =>
    unfold State.advanceN
    split
    · exact ih (State.advance1_kept h hw _ (by assumption))
    · exact h

theorem State.claimAhead_kept {s0 s : State} (h : Kept cwr s0 s) (x : SessId) : Kept cwr s0 (State.claimAhead s x) := by
  unfold State.claimAhead
  repeat first
    | with_reducible assumption | with_reducible refine Kept.foldl (fun _ _ _ => ?_) ?_
    | with_reducible apply State.sendClaims_kept | with_reducible apply Kept.ite | split | dsimp only

theorem State.again_kept {s0 s : State} (h : Kept cwr s0 s) (x : SessId) (r : Rq) (c : Cached) : Kept cwr s0 (State.again s x r c) := by
  unfold State.again
  repeat first
    | with_reducible assumption | with_reducible apply State.modSes_kept | with_reducible apply State.wait_kept
    | with_reducible apply State.ack_kept | with_reducible apply Kept.ite | split | dsimp only
    | fail_if_no_progress with_reducible apply Kept.update

theorem State.rerunN_kept {s0 s : State} (h : Kept cwr s0 s) (n : Nat) (x : SessId) : Kept cwr s0 (State.rerunN n x s) := by
  induction n generalizing s with
  | zero => exact h
  | succ n ih =>
    unfold State.rerunN
    dsimp only
    split
    · exact h
    · refine ih ?_
      split
      · exact State.again_kept (State.modSes_kept h ..) ..
      · exact State.lcnt_kept (State.modSes_kept h ..) ..

theorem State.settle_kept {s0 s : State} (h : Kept cwr s0 s) (hw : cwr) (x : SessId) : Kept cwr s0 (State.settle s x) := by
  unfold State.settle
  repeat first
    | with_reducible assumption | with_reducible apply State.flush_kept | with_reducible apply State.pnCheck_kept
    | with_reducible apply State.bridgeN_kept | with_reducible apply State.advanceN_kept
    | with_reducible apply State.claimAhead_kept | with_reducible apply State.rerunN_kept | dsimp only

theorem State.settleAll_kept {s0 s : State} (h : Kept cwr s0 s) (hw : cwr) : Kept cwr s0 (State.settleAll s) := by
  unfold State.settleAll
  repeat first
    | with_reducible assumption | with_reducible refine Kept.foldl (fun _ _ _ => ?_) ?_
    | with_reducible apply State.settle_kept | dsimp only

theorem State.accept_kept {s0 s : State} (h : Kept cwr s0 s) (x : SessId) (r : Rq) : Kept cwr s0 (State.accept s x r) := by
  unfold State.accept
  repeat first
    | with_reducible assumption | with_reducible apply State.modSes_kept | with_reducible apply Kept.ite | split | dsimp only
    | fail_if_no_progress with_reducible apply Kept.update

theorem State.arrive_kept {s0 s : State} (h : Kept cwr s0 s) (hw : cwr) (x : SessId) (r : Rq) : Kept cwr s0 (State.arrive s x r) := by
  unfold State.arrive
  repeat first
    | with_reducible assumption | with_reducible apply State.modSes_kept | with_reducible apply State.lcnt_kept
    | with_reducible apply State.ack_kept | with_reducible apply State.readAck_kept | with_reducible apply State.ahead_kept
    | with_reducible apply State.again_kept | with_reducible apply State.settle_kept | with_reducible apply State.accept_kept
    | with_reducible apply Kept.ite | split | dsimp only | fail_if_no_progress with_reducible apply Kept.update

theorem State.protectedFrame_kept {s0 s : State} (h : Kept cwr s0 s) (hw : cwr) (x : SessId) (r : Rq) : Kept cwr s0 (State.protectedFrame s x r) := by
  unfold State.protectedFrame
  repeat first
    | with_reducible assumption | with_reducible apply State.lcnt_kept | with_reducible apply State.unseq_kept
    | with_reducible apply State.settle_kept | with_reducible apply State.arrive_kept | with_reducible apply Kept.ite | split
    | dsimp only

theorem State.request_kept {s0 s : State} (h : Kept cwr s0 s) (hw : cwr) (op : BitVec 8) (r : Rq) : Kept cwr s0 (State.request s op r) := by
  unfold State.request
  repeat first
    | with_reducible assumption | with_reducible apply State.modSes_kept | with_reducible apply State.protectedFrame_kept
    | with_reducible apply Kept.ite | split | dsimp only | fail_if_no_progress with_reducible apply Kept.update

theorem State.barrierAck_kept {s0 s : State} (h : Kept cwr s0 s) (hw : cwr) (x : SessId) : Kept cwr s0 (State.barrierAck s x) := by
  unfold State.barrierAck
  repeat first
    | with_reducible assumption | with_reducible apply State.ack_kept | with_reducible apply State.settle_kept
    | with_reducible apply Kept.ite | split | dsimp only | fail_if_no_progress with_reducible apply Kept.update

theorem State.takeMsg_kept {s0 s : State} (h : Kept cwr s0 s) (src dst : TileId) : Kept cwr s0 (State.takeMsg s src dst) := by
  unfold State.takeMsg
  repeat first
    | with_reducible assumption | dsimp only | fail_if_no_progress with_reducible apply Kept.update

theorem State.msgClaim_kept {s0 s : State} (h : Kept cwr s0 s) (src dst : TileId) : Kept cwr s0 (State.msgClaim s src dst) := by
  unfold State.msgClaim
  repeat first
    | with_reducible assumption | with_reducible apply State.modCell_kept | with_reducible apply State.send_kept
    | with_reducible apply State.armPart_kept | with_reducible apply State.takeMsg_kept
    | with_reducible refine State.claim_kept (e := by assumption) ?_ .. | with_reducible refine State.claim_fin ?_ ..
    | with_reducible apply Kept.ite | split | dsimp only | fail_if_no_progress with_reducible apply Kept.update

theorem State.msgResult_kept {s0 s : State} (h : Kept cwr s0 s) (hw : cwr) (src dst : TileId) : Kept cwr s0 (State.msgResult s src dst) := by
  unfold State.msgResult
  repeat first
    | with_reducible assumption | with_reducible apply State.modSes_kept | with_reducible apply State.sealMarker_kept
    | with_reducible apply State.settle_kept | with_reducible apply State.takeMsg_kept | with_reducible apply Kept.ite | split
    | dsimp only | fail_if_no_progress with_reducible apply Kept.update

theorem State.msgArm_kept {s0 s : State} (h : Kept cwr s0 s) (src dst : TileId) : Kept cwr s0 (State.msgArm s src dst) := by
  unfold State.msgArm
  repeat first
    | with_reducible assumption | with_reducible apply State.armPart_kept | with_reducible apply State.endCell_kept
    | with_reducible apply State.takeMsg_kept | with_reducible apply Kept.ite | split | dsimp only
    | fail_if_no_progress with_reducible apply Kept.update

theorem State.msgDrop_kept {s0 s : State} (h : Kept cwr s0 s) (src dst : TileId) : Kept cwr s0 (State.msgDrop s src dst) := by
  unfold State.msgDrop
  repeat first
    | with_reducible assumption | with_reducible apply State.dropPart_kept | with_reducible apply State.takeMsg_kept
    | with_reducible apply Kept.ite | split | dsimp only | fail_if_no_progress with_reducible apply Kept.update

theorem State.msgRewind_kept {s0 s : State} (h : Kept cwr s0 s) (src dst : TileId) : Kept cwr s0 (State.msgRewind s src dst) := by
  unfold State.msgRewind
  repeat first
    | with_reducible assumption | with_reducible apply State.rewind_kept | with_reducible apply State.takeMsg_kept
    | with_reducible apply Kept.ite | split | dsimp only | fail_if_no_progress with_reducible apply Kept.update

theorem State.msgDone_kept {s0 s : State} (h : Kept cwr s0 s) (hw : cwr) (src dst : TileId) : Kept cwr s0 (State.msgDone s src dst) := by
  unfold State.msgDone
  repeat first
    | with_reducible assumption | with_reducible apply State.partDone_kept | with_reducible apply State.settle_kept
    | with_reducible apply State.takeMsg_kept | with_reducible apply Kept.ite | split | dsimp only
    | fail_if_no_progress with_reducible apply Kept.update

theorem State.offlineTile_kept {s0 s : State} (h : Kept cwr s0 s) (hw : cwr) (t : TileId) : Kept cwr s0 (State.offlineTile s t) := by
  unfold State.offlineTile
  repeat first
    | with_reducible assumption | with_reducible refine Kept.foldl (fun _ _ _ => ?_) ?_
    | with_reducible apply State.modSes_kept | with_reducible apply State.releaseParts_kept
    | with_reducible apply State.expectStale_kept | with_reducible apply State.partDone_kept
    | with_reducible apply State.settle_kept | with_reducible apply Kept.ite | split | dsimp only
    | fail_if_no_progress with_reducible apply Kept.update

/-! ### Machine/Receive.lean -/

theorem State.macCounts_kept {s0 s : State} (h : Kept cwr s0 s) (p : PortId) (j : LinkId) (f : RxFrame) : Kept cwr s0 (State.macCounts s p j f) := by
  unfold State.macCounts
  repeat first
    | with_reducible assumption | with_reducible apply State.lcnt_kept | with_reducible apply Kept.ite | split | dsimp only

theorem State.inner_kept {s0 s : State} (h : Kept cwr s0 s) (hw : cwr) (x : SessId) (plain : List Byte) : Kept cwr s0 (State.inner s x plain) := by
  unfold State.inner
  repeat first
    | with_reducible assumption | with_reducible apply State.protectedFrame_kept | with_reducible apply Kept.ite | split
    | dsimp only | fail_if_no_progress with_reducible apply Kept.update

theorem State.macsec_kept {s0 s : State} (h : Kept cwr s0 s) (hw : cwr) (p : PortId) (j : LinkId) (l : List Byte) (c : SecTag) : Kept cwr s0 (State.macsec s p j l c) := by
  unfold State.macsec
  repeat first
    | with_reducible assumption | with_reducible apply State.modStrg_kept | with_reducible apply State.stranger_kept
    | with_reducible apply State.heard_kept | with_reducible apply State.inner_kept | with_reducible apply Kept.ite | split
    | dsimp only | fail_if_no_progress with_reducible apply Kept.update

theorem State.clearFrame_kept {s0 s : State} (h : Kept cwr s0 s) (p : PortId) (j : LinkId) (e : EnrFrame) : Kept cwr s0 (State.clearFrame s p j e) := by
  unfold State.clearFrame
  repeat first
    | with_reducible assumption | with_reducible apply State.stranger_kept | with_reducible apply State.enrollArrives_kept
    | with_reducible apply State.finishArrives_kept | with_reducible apply Kept.ite | split | dsimp only

theorem State.enrFrame_kept {s0 s : State} (h : Kept cwr s0 s) (p : PortId) (j : LinkId) (e : EnrFrame) : Kept cwr s0 (State.enrFrame s p j e) := by
  unfold State.enrFrame
  repeat first
    | with_reducible assumption | with_reducible apply State.lcnt_kept | with_reducible apply State.clearFrame_kept
    | with_reducible apply Kept.ite | split | dsimp only

theorem State.clear_kept {s0 s : State} (h : Kept cwr s0 s) (p : PortId) (j : LinkId) (l : List Byte) : Kept cwr s0 (State.clear s p j l) := by
  unfold State.clear
  repeat first
    | with_reducible assumption | with_reducible apply State.stranger_kept | with_reducible apply State.clearFrame_kept
    | with_reducible apply Kept.ite | split | dsimp only | fail_if_no_progress with_reducible apply Kept.update

theorem State.receive_kept {s0 s : State} (h : Kept cwr s0 s) (hw : cwr) (p : PortId) (j : LinkId) (f : RxFrame) : Kept cwr s0 (State.receive s p j f) := by
  unfold State.receive
  repeat first
    | with_reducible assumption | with_reducible apply State.lcnt_kept | with_reducible apply State.macCounts_kept
    | with_reducible apply State.macsec_kept | with_reducible apply State.clear_kept | with_reducible apply Kept.ite | split
    | dsimp only | fail_if_no_progress with_reducible apply Kept.update

/-! ### Machine/Sram.lean -/

theorem State.cellLost_kept {s0 s : State} (h : Kept cwr s0 s) (t : TileId) (id : Nat) : Kept cwr s0 (State.cellLost s t id) := by
  unfold State.cellLost
  repeat first
    | with_reducible assumption | with_reducible refine Kept.foldl (fun _ _ _ => ?_) ?_
    | with_reducible apply State.refuse_kept | with_reducible apply State.modCell_kept | with_reducible apply State.send_kept
    | with_reducible apply State.release_kept | with_reducible apply State.serveWaiting_kept
    | with_reducible apply State.abortCell_kept | with_reducible apply State.outcome_kept | with_reducible apply Kept.ite
    | split | dsimp only | fail_if_no_progress with_reducible apply Kept.update

theorem State.restoreXlt_kept {s0 s : State} (h : Kept cwr s0 s) (hw : cwr) (t : TileId) : Kept cwr s0 (State.restoreXlt s t) := by
  unfold State.restoreXlt
  repeat first
    | with_reducible assumption | with_reducible refine Kept.foldl (fun _ _ _ => ?_) ?_
    | with_reducible apply State.modTile_kept | with_reducible apply State.modSec_kept
    | with_reducible apply State.tileFault_kept | with_reducible apply State.settle_kept | dsimp only
    | fail_if_no_progress with_reducible apply Kept.update

theorem State.treeWordLost_kept {s0 s : State} (h : Kept cwr s0 s) (t : TileId) (key : Nat) : Kept cwr s0 (State.treeWordLost s t key) := by
  unfold State.treeWordLost
  repeat first
    | with_reducible assumption | with_reducible apply State.modSec_kept | with_reducible apply State.wantNode_kept
    | with_reducible apply State.addLost_kept | with_reducible refine State.draw_kept (e := by assumption) ?_ ..
    | with_reducible refine State.draw_fin ?_ .. | with_reducible apply Kept.ite | split | dsimp only
    | fail_if_no_progress with_reducible apply Kept.update

theorem State.frameLost_kept {s0 s : State} (h : Kept cwr s0 s) (x : SessId) (i : Nat) : Kept cwr s0 (State.frameLost s x i) := by
  unfold State.frameLost
  repeat first
    | with_reducible assumption | with_reducible apply State.modSes_kept | with_reducible apply Kept.ite | split | dsimp only
    | fail_if_no_progress with_reducible apply Kept.update

theorem State.cacheLost_kept {s0 s : State} (h : Kept cwr s0 s) (x : SessId) (seq : Nat) : Kept cwr s0 (State.cacheLost s x seq) := by
  unfold State.cacheLost
  repeat first
    | with_reducible assumption | with_reducible apply State.modSes_kept | split | dsimp only
    | fail_if_no_progress with_reducible apply Kept.update

theorem State.wordLost_kept {s0 s : State} (h : Kept cwr s0 s) (hw : cwr) (t : TileId) (struct : BitVec 4) (item : Nat) : Kept cwr s0 (State.wordLost s t struct item) := by
  unfold State.wordLost
  repeat first
    | with_reducible assumption | with_reducible apply State.modAdm_kept | with_reducible apply State.modXlt_kept
    | with_reducible apply State.modSch_kept | with_reducible apply State.modCell_kept
    | with_reducible apply State.rollToken_kept | with_reducible apply State.tileFault_kept
    | with_reducible apply State.cellLost_kept | with_reducible apply State.restoreXlt_kept
    | with_reducible apply State.treeWordLost_kept | with_reducible apply State.frameLost_kept
    | with_reducible apply State.cacheLost_kept | with_reducible apply State.markerLost_kept | with_reducible apply Kept.ite | split | dsimp only
    | fail_if_no_progress with_reducible apply Kept.update

theorem State.sramBad_kept {s0 s : State} (h : Kept cwr s0 s) (hw : cwr) (z : SramSite) : Kept cwr s0 (s.sramBad z) := by
  unfold State.sramBad
  cases z
  all_goals repeat first
    | with_reducible assumption | with_reducible apply State.modTile_kept | with_reducible apply State.modEvt_kept
    | with_reducible apply State.raise_kept | with_reducible apply State.askWarm_kept
    | with_reducible apply State.wordLost_kept | with_reducible apply Kept.ite | split | dsimp only
    | fail_if_no_progress with_reducible apply Kept.update

/-! ### Machine/Gate.lean -/

theorem State.writeAt_kept {s0 s : State} (h : Kept cwr s0 s) (hw : cwr) (a : Nat) (v : Word) : Kept cwr s0 (State.writeAt s a v) := by
  unfold State.writeAt
  repeat first
    | with_reducible assumption | with_reducible apply State.writeReg_kept | split | dsimp only
    | fail_if_no_progress with_reducible apply Kept.update

theorem State.after_kept {s0 s' : State} (h : Kept cwr s0 s') (hw : cwr) : Kept cwr s0 (State.after s s') := by
  unfold State.after
  repeat first
    | with_reducible assumption | with_reducible refine Kept.foldl (fun _ _ _ => ?_) ?_
    | with_reducible apply State.settleAll_kept | with_reducible apply State.offlineTile_kept | with_reducible apply Kept.ite
    | split | dsimp only

theorem State.idle_kept {s0 s : State} (h : Kept cwr s0 s) : Kept cwr s0 s.idle :=
  Kept.foldl (fun _ _ g => State.pmcCycle_kept g _)
    ⟨h.pending, h.part, h.stepping, h.now.trans (Nat.le_succ _), h.free, h.media, h.cws⟩

end Sys2Proof.Machine
end

