-- ==== Sys2Proof/Laws/KeptCommands.lean ====
section
/-! SUPPORT. `Kept` (Safety.lean) for each command: each operation keeps what every command must keep. -/

namespace Sys2Proof.Machine

variable {cwr : Prop}

/-! ### Machine/CmdTransport.lean -/

/-- A command that acts where it is enabled keeps what its action keeps. -/
theorem State.doIf_kept {s t : State} {b : Bool} {f : State → State} (e : s.doIf b f = .next t) (h : Kept cwr s (f s)) : Kept cwr s t := by
  unfold State.doIf at e
  split at e <;> cases e
  · exact h
  · exact Kept.refl s

theorem State.doPlace_kept {s t : State} {n l : Nat} {b : Bool} {f : State → State} (e : s.doPlace n l b f = .next t)
    (h : Kept cwr s (f s)) : Kept cwr s t := by
  unfold State.doPlace at e
  split at e
  · cases e
  · exact State.doIf_kept e h

theorem State.doAll_kept {s t : State} {b : Bool} {f : State → State} (hw : cwr) (e : s.doAll b f = .next t) (h : Kept cwr s (f s)) : Kept cwr s t :=
  State.doIf_kept e (State.after_kept h hw ..)

theorem execReceiveFrame_kept {s t_ : State} {p : PortId} {l : LinkId} {f : RxFrame} (hw : cwr) (e : execReceiveFrame p l f s = .next t_) : Kept cwr s t_ := by
  refine State.doIf_kept e ?_
  have h : Kept cwr s s := Kept.refl s
  exact State.receive_kept h hw ..

theorem execRead_kept {s t_ : State} {r : Rq} (hw : cwr) (e : execRead r s = .next t_) : Kept cwr s t_ := by
  refine State.doIf_kept e ?_
  have h : Kept cwr s s := Kept.refl s
  exact State.request_kept h hw ..

theorem execWrite_kept {s t_ : State} {r : Rq} (hw : cwr) (e : execWrite r s = .next t_) : Kept cwr s t_ := by
  refine State.doIf_kept e ?_
  have h : Kept cwr s s := Kept.refl s
  exact State.request_kept h hw ..

theorem execWritePartial_kept {s t_ : State} {r : Rq} (hw : cwr) (e : execWritePartial r s = .next t_) : Kept cwr s t_ := by
  refine State.doIf_kept e ?_
  have h : Kept cwr s s := Kept.refl s
  exact State.request_kept h hw ..

theorem execCas64_kept {s t_ : State} {r : Rq} (hw : cwr) (e : execCas64 r s = .next t_) : Kept cwr s t_ := by
  refine State.doIf_kept e ?_
  have h : Kept cwr s s := Kept.refl s
  exact State.request_kept h hw ..

theorem execFadd64_kept {s t_ : State} {r : Rq} (hw : cwr) (e : execFadd64 r s = .next t_) : Kept cwr s t_ := by
  refine State.doIf_kept e ?_
  have h : Kept cwr s s := Kept.refl s
  exact State.request_kept h hw ..

theorem execBarrier_kept {s t_ : State} {r : Rq} (hw : cwr) (e : execBarrier r s = .next t_) : Kept cwr s t_ := by
  refine State.doIf_kept e ?_
  have h : Kept cwr s s := Kept.refl s
  exact State.request_kept h hw ..

theorem execLock_kept {s t_ : State} {r : Rq} (hw : cwr) (e : execLock r s = .next t_) : Kept cwr s t_ := by
  refine State.doIf_kept e ?_
  have h : Kept cwr s s := Kept.refl s
  exact State.request_kept h hw ..

theorem execUnlock_kept {s t_ : State} {r : Rq} (hw : cwr) (e : execUnlock r s = .next t_) : Kept cwr s t_ := by
  refine State.doIf_kept e ?_
  have h : Kept cwr s s := Kept.refl s
  exact State.request_kept h hw ..

theorem execMgmtRead_kept {s t_ : State} {r : Rq} (hw : cwr) (e : execMgmtRead r s = .next t_) : Kept cwr s t_ := by
  refine State.doIf_kept e ?_
  have h : Kept cwr s s := Kept.refl s
  exact State.request_kept h hw ..

theorem execMgmtWrite_kept {s t_ : State} {r : Rq} (hw : cwr) (e : execMgmtWrite r s = .next t_) : Kept cwr s t_ := by
  refine State.doAll_kept hw e ?_
  have h : Kept cwr s s := Kept.refl s
  exact State.request_kept h hw ..

theorem execKeepalive_kept {s t_ : State} {r : Rq} (hw : cwr) (e : execKeepalive r s = .next t_) : Kept cwr s t_ := by
  refine State.doIf_kept e ?_
  have h : Kept cwr s s := Kept.refl s
  exact State.request_kept h hw ..

theorem execHostGapNak_kept {s t_ : State} {r : Rq} (hw : cwr) (e : execHostGapNak r s = .next t_) : Kept cwr s t_ := by
  refine State.doIf_kept e ?_
  have h : Kept cwr s s := Kept.refl s
  try dsimp only
  repeat first
    | with_reducible assumption | with_reducible apply State.request_kept | dsimp only
    | fail_if_no_progress with_reducible apply Kept.update

theorem execGapNakResend_kept {s t_ : State} {x : SessId} (e : execGapNakResend x s = .next t_) : Kept cwr s t_ := by
  refine State.doIf_kept e ?_
  have h : Kept cwr s s := Kept.refl s
  try dsimp only
  repeat first
    | with_reducible assumption | with_reducible apply State.till_kept | with_reducible apply State.gapNak_kept | split
    | dsimp only | fail_if_no_progress with_reducible apply Kept.update

theorem execRetransmissionTimeout_kept {s t_ : State} {x : SessId} (e : execRetransmissionTimeout x s = .next t_) : Kept cwr s t_ := by
  refine State.doIf_kept e ?_
  have h : Kept cwr s s := Kept.refl s
  exact State.rtoExpires_kept h ..

theorem execTailKeepaliveSend_kept {s t_ : State} {x : SessId} (e : execTailKeepaliveSend x s = .next t_) : Kept cwr s t_ := by
  refine State.doIf_kept e ?_
  have h : Kept cwr s s := Kept.refl s
  try dsimp only
  repeat first
    | with_reducible assumption | with_reducible apply State.till_kept | with_reducible apply State.keepAlive_kept | dsimp only

theorem execKaLimitKeepaliveSend_kept {s t_ : State} {x : SessId} (e : execKaLimitKeepaliveSend x s = .next t_) : Kept cwr s t_ := by
  refine State.doIf_kept e ?_
  have h : Kept cwr s s := Kept.refl s
  try dsimp only
  repeat first
    | with_reducible assumption | with_reducible apply State.till_kept | with_reducible apply State.keepAlive_kept | dsimp only

theorem execKeepAliveLost_kept {s t_ : State} {x : SessId} (e : execKeepAliveLost x s = .next t_) : Kept cwr s t_ := by
  refine State.doIf_kept e ?_
  have h : Kept cwr s s := Kept.refl s
  try dsimp only
  repeat first
    | with_reducible assumption | with_reducible apply State.till_kept | with_reducible apply State.endSession_kept
    | dsimp only

theorem execRetentionRoomSend_kept {s t_ : State} {x : SessId} (hw : cwr) (e : execRetentionRoomSend x s = .next t_) : Kept cwr s t_ := by
  refine State.doIf_kept e ?_
  have h : Kept cwr s s := Kept.refl s
  exact State.settle_kept h hw ..

/-! ### Machine/CmdSession.lean -/

theorem execEnroll_kept {s t_ : State} {p : PortId} {l : LinkId} {f : EnrFrame} (e : execEnroll p l f s = .next t_) : Kept cwr s t_ := by
  refine State.doIf_kept e ?_
  have h : Kept cwr s s := Kept.refl s
  exact State.enrFrame_kept h ..

theorem execEnrollFinish_kept {s t_ : State} {p : PortId} {l : LinkId} {f : EnrFrame} (e : execEnrollFinish p l f s = .next t_) : Kept cwr s t_ := by
  refine State.doIf_kept e ?_
  have h : Kept cwr s s := Kept.refl s
  exact State.enrFrame_kept h ..

theorem execEnrollQueueService_kept {s t_ : State} (e : execEnrollQueueService s = .next t_) : Kept cwr s t_ := by
  refine State.doIf_kept e ?_
  have h : Kept cwr s s := Kept.refl s
  exact State.serveEnr_kept h ..

theorem execEnrollmentComplete_kept {s t_ : State} {x : SessId} (e : execEnrollmentComplete x s = .next t_) : Kept cwr s t_ := by
  refine State.doIf_kept e ?_
  have h : Kept cwr s s := Kept.refl s
  try dsimp only
  repeat first
    | with_reducible assumption | with_reducible apply State.completeEnr_kept | dsimp only

theorem execRolloverEnroll_kept {s t_ : State} {r : Rq} (hw : cwr) (e : execRolloverEnroll r s = .next t_) : Kept cwr s t_ := by
  refine State.doIf_kept e ?_
  have h : Kept cwr s s := Kept.refl s
  exact State.request_kept h hw ..

theorem execRolloverEnrollFinish_kept {s t_ : State} {r : Rq} (hw : cwr) (e : execRolloverEnrollFinish r s = .next t_) : Kept cwr s t_ := by
  refine State.doIf_kept e ?_
  have h : Kept cwr s s := Kept.refl s
  exact State.request_kept h hw ..

theorem execOldReceiveSaDelete_kept {s t_ : State} {x : SessId} (e : execOldReceiveSaDelete x s = .next t_) : Kept cwr s t_ := by
  refine State.doIf_kept e ?_
  have h : Kept cwr s s := Kept.refl s
  try dsimp only
  repeat first
    | with_reducible assumption | with_reducible apply State.modSes_kept | with_reducible apply State.till_kept | split
    | dsimp only | fail_if_no_progress with_reducible apply Kept.update

theorem execPendingExchangeExpiry_kept {s t_ : State} {x : SessId} (e : execPendingExchangeExpiry x s = .next t_) : Kept cwr s t_ := by
  refine State.doIf_kept e ?_
  have h : Kept cwr s s := Kept.refl s
  try dsimp only
  repeat first
    | with_reducible assumption | with_reducible apply State.modSes_kept | with_reducible apply State.till_kept | split
    | dsimp only | fail_if_no_progress with_reducible apply Kept.update

theorem execSessionCloseComplete_kept {s t_ : State} {x : SessId} (e : execSessionCloseComplete x s = .next t_) : Kept cwr s t_ := by
  refine State.doIf_kept e ?_
  have h : Kept cwr s s := Kept.refl s
  exact State.closeDone_kept h ..

theorem execSesKill_kept {s t_ : State} {x : SessId} (e : execSesKill x s = .next t_) : Kept cwr s t_ := by
  refine State.doIf_kept e ?_
  have h : Kept cwr s s := Kept.refl s
  exact State.killSession_kept h ..

theorem execSesStrgClr_kept {s t_ : State} {p : PortId} {l : LinkId} (e : execSesStrgClr p l s = .next t_) : Kept cwr s t_ := by
  refine State.doIf_kept e ?_
  have h : Kept cwr s s := Kept.refl s
  exact State.strangerClear_kept h ..

theorem execCredentialDisable_kept {s t_ : State} {x : SessId} (e : execCredentialDisable x s = .next t_) : Kept cwr s t_ := by
  refine State.doIf_kept e ?_
  have h : Kept cwr s s := Kept.refl s
  exact State.credDisable_kept h ..

theorem execCredentialEnable_kept {s t_ : State} {x : SessId} (e : execCredentialEnable x s = .next t_) : Kept cwr s t_ := by
  refine State.doIf_kept e ?_
  have h : Kept cwr s s := Kept.refl s
  try dsimp only
  repeat first
    | with_reducible assumption | with_reducible apply State.credEnable_kept | dsimp only

/-! ### Machine/CmdMesh.lean -/

theorem execClaim_kept {s t_ : State} {src dst : TileId} (e : execClaim src dst s = .next t_) : Kept cwr s t_ := by
  refine State.doIf_kept e ?_
  have h : Kept cwr s s := Kept.refl s
  exact State.msgClaim_kept h ..

theorem execClaimResult_kept {s t_ : State} {src dst : TileId} (hw : cwr) (e : execClaimResult src dst s = .next t_) : Kept cwr s t_ := by
  refine State.doIf_kept e ?_
  have h : Kept cwr s s := Kept.refl s
  exact State.msgResult_kept h hw ..

theorem execArm_kept {s t_ : State} {src dst : TileId} (e : execArm src dst s = .next t_) : Kept cwr s t_ := by
  refine State.doIf_kept e ?_
  have h : Kept cwr s s := Kept.refl s
  exact State.msgArm_kept h ..

theorem execDropRemainder_kept {s t_ : State} {src dst : TileId} (e : execDropRemainder src dst s = .next t_) : Kept cwr s t_ := by
  refine State.doIf_kept e ?_
  have h : Kept cwr s s := Kept.refl s
  exact State.msgDrop_kept h ..

theorem execRewind_kept {s t_ : State} {src dst : TileId} (e : execRewind src dst s = .next t_) : Kept cwr s t_ := by
  refine State.doIf_kept e ?_
  have h : Kept cwr s s := Kept.refl s
  exact State.msgRewind_kept h ..

theorem execMarkerSealTimeout_kept {s t_ : State} {x : SessId} (e : execMarkerSealTimeout x s = .next t_) : Kept cwr s t_ := by
  refine State.doIf_kept e ?_
  have h : Kept cwr s s := Kept.refl s
  exact State.sealLate_kept h ..

theorem execPartCompletion_kept {s t_ : State} {src dst : TileId} (hw : cwr) (e : execPartCompletion src dst s = .next t_) : Kept cwr s t_ := by
  refine State.doIf_kept e ?_
  have h : Kept cwr s s := Kept.refl s
  exact State.msgDone_kept h hw ..

theorem execBarrierAck_kept {s t_ : State} {x : SessId} (hw : cwr) (e : execBarrierAck x s = .next t_) : Kept cwr s t_ := by
  refine State.doIf_kept e ?_
  have h : Kept cwr s s := Kept.refl s
  exact State.barrierAck_kept h hw ..

/-! ### Machine/CmdEngine.lean -/

theorem execFrameStart_kept {s t_ : State} {t : TileId} (e : execFrameStart t s = .next t_) : Kept cwr s t_ := by
  refine State.doIf_kept e ?_
  have h : Kept cwr s s := Kept.refl s
  try dsimp only
  repeat first
    | with_reducible assumption | with_reducible apply State.frame_kept | with_reducible apply State.walk_kept
    | with_reducible apply State.bgWork_kept | with_reducible apply State.patrol_kept | dsimp only

theorem execGaleLong_kept {s t_ : State} {t : TileId} (e : execGaleLong t s = .next t_) : Kept cwr s t_ := by
  refine State.doIf_kept e ?_
  have h : Kept cwr s s := Kept.refl s
  exact State.galeLong_kept h ..

theorem execSlotDecision_kept {s t_ : State} {t : TileId} (e : execSlotDecision t s = .next t_) : Kept cwr s t_ := by
  refine State.doIf_kept e ?_
  have h : Kept cwr s s := Kept.refl s
  exact State.slot_kept h ..

theorem execStepOverdue_kept {s t_ : State} {t : TileId} {c : ChanId} {d : DieId} {erase : Bool} (e : execStepOverdue t c d erase s = .next t_) : Kept cwr s t_ := by
  refine State.doIf_kept e ?_
  have h : Kept cwr s s := Kept.refl s
  try dsimp only
  repeat first
    | with_reducible assumption | with_reducible apply State.till_kept | with_reducible apply State.modDie_kept
    | with_reducible apply Kept.ite | split | dsimp only | fail_if_no_progress with_reducible apply Kept.update

theorem execVariantLatch_kept {s t_ : State} {t : TileId} (e : execVariantLatch t s = .next t_) : Kept cwr s t_ := by
  refine State.doIf_kept e ?_
  have h : Kept cwr s s := Kept.refl s
  try dsimp only
  repeat first
    | with_reducible assumption | with_reducible apply State.modSch_kept | dsimp only
    | fail_if_no_progress with_reducible apply Kept.update

theorem State.limitedOccur_kept {s0 s : State} (h : Kept cwr s0 s) : Kept cwr s0 (State.limitedOccur s) := by
  unfold State.limitedOccur
  repeat first
    | with_reducible assumption | with_reducible refine Kept.fold3 (fun _ _ _ => ?_) ?_
    | with_reducible refine Kept.foldl (fun _ _ _ => ?_) ?_ | with_reducible apply State.modEvt_kept
    | with_reducible apply State.occur_kept | dsimp only | fail_if_no_progress with_reducible apply Kept.update

theorem State.tileBoundary_kept {s0 s : State} (h : Kept cwr s0 s) (t : TileId) : Kept cwr s0 (State.tileBoundary s t) := by
  unfold State.tileBoundary
  repeat first
    | with_reducible assumption | with_reducible apply State.modCtl_kept | with_reducible apply State.boundary_kept
    | with_reducible apply State.driftDue_kept | with_reducible apply State.mile_kept | with_reducible apply Kept.ite | split
    | dsimp only | fail_if_no_progress with_reducible apply Kept.update

theorem execSuperframeStart_kept {s t_ : State} (e : execSuperframeStart s = .next t_) : Kept cwr s t_ := by
  refine State.doIf_kept e ?_
  have h : Kept cwr s s := Kept.refl s
  try dsimp only
  repeat first
    | with_reducible assumption | with_reducible refine Kept.foldl (fun _ _ _ => ?_) ?_
    | with_reducible apply State.gatherCounts_kept | with_reducible apply State.limitedOccur_kept
    | with_reducible apply State.tileBoundary_kept | dsimp only | fail_if_no_progress with_reducible apply Kept.update

theorem execCodewordDecoded_kept {s t_ : State} {t : TileId} {id : Nat} {ok : Bool} (hw : cwr) (e : execCodewordDecoded t id ok s = .next t_) : Kept cwr s t_ := by
  refine State.doAll_kept hw e ?_
  have h : Kept cwr s s := Kept.refl s
  try dsimp only
  repeat first
    | with_reducible assumption | with_reducible apply State.serveWaiting_kept | with_reducible apply State.decoded_kept
    | dsimp only

theorem execRebuildComplete_kept {s t_ : State} {t : TileId} {id : Nat} (hw : cwr) (e : execRebuildComplete t id s = .next t_) : Kept cwr s t_ := by
  refine State.doAll_kept hw e ?_
  have h : Kept cwr s s := Kept.refl s
  try dsimp only
  repeat first
    | with_reducible assumption | with_reducible apply State.serveWaiting_kept | with_reducible apply State.rebuilt_kept
    | dsimp only

theorem execMapFetchComplete_kept {s t_ : State} {t : TileId} {page : Nat} (e : execMapFetchComplete t page s = .next t_) : Kept cwr s t_ := by
  refine State.doPlace_kept e ?_
  have h : Kept cwr s s := Kept.refl s
  try dsimp only
  repeat first
    | with_reducible assumption | with_reducible apply State.serveWaiting_kept | with_reducible apply State.mapFetched_kept
    | dsimp only

theorem execCounterFetchComplete_kept {s t_ : State} {t : TileId} {group : Nat} (e : execCounterFetchComplete t group s = .next t_) : Kept cwr s t_ := by
  refine State.doPlace_kept e ?_
  have h : Kept cwr s s := Kept.refl s
  try dsimp only
  repeat first
    | with_reducible assumption | with_reducible apply State.serveWaiting_kept | with_reducible apply State.ctrFetched_kept
    | dsimp only

theorem execMergeComplete_kept {s t_ : State} {t : TileId} {pl : PartLine} (e : execMergeComplete t pl s = .next t_) : Kept cwr s t_ := by
  refine State.doIf_kept e ?_
  have h : Kept cwr s s := Kept.refl s
  exact State.merged_kept h ..

theorem execCheckOutcome_kept {s t_ : State} {t : TileId} {pl : PartLine} {tagOk treeOk : Bool} (hw : cwr) (e : execCheckOutcome t pl tagOk treeOk s = .next t_) : Kept cwr s t_ := by
  refine State.doIf_kept e ?_
  have h : Kept cwr s s := Kept.refl s
  try dsimp only
  repeat first
    | with_reducible assumption | with_reducible apply State.checks_kept | with_reducible apply State.settleAll_kept
    | dsimp only

theorem execCheckTimeout_kept {s t_ : State} {t : TileId} {pl : PartLine} (hw : cwr) (e : execCheckTimeout t pl s = .next t_) : Kept cwr s t_ := by
  refine State.doIf_kept e ?_
  have h : Kept cwr s s := Kept.refl s
  try dsimp only
  repeat first
    | with_reducible assumption | with_reducible apply State.checked_kept | with_reducible apply State.settleAll_kept
    | dsimp only

theorem execSquall_kept {s t_ : State} {x : SessId} (hw : cwr) (e : execSquall x s = .next t_) : Kept cwr s t_ := by
  refine State.doIf_kept e ?_
  have h : Kept cwr s s := Kept.refl s
  try dsimp only
  repeat first
    | with_reducible assumption | with_reducible apply State.squall_kept | with_reducible apply State.settle_kept | dsimp only

theorem execTileFaultReplay_kept {s t_ : State} {t : TileId} (hw : cwr) (e : execTileFaultReplay t s = .next t_) : Kept cwr s t_ := by
  refine State.doIf_kept e ?_
  have h : Kept cwr s s := Kept.refl s
  try dsimp only
  repeat first
    | with_reducible assumption | with_reducible apply State.replayed_kept | with_reducible apply State.settleAll_kept
    | dsimp only

/-! ### Machine/CmdMedium.lean -/

theorem execProgramComplete_kept {s t_ : State} {t : TileId} {c : ChanId} {d : DieId} (hw : cwr) (e : execProgramComplete t c d s = .next t_) : Kept cwr s t_ := by
  refine State.doIf_kept e ?_
  have h : Kept cwr s s := Kept.refl s
  exact State.programmed_kept h hw ..

theorem execProgramFail_kept {s t_ : State} {t : TileId} {c : ChanId} {d : DieFail} (e : execProgramFail t c d s = .next t_) : Kept cwr s t_ := by
  refine State.doIf_kept e ?_
  have h : Kept cwr s s := Kept.refl s
  exact State.progFail_kept h ..

theorem execEraseFail_kept {s t_ : State} {t : TileId} {c : ChanId} {d : DieFail} (e : execEraseFail t c d s = .next t_) : Kept cwr s t_ := by
  refine State.doIf_kept e ?_
  have h : Kept cwr s s := Kept.refl s
  exact State.eraseFailed_kept h ..

theorem execEraseComplete_kept {s t_ : State} {t : TileId} {stratum : Nat} (hw : cwr) (e : execEraseComplete t stratum s = .next t_) : Kept cwr s t_ := by
  refine State.doPlace_kept e ?_
  have h : Kept cwr s s := Kept.refl s
  exact State.eraseDone_kept h hw ..

theorem execEraseBegin_kept {s t_ : State} {t : TileId} {stratum : Nat} (e : execEraseBegin t stratum s = .next t_) : Kept cwr s t_ := by
  refine State.doPlace_kept e ?_
  have h : Kept cwr s s := Kept.refl s
  exact State.eraseStart_kept h ..

theorem execCheckpoint_kept {s t_ : State} {t : TileId} (e : execCheckpoint t s = .next t_) : Kept cwr s t_ := by
  refine State.doIf_kept e ?_
  have h : Kept cwr s s := Kept.refl s
  exact State.checkpoint_kept h ..

theorem execDieCommandTimeout_kept {s t_ : State} {t : TileId} {c : ChanId} {d : DieId} (e : execDieCommandTimeout t c d s = .next t_) : Kept cwr s t_ := by
  refine State.doIf_kept e ?_
  have h : Kept cwr s s := Kept.refl s
  exact State.dieTimeout_kept h ..

theorem execMicrosequencerInternalFault_kept {s t_ : State} {t : TileId} {c : ChanId} {d : DieId} (e : execMicrosequencerInternalFault t c d s = .next t_) : Kept cwr s t_ := by
  refine State.doIf_kept e ?_
  have h : Kept cwr s s := Kept.refl s
  exact State.loseDie_kept h ..

theorem execHousekeepingRound_kept {s t_ : State} {t : TileId} {diode : DiodeConv} {railsMv : List (BitVec 12)} (e : execHousekeepingRound t diode railsMv s = .next t_) : Kept cwr s t_ := by
  refine State.doIf_kept e ?_
  have h : Kept cwr s s := Kept.refl s
  exact State.round_kept h ..

theorem execStratumBucketEntry_kept {s t_ : State} {t : TileId} {stratum : Nat} (e : execStratumBucketEntry t stratum s = .next t_) : Kept cwr s t_ := by
  refine State.doPlace_kept e ?_
  have h : Kept cwr s s := Kept.refl s
  exact State.bucketEntry_kept h ..

theorem execStratumPad_kept {s t_ : State} {t : TileId} {stratum : Nat} (hw : cwr) (e : execStratumPad t stratum s = .next t_) : Kept cwr s t_ := by
  refine State.doPlace_kept e ?_
  have h : Kept cwr s s := Kept.refl s
  exact State.pad_kept h hw ..

theorem execPatrolFinding_kept {s t_ : State} {t : TileId} {cwa : BitVec 34} {first : Option Nat} {next : Recourse} {sets : List (Option Nat)} (hw : cwr) (e : execPatrolFinding t cwa first next sets s = .next t_) : Kept cwr s t_ := by
  refine State.doAll_kept hw e ?_
  have h : Kept cwr s s := Kept.refl s
  exact State.found_kept h ..

theorem execSurveyComplete_kept {s t_ : State} {t : TileId} (e : execSurveyComplete t s = .next t_) : Kept cwr s t_ := by
  refine State.doIf_kept e ?_
  have h : Kept cwr s s := Kept.refl s
  exact State.surveyDone_kept h ..

theorem execRolloverImage_kept {s t_ : State} {t : TileId} {group : Nat} (e : execRolloverImage t group s = .next t_) : Kept cwr s t_ := by
  refine State.doPlace_kept e ?_
  have h : Kept cwr s s := Kept.refl s
  exact State.rollImage_kept h ..

theorem execRekeyPassEnd_kept {s t_ : State} {r : RegionId} (e : execRekeyPassEnd r s = .next t_) : Kept cwr s t_ := by
  refine State.doIf_kept e ?_
  have h : Kept cwr s s := Kept.refl s
  exact State.passEnds_kept h ..

/-! ### Machine/CmdRegion.lean -/

theorem State.regionStep_kept {s t : State} {r : RegionId} {o : Nat} {w : Writes} (hw : cwr) (e : s.regionStep r o w = .next t) : Kept cwr s t :=
  State.doIf_kept e (State.settleAll_kept (State.holderStep_kept (Kept.refl s) ..) hw)

theorem execRgnBaseWrite_kept {s t_ : State} {r : RegionId} {v : Word} (hw : cwr) (e : execRgnBaseWrite r v s = .next t_) : Kept cwr s t_ := by
  exact State.regionStep_kept hw e

theorem execRgnSizeWrite_kept {s t_ : State} {r : RegionId} {v : Word} (hw : cwr) (e : execRgnSizeWrite r v s = .next t_) : Kept cwr s t_ := by
  exact State.regionStep_kept hw e

theorem execModeWrite_kept {s t_ : State} {r : RegionId} {compact : Bool} (hw : cwr) (e : execModeWrite r compact s = .next t_) : Kept cwr s t_ := by
  exact State.regionStep_kept hw e

theorem execEnable_kept {s t_ : State} {r : RegionId} (hw : cwr) (e : execEnable r s = .next t_) : Kept cwr s t_ := by
  exact State.regionStep_kept hw e

theorem execOnline_kept {s t_ : State} {r : RegionId} (hw : cwr) (e : execOnline r s = .next t_) : Kept cwr s t_ := by
  exact State.regionStep_kept hw e

theorem execReadOnly_kept {s t_ : State} {r : RegionId} (hw : cwr) (e : execReadOnly r s = .next t_) : Kept cwr s t_ := by
  exact State.regionStep_kept hw e

theorem execOffline_kept {s t_ : State} {r : RegionId} (hw : cwr) (e : execOffline r s = .next t_) : Kept cwr s t_ := by
  exact State.regionStep_kept hw e

theorem execZeroize_kept {s t_ : State} {r : RegionId} (hw : cwr) (e : execZeroize r s = .next t_) : Kept cwr s t_ := by
  exact State.regionStep_kept hw e

theorem execDisable_kept {s t_ : State} {r : RegionId} (hw : cwr) (e : execDisable r s = .next t_) : Kept cwr s t_ := by
  exact State.regionStep_kept hw e

theorem execRekey_kept {s t_ : State} {r : RegionId} (hw : cwr) (e : execRekey r s = .next t_) : Kept cwr s t_ := by
  exact State.regionStep_kept hw e

theorem execLostZeroize_kept {s t_ : State} {r : RegionId} (hw : cwr) (e : execLostZeroize r s = .next t_) : Kept cwr s t_ := by
  exact State.regionStep_kept hw e

theorem execLostRekey_kept {s t_ : State} {r : RegionId} (hw : cwr) (e : execLostRekey r s = .next t_) : Kept cwr s t_ := by
  exact State.regionStep_kept hw e

theorem execRegionShutdownComplete_kept {s t_ : State} {r : RegionId} (hw : cwr) (e : execRegionShutdownComplete r s = .next t_) : Kept cwr s t_ := by
  refine State.doIf_kept e ?_
  have h : Kept cwr s s := Kept.refl s
  try dsimp only
  repeat first
    | with_reducible assumption | with_reducible apply State.shutdown_kept | with_reducible apply State.settleAll_kept
    | dsimp only

theorem execLeaseExpiry_kept {s t_ : State} {r : RegionId} (e : execLeaseExpiry r s = .next t_) : Kept cwr s t_ := by
  refine State.doIf_kept e ?_
  have h : Kept cwr s s := Kept.refl s
  exact State.leaseExpires_kept h ..

theorem execLeaseBreakResolution_kept {s t_ : State} {r : RegionId} (hw : cwr) (e : execLeaseBreakResolution r s = .next t_) : Kept cwr s t_ := by
  refine State.doIf_kept e ?_
  have h : Kept cwr s s := Kept.refl s
  try dsimp only
  repeat first
    | with_reducible assumption | with_reducible apply State.resolveLease_kept | with_reducible apply State.settleAll_kept
    | dsimp only

/-! ### Machine/CmdEvent.lean -/

theorem execSramUncorrectable_kept {s t_ : State} {w : SramSite} (hw : cwr) (e : execSramUncorrectable w s = .next t_) : Kept cwr s t_ := by
  refine State.doAll_kept hw e ?_
  have h : Kept cwr s s := Kept.refl s
  exact State.sramBad_kept h hw ..

theorem execEvtPendClear_kept {s t_ : State} {k : Fin 9} {mask : Word} (e : execEvtPendClear k mask s = .next t_) : Kept cwr s t_ := by
  refine State.doIf_kept e ?_
  have h : Kept cwr s s := Kept.refl s
  exact State.clearPend_kept h ..

theorem execEvtTrbClear_kept {s t_ : State} {src : BitVec 9} {clr all : Bool} (e : execEvtTrbClear src clr all s = .next t_) : Kept cwr s t_ := by
  refine State.doIf_kept e ?_
  have h : Kept cwr s s := Kept.refl s
  exact State.clearTrouble_kept h ..

theorem execPmcCounterOverflow_kept {s t_ : State} {t : TileId} {i : Fin 64} (e : execPmcCounterOverflow t i s = .next t_) : Kept cwr s t_ := by
  refine State.doIf_kept e ?_
  have h : Kept cwr s s := Kept.refl s
  try dsimp only
  repeat first
    | with_reducible assumption | with_reducible apply State.pmc_kept | with_reducible apply State.pmcOnce_kept | dsimp only

theorem execPmcSample_kept {s t_ : State} {t : TileId} {i : Fin 64} (e : execPmcSample t i s = .next t_) : Kept cwr s t_ := by
  refine State.doIf_kept e ?_
  have h : Kept cwr s s := Kept.refl s
  try dsimp only
  repeat first
    | with_reducible assumption | with_reducible apply State.pmc_kept | with_reducible apply State.pmcOnce_kept | dsimp only

theorem execClrAll_kept {s t_ : State} {t : TileId} (e : execClrAll t s = .next t_) : Kept cwr s t_ := by
  refine State.doIf_kept e ?_
  have h : Kept cwr s s := Kept.refl s
  exact State.pmcClear_kept h ..

theorem execPmcCfgClr_kept {s t_ : State} {t : TileId} {i : Fin 64} (e : execPmcCfgClr t i s = .next t_) : Kept cwr s t_ := by
  refine State.doIf_kept e ?_
  have h : Kept cwr s s := Kept.refl s
  exact State.pmcClear1_kept h ..

theorem execPop_kept {s t_ : State} {t : TileId} (e : execPop t s = .next t_) : Kept cwr s t_ := by
  refine State.doIf_kept e ?_
  have h : Kept cwr s s := Kept.refl s
  exact State.pmcPop_kept h ..

theorem execPortCntClr_kept {s t_ : State} {p : PortId} {mask : BitVec 4} (e : execPortCntClr p mask s = .next t_) : Kept cwr s t_ := by
  refine State.doIf_kept e ?_
  have h : Kept cwr s s := Kept.refl s
  exact State.portCntClear_kept h ..

theorem execAdmCntClr_kept {s t_ : State} {t : TileId} (e : execAdmCntClr t s = .next t_) : Kept cwr s t_ := by
  refine State.doIf_kept e ?_
  have h : Kept cwr s s := Kept.refl s
  exact State.admCntClear_kept h ..

theorem execXltCntClr_kept {s t_ : State} {t : TileId} (e : execXltCntClr t s = .next t_) : Kept cwr s t_ := by
  refine State.doIf_kept e ?_
  have h : Kept cwr s s := Kept.refl s
  exact State.xltCntClear_kept h ..

theorem execMedCcntClr_kept {s t_ : State} {t : TileId} {c : ChanId} (e : execMedCcntClr t c s = .next t_) : Kept cwr s t_ := by
  refine State.doIf_kept e ?_
  have h : Kept cwr s s := Kept.refl s
  exact State.medCcntClear_kept h ..

theorem execMedTcntClr_kept {s t_ : State} {t : TileId} (e : execMedTcntClr t s = .next t_) : Kept cwr s t_ := by
  refine State.doIf_kept e ?_
  have h : Kept cwr s s := Kept.refl s
  exact State.medTcntClear_kept h ..

theorem execSchCntClr_kept {s t_ : State} {t : TileId} (e : execSchCntClr t s = .next t_) : Kept cwr s t_ := by
  refine State.doIf_kept e ?_
  have h : Kept cwr s s := Kept.refl s
  exact State.schCntClear_kept h ..

theorem execSecCntClr_kept {s t_ : State} {t : TileId} (e : execSecCntClr t s = .next t_) : Kept cwr s t_ := by
  refine State.doIf_kept e ?_
  have h : Kept cwr s s := Kept.refl s
  exact State.secCntClear_kept h ..

theorem execSecEccClr_kept {s t_ : State} {t : TileId} (e : execSecEccClr t s = .next t_) : Kept cwr s t_ := by
  refine State.doIf_kept e ?_
  have h : Kept cwr s s := Kept.refl s
  exact State.eccClear_kept h ..

theorem execCntClr_kept {s t_ : State} (e : execCntClr s = .next t_) : Kept cwr s t_ := by
  refine State.doIf_kept e ?_
  have h : Kept cwr s s := Kept.refl s
  exact State.supCntClear_kept h ..

theorem execTokenRoll_kept {s t_ : State} {t : TileId} (e : execTokenRoll t s = .next t_) : Kept cwr s t_ := by
  refine State.doIf_kept e ?_
  have h : Kept cwr s s := Kept.refl s
  exact State.rollToken_kept h ..

theorem execMaxClr_kept {s t_ : State} {mask : Byte} (e : execMaxClr mask s = .next t_) : Kept cwr s t_ := by
  refine State.doIf_kept e ?_
  have h : Kept cwr s s := Kept.refl s
  exact State.maxClr_kept h ..

/-! ### Machine/CmdPort.lean -/

theorem execPortEnable_kept {s t_ : State} {p : PortId} {v : Word} (e : execPortEnable p v s = .next t_) : Kept cwr s t_ := by
  refine State.doIf_kept e ?_
  have h : Kept cwr s s := Kept.refl s
  exact State.portCtl_kept h ..

theorem execPortDisable_kept {s t_ : State} {p : PortId} {v : Word} (e : execPortDisable p v s = .next t_) : Kept cwr s t_ := by
  refine State.doIf_kept e ?_
  have h : Kept cwr s s := Kept.refl s
  exact State.portCtl_kept h ..

theorem execPortStopComplete_kept {s t_ : State} {p : PortId} (e : execPortStopComplete p s = .next t_) : Kept cwr s t_ := by
  refine State.doIf_kept e ?_
  have h : Kept cwr s s := Kept.refl s
  exact State.portStopped_kept h ..

theorem execPortReset_kept {s t_ : State} {p : PortId} (e : execPortReset p s = .next t_) : Kept cwr s t_ := by
  refine State.doIf_kept e ?_
  have h : Kept cwr s s := Kept.refl s
  exact State.portRst_kept h ..

theorem execLinkUp_kept {s t_ : State} {p : PortId} {l : LinkId} (e : execLinkUp p l s = .next t_) : Kept cwr s t_ := by
  refine State.doIf_kept e ?_
  have h : Kept cwr s s := Kept.refl s
  exact State.trained_kept h ..

theorem execLinkLoss_kept {s t_ : State} {p : PortId} {l : LinkId} (e : execLinkLoss p l s = .next t_) : Kept cwr s t_ := by
  refine State.doIf_kept e ?_
  have h : Kept cwr s s := Kept.refl s
  exact State.lostLink_kept h ..

/-! ### Machine/CmdPower.lean -/

theorem execPwrfailFall_kept {s t_ : State} {lowClocks : Nat} (hw : cwr) (e : execPwrfailFall lowClocks s = .next t_) : Kept cwr s t_ := by
  refine State.doAll_kept hw e ?_
  have h : Kept cwr s s := Kept.refl s
  exact State.pwrfailFalls_kept h hw ..

theorem execDrainRecordCommit_kept {s t_ : State} {t : TileId} (e : execDrainRecordCommit t s = .next t_) : Kept cwr s t_ := by
  refine State.doIf_kept e ?_
  have h : Kept cwr s s := Kept.refl s
  exact State.requestRecord_kept h ..

theorem execFinalRecord_kept {s t_ : State} (e : execFinalRecord s = .next t_) : Kept cwr s t_ := by
  refine State.doIf_kept e ?_
  have h : Kept cwr s s := Kept.refl s
  exact State.finalRecord_kept h ..

theorem execVaonWarning_kept {s t_ : State} (e : execVaonWarning s = .next t_) : Kept cwr s t_ := by
  refine State.doIf_kept e ?_
  have h : Kept cwr s s := Kept.refl s
  exact State.vaonWarns_kept h ..

theorem execPwrfailRise_kept {s t_ : State} (e : execPwrfailRise s = .next t_) : Kept cwr s t_ := by
  refine State.doIf_kept e ?_
  have h : Kept cwr s s := Kept.refl s
  exact State.pwrfailRises_kept h ..

theorem execAutoOn_kept {s t_ : State} (e : execAutoOn s = .next t_) : Kept cwr s t_ := by
  refine State.doIf_kept e ?_
  have h : Kept cwr s s := Kept.refl s
  exact State.autoOns_kept h ..

theorem execSeqEnd_kept {s t_ : State} (hw : cwr) (e : execSeqEnd s = .next t_) : Kept cwr s t_ := by
  refine State.doIf_kept e ?_
  have h : Kept cwr s s := Kept.refl s
  exact State.seqEnd_kept h hw ..

theorem execSeqEnable_kept {s t_ : State} (e : execSeqEnable s = .next t_) : Kept cwr s t_ := by
  refine State.doIf_kept e ?_
  have h : Kept cwr s s := Kept.refl s
  exact State.seqEnable_kept h ..

theorem execSeqDisable_kept {s t_ : State} (hw : cwr) (e : execSeqDisable s = .next t_) : Kept cwr s t_ := by
  refine State.doAll_kept hw e ?_
  have h : Kept cwr s s := Kept.refl s
  exact State.seqDisable_kept h hw ..

theorem execWait_kept {s t_ : State} (e : execWait s = .next t_) : Kept cwr s t_ := by
  refine State.doIf_kept e ?_
  have h : Kept cwr s s := Kept.refl s
  exact State.seqWait_kept h ..

theorem execCheck_kept {s t_ : State} (e : execCheck s = .next t_) : Kept cwr s t_ := by
  refine State.doIf_kept e ?_
  have h : Kept cwr s s := Kept.refl s
  exact State.seqCheck_kept h ..

theorem execJump_kept {s t_ : State} (e : execJump s = .next t_) : Kept cwr s t_ := by
  refine State.doIf_kept e ?_
  have h : Kept cwr s s := Kept.refl s
  exact State.seqJump_kept h ..

theorem execMark_kept {s t_ : State} (e : execMark s = .next t_) : Kept cwr s t_ := by
  refine State.doIf_kept e ?_
  have h : Kept cwr s s := Kept.refl s
  exact State.seqMark_kept h ..

theorem execWaitExpiry_kept {s t_ : State} (e : execWaitExpiry s = .next t_) : Kept cwr s t_ := by
  refine State.doIf_kept e ?_
  have h : Kept cwr s s := Kept.refl s
  exact State.waitEnds_kept h ..

theorem execCheckPass_kept {s t_ : State} {transitions : Byte} (hw : cwr) (e : execCheckPass transitions s = .next t_) : Kept cwr s t_ := by
  refine State.doIf_kept e ?_
  have h : Kept cwr s s := Kept.refl s
  exact State.checkPasses_kept h hw ..

theorem execCheckTimeoutRailFail_kept {s t_ : State} {transitions : Byte} (hw : cwr) (e : execCheckTimeoutRailFail transitions s = .next t_) : Kept cwr s t_ := by
  refine State.doAll_kept hw e ?_
  have h : Kept cwr s s := Kept.refl s
  exact State.checkFails_kept h hw ..

theorem execDomainOn_kept {s t_ : State} {d : DomainId} (hw : cwr) (e : execDomainOn d s = .next t_) : Kept cwr s t_ := by
  refine State.doAll_kept hw e ?_
  have h : Kept cwr s s := Kept.refl s
  try dsimp only
  repeat first
    | with_reducible assumption | with_reducible apply State.domStarted_kept | with_reducible apply State.seqGoOn_kept
    | with_reducible apply State.retryEnds_kept | dsimp only

theorem execDomainStartTimeout_kept {s t_ : State} {d : DomainId} (hw : cwr) (e : execDomainStartTimeout d s = .next t_) : Kept cwr s t_ := by
  refine State.doAll_kept hw e ?_
  have h : Kept cwr s s := Kept.refl s
  try dsimp only
  repeat first
    | with_reducible assumption | with_reducible apply State.till_kept | with_reducible apply State.modDom_kept
    | with_reducible apply State.seqGoOn_kept | with_reducible apply State.retryEnds_kept | dsimp only
    | fail_if_no_progress with_reducible apply Kept.update

theorem execDomainOff_kept {s t_ : State} {d : DomainId} (hw : cwr) (e : execDomainOff d s = .next t_) : Kept cwr s t_ := by
  refine State.doAll_kept hw e ?_
  have h : Kept cwr s s := Kept.refl s
  try dsimp only
  repeat first
    | with_reducible assumption | with_reducible apply State.modDom_kept | with_reducible apply State.domLost_kept
    | with_reducible apply State.seqGoOn_kept | with_reducible apply State.retryFalls_kept | with_reducible apply Kept.ite
    | split | dsimp only | fail_if_no_progress with_reducible apply Kept.update

theorem execPgFall_kept {s t_ : State} {x : RailId} {clocks : Nat} (hw : cwr) (e : execPgFall x clocks s = .next t_) : Kept cwr s t_ := by
  refine State.doAll_kept hw e ?_
  have h : Kept cwr s s := Kept.refl s
  exact State.pgPulse_kept h hw ..

theorem execRunningFault_kept {s t_ : State} {x : RailId} (hw : cwr) (e : execRunningFault x s = .next t_) : Kept cwr s t_ := by
  refine State.doAll_kept hw e ?_
  have h : Kept cwr s s := Kept.refl s
  exact State.pgFalls_kept h hw ..

theorem execRetryOffExpiry_kept {s t_ : State} {x : RailId} (hw : cwr) (e : execRetryOffExpiry x s = .next t_) : Kept cwr s t_ := by
  refine State.doAll_kept hw e ?_
  have h : Kept cwr s s := Kept.refl s
  exact State.retryAgain_kept h ..

theorem execSystemAction_kept {s t_ : State} (hw : cwr) (e : execSystemAction s = .next t_) : Kept cwr s t_ := by
  refine State.doAll_kept hw e ?_
  have h : Kept cwr s s := Kept.refl s
  exact State.systemBegins_kept h hw ..

theorem execSystemDrainTimeout_kept {s t_ : State} (e : execSystemDrainTimeout s = .next t_) : Kept cwr s t_ := by
  refine State.doIf_kept e ?_
  have h : Kept cwr s s := Kept.refl s
  exact State.systemTimeout_kept h ..

theorem execOff_kept {s t_ : State} (hw : cwr) (e : execOff s = .next t_) : Kept cwr s t_ := by
  refine State.doAll_kept hw e ?_
  have h : Kept cwr s s := Kept.refl s
  exact State.offReq_kept h

theorem execOn_kept {s t_ : State} (e : execOn s = .next t_) : Kept cwr s t_ := by
  refine State.doIf_kept e ?_
  have h : Kept cwr s s := Kept.refl s
  exact State.onReq_kept h ..

theorem execCleanStopTimeout_kept {s t_ : State} {t : TileId} (hw : cwr) (e : execCleanStopTimeout t s = .next t_) : Kept cwr s t_ := by
  refine State.doAll_kept hw e ?_
  have h : Kept cwr s s := Kept.refl s
  exact State.cleanStopLate_kept h hw ..

theorem execMinimumOffTimeExpiry_kept {s t_ : State} (e : execMinimumOffTimeExpiry s = .next t_) : Kept cwr s t_ := by
  refine State.doIf_kept e ?_
  have h : Kept cwr s s := Kept.refl s
  exact State.offTimeEnds_kept h ..

theorem execVgpioPrelude_kept {s t_ : State} {p : Prelude} (e : execVgpioPrelude p s = .next t_) : Kept cwr s t_ := by
  refine State.doIf_kept e ?_
  have h : Kept cwr s s := Kept.refl s
  exact State.prelude__kept h ..

theorem execPreludeRepeat_kept {s t_ : State} (e : execPreludeRepeat s = .next t_) : Kept cwr s t_ := by
  refine State.doIf_kept e ?_
  have h : Kept cwr s s := Kept.refl s
  exact State.preludeAgain_kept h ..

theorem execOnProgrammeBegins_kept {s t_ : State} (e : execOnProgrammeBegins s = .next t_) : Kept cwr s t_ := by
  refine State.doIf_kept e ?_
  have h : Kept cwr s s := Kept.refl s
  exact State.onBegins_kept h ..

/-! ### Machine/CmdReset.lean -/

theorem execColdReset_kept {s t_ : State} {c : ColdCause} (hw : cwr) (e : execColdReset c s = .next t_) : Kept cwr s t_ := by
  cases e
  have h : Kept cwr s s := Kept.refl s
  exact State.cold_kept h hw ..

theorem execLossOfVaon_kept {s t_ : State} (hw : cwr) (e : execLossOfVaon s = .next t_) : Kept cwr s t_ := by
  cases e
  have h : Kept cwr s s := Kept.refl s
  exact State.loseVaon_kept h hw ..

theorem execWarmReset_kept {s t_ : State} (hw : cwr) (e : execWarmReset s = .next t_) : Kept cwr s t_ := by
  refine State.doIf_kept e ?_
  have h : Kept cwr s s := Kept.refl s
  exact State.warmReset_kept h hw ..

theorem execTileFaultReset_kept {s t_ : State} {t : TileId} {cause : Byte} (hw : cwr) (e : execTileFaultReset t cause s = .next t_) : Kept cwr s t_ := by
  refine State.doIf_kept e ?_
  have h : Kept cwr s s := Kept.refl s
  exact State.tileFault_kept h hw ..

theorem execWatchdog_kept {s t_ : State} {t : TileId} (hw : cwr) (e : execWatchdog t s = .next t_) : Kept cwr s t_ := by
  refine State.doIf_kept e ?_
  have h : Kept cwr s s := Kept.refl s
  exact State.tileFault_kept h hw ..

theorem execWarm_kept {s t_ : State} (e : execWarm s = .next t_) : Kept cwr s t_ := by
  refine State.doIf_kept e ?_
  have h : Kept cwr s s := Kept.refl s
  exact State.askWarm_kept h ..

theorem execRefclkLoss_kept {s t_ : State} (hw : cwr) (e : execRefclkLoss s = .next t_) : Kept cwr s t_ := by
  refine State.doIf_kept e ?_
  have h : Kept cwr s s := Kept.refl s
  exact State.refLoss_kept h hw ..

theorem execRefclkRestored_kept {s t_ : State} (e : execRefclkRestored s = .next t_) : Kept cwr s t_ := by
  refine State.doIf_kept e ?_
  have h : Kept cwr s s := Kept.refl s
  exact State.refBack_kept h ..

theorem execPllLockLoss_kept {s t_ : State} {g : GenId} (hw : cwr) (e : execPllLockLoss g s = .next t_) : Kept cwr s t_ := by
  refine State.doIf_kept e ?_
  have h : Kept cwr s s := Kept.refl s
  exact State.pllLoss_kept h hw ..

theorem execPendingAccessComplete_kept {s t_ : State} {inBand : Bool} (hw : cwr) (e : execPendingAccessComplete inBand s = .next t_) : Kept cwr s t_ := by
  refine State.doAll_kept hw e ?_
  have h : Kept cwr s s := Kept.refl s
  exact State.pendGoesOn_kept h hw ..

theorem execPendingAccessRelease_kept {s t_ : State} {inBand : Bool} (hw : cwr) (e : execPendingAccessRelease inBand s = .next t_) : Kept cwr s t_ := by
  refine State.doAll_kept hw e ?_
  have h : Kept cwr s s := Kept.refl s
  exact State.pendReleased_kept h ..

theorem execResetPend_kept {s t_ : State} {inBand : Bool} (hw : cwr) (e : execResetPend inBand s = .next t_) : Kept cwr s t_ := by
  refine State.doIf_kept e ?_
  have h : Kept cwr s s := Kept.refl s
  exact State.resetPend_kept h hw ..

theorem execTileStop_kept {s t_ : State} {t : TileId} (e : execTileStop t s = .next t_) : Kept cwr s t_ := by
  refine State.doIf_kept e ?_
  have h : Kept cwr s s := Kept.refl s
  exact State.tileStop_kept h ..

theorem execTileStart_kept {s t_ : State} {t : TileId} (e : execTileStart t s = .next t_) : Kept cwr s t_ := by
  refine State.doIf_kept e ?_
  have h : Kept cwr s s := Kept.refl s
  exact State.tileStart_kept h ..

theorem execFaultReset_kept {s t_ : State} {t : TileId} (hw : cwr) (e : execFaultReset t s = .next t_) : Kept cwr s t_ := by
  refine State.doIf_kept e ?_
  have h : Kept cwr s s := Kept.refl s
  exact State.tileFault_kept h hw ..

theorem execLedgerRecall_kept {s t_ : State} (e : execLedgerRecall s = .next t_) : Kept cwr s t_ := by
  refine State.doIf_kept e ?_
  have h : Kept cwr s s := Kept.refl s
  try dsimp only
  repeat first
    | with_reducible assumption | with_reducible apply State.recall_kept | with_reducible apply State.mile_kept | dsimp only

theorem execConfigurationRead_kept {s t_ : State} {f : Flash} (e : execConfigurationRead f s = .next t_) : Kept cwr s t_ := by
  refine State.doIf_kept e ?_
  have h : Kept cwr s s := Kept.refl s
  exact State.configRead_kept h ..

theorem execTilePhaseLoad_kept {s t_ : State} {f : Flash} {readbackFail : Byte} (hw : cwr) (e : execTilePhaseLoad f readbackFail s = .next t_) : Kept cwr s t_ := by
  refine State.doIf_kept e ?_
  have h : Kept cwr s s := Kept.refl s
  exact State.tilePhase_kept h hw ..

theorem execMeshTableLoad_kept {s t_ : State} (hw : cwr) (e : execMeshTableLoad s = .next t_) : Kept cwr s t_ := by
  refine State.doIf_kept e ?_
  have h : Kept cwr s s := Kept.refl s
  exact State.tablesLoad_kept h hw ..

theorem execMediumInitialisation_kept {s t_ : State} {t : TileId} {m : MedInit} (e : execMediumInitialisation t m s = .next t_) : Kept cwr s t_ := by
  refine State.doIf_kept e ?_
  have h : Kept cwr s s := Kept.refl s
  exact State.medStart_kept h ..

theorem execEngineStart_kept {s t_ : State} {t : TileId} (e : execEngineStart t s = .next t_) : Kept cwr s t_ := by
  refine State.doIf_kept e ?_
  have h : Kept cwr s s := Kept.refl s
  exact State.engineStart_kept h ..

theorem execTileRecovery_kept {s t_ : State} {t : RecoveryAt} (hw : cwr) (e : execTileRecovery t s = .next t_) : Kept cwr s t_ := by
  refine State.doAll_kept hw e ?_
  have h : Kept cwr s s := Kept.refl s
  exact State.recoverTile_kept h ..

theorem execAdmissionOpen_kept {s t_ : State} {t : TileId} (e : execAdmissionOpen t s = .next t_) : Kept cwr s t_ := by
  refine State.doIf_kept e ?_
  have h : Kept cwr s s := Kept.refl s
  exact State.admitTile_kept h ..

/-! ### Machine/CmdLedger.lean -/

theorem execLedgerCommitComplete_kept {s t_ : State} (hw : cwr) (e : execLedgerCommitComplete s = .next t_) : Kept cwr s t_ := by
  refine State.doAll_kept hw e ?_
  have h : Kept cwr s s := Kept.refl s
  exact State.commitDone_kept h ..

theorem execLedgerWindowWrite_kept {s t_ : State} {addr v : Word} (e : execLedgerWindowWrite addr v s = .next t_) : Kept cwr s t_ := by
  refine State.doIf_kept e ?_
  have h : Kept cwr s s := Kept.refl s
  try dsimp only
  repeat first
    | with_reducible assumption | with_reducible apply State.windowWrite_kept | dsimp only

theorem execCommit_kept {s t_ : State} (e : execCommit s = .next t_) : Kept cwr s t_ := by
  refine State.doIf_kept e ?_
  have h : Kept cwr s s := Kept.refl s
  exact State.provision_kept h ..

theorem execRetry_kept {s t_ : State} (e : execRetry s = .next t_) : Kept cwr s t_ := by
  refine State.doIf_kept e ?_
  have h : Kept cwr s s := Kept.refl s
  exact State.retryConfig_kept h ..

/-! ### Machine/CmdThermal.lean -/

theorem execThermalStateFall_kept {s t_ : State} {t : TileId} (e : execThermalStateFall t s = .next t_) : Kept cwr s t_ := by
  refine State.doIf_kept e ?_
  have h : Kept cwr s s := Kept.refl s
  exact State.thmFall_kept h ..

theorem execThermalStop_kept {s t_ : State} {t : TileId} (hw : cwr) (e : execThermalStop t s = .next t_) : Kept cwr s t_ := by
  refine State.doAll_kept hw e ?_
  have h : Kept cwr s s := Kept.refl s
  exact State.thermalStop_kept h hw ..

theorem execSensorStop_kept {s t_ : State} {t : TileId} (hw : cwr) (e : execSensorStop t s = .next t_) : Kept cwr s t_ := by
  refine State.doAll_kept hw e ?_
  have h : Kept cwr s s := Kept.refl s
  exact State.sensorStop_kept h hw ..

theorem execResume_kept {s t_ : State} {mask : Byte} (e : execResume mask s = .next t_) : Kept cwr s t_ := by
  refine State.doIf_kept e ?_
  have h : Kept cwr s s := Kept.refl s
  exact State.resumeAll_kept h ..

/-! ### Machine/CmdManage.lean -/

theorem execRegWrite_kept {s t_ : State} {w : SmbWrite} (hw : cwr) (e : execRegWrite w s = .next t_) : Kept cwr s t_ := by
  refine State.doAll_kept hw e ?_
  have h : Kept cwr s s := Kept.refl s
  exact State.blockWrite_kept h hw ..

theorem execReadSet_kept {s t_ : State} {w : SmbWrite} (hw : cwr) (e : execReadSet w s = .next t_) : Kept cwr s t_ := by
  refine State.doAll_kept hw e ?_
  have h : Kept cwr s s := Kept.refl s
  exact State.blockWrite_kept h hw ..

theorem execRegRead_kept {s t_ : State} (e : execRegRead s = .next t_) : Kept cwr s t_ := by
  refine State.doIf_kept e ?_
  have h : Kept cwr s s := Kept.refl s
  exact State.regRead_kept h ..

theorem execXstatus_kept {s t_ : State} (e : execXstatus s = .next t_) : Kept cwr s t_ := by
  refine State.doIf_kept e ?_
  have h : Kept cwr s s := Kept.refl s
  exact State.xstatus_kept h ..

theorem execAlertResponse_kept {s t_ : State} (e : execAlertResponse s = .next t_) : Kept cwr s t_ := by
  refine State.doIf_kept e ?_
  have h : Kept cwr s s := Kept.refl s
  exact State.alertAnswer_kept h ..

theorem execSmbusStretchTimeout_kept {s t_ : State} (e : execSmbusStretchTimeout s = .next t_) : Kept cwr s t_ := by
  refine State.doIf_kept e ?_
  have h : Kept cwr s s := Kept.refl s
  exact State.stretchEnds_kept h ..

theorem execSmbusClockHeldLow_kept {s t_ : State} (e : execSmbusClockHeldLow s = .next t_) : Kept cwr s t_ := by
  refine State.doIf_kept e ?_
  have h : Kept cwr s s := Kept.refl s
  exact State.smbTimedOut_kept h ..

theorem execRegisterWrite_kept {s t_ : State} {addr v : Word} (hw : cwr) (e : execRegisterWrite addr v s = .next t_) : Kept cwr s t_ := by
  refine State.doAll_kept hw e ?_
  have h : Kept cwr s s := Kept.refl s
  try dsimp only
  repeat first
    | with_reducible assumption | with_reducible apply State.writeAt_kept | dsimp only

/-! ### Machine/CmdDebug.lean -/

theorem execIdcode_kept {s t_ : State} (e : execIdcode s = .next t_) : Kept cwr s t_ := by
  refine State.doIf_kept e ?_
  have h : Kept cwr s s := Kept.refl s
  exact State.idCode_kept h ..

theorem execSamplePreload_kept {s t_ : State} (e : execSamplePreload s = .next t_) : Kept cwr s t_ := by
  refine State.doIf_kept e ?_
  have h : Kept cwr s s := Kept.refl s
  exact State.tap_kept h ..

theorem execExtest_kept {s t_ : State} (e : execExtest s = .next t_) : Kept cwr s t_ := by
  refine State.doIf_kept e ?_
  have h : Kept cwr s s := Kept.refl s
  exact State.tap_kept h ..

theorem execClamp_kept {s t_ : State} (e : execClamp s = .next t_) : Kept cwr s t_ := by
  refine State.doIf_kept e ?_
  have h : Kept cwr s s := Kept.refl s
  exact State.tap_kept h ..

theorem execHighz_kept {s t_ : State} (e : execHighz s = .next t_) : Kept cwr s t_ := by
  refine State.doIf_kept e ?_
  have h : Kept cwr s s := Kept.refl s
  exact State.tap_kept h ..

theorem execDapReg_kept {s t_ : State} {data addr : Word} {write go : Bool} (hw : cwr) (e : execDapReg data addr write go s = .next t_) : Kept cwr s t_ := by
  refine State.doAll_kept hw e ?_
  have h : Kept cwr s s := Kept.refl s
  exact State.dapRegister_kept h hw ..

theorem execDapMem_kept {s t_ : State} {data : BitVec 64} {struct : BitVec 4} {tile : TileId} {write : Bool} (e : execDapMem data struct tile write s = .next t_) : Kept cwr s t_ := by
  refine State.doIf_kept e ?_
  have h : Kept cwr s s := Kept.refl s
  exact State.dapMemory_kept h ..

theorem execBypass_kept {s t_ : State} {code : Byte} (e : execBypass code s = .next t_) : Kept cwr s t_ := by
  refine State.doIf_kept e ?_
  have h : Kept cwr s s := Kept.refl s
  exact State.tap_kept h ..

theorem execTapReset_kept {s t_ : State} (e : execTapReset s = .next t_) : Kept cwr s t_ := by
  refine State.doIf_kept e ?_
  have h : Kept cwr s s := Kept.refl s
  exact State.tapClear_kept h ..

theorem execLockDebug_kept {s t_ : State} (e : execLockDebug s = .next t_) : Kept cwr s t_ := by
  refine State.doIf_kept e ?_
  have h : Kept cwr s s := Kept.refl s
  exact State.lockDebug_kept h ..

theorem execDmaStart_kept {s t_ : State} {t : TileId} (e : execDmaStart t s = .next t_) : Kept cwr s t_ := by
  refine State.doIf_kept e ?_
  have h : Kept cwr s s := Kept.refl s
  try dsimp only
  repeat first
    | with_reducible assumption | with_reducible apply State.dmaStart_kept | dsimp only
    | fail_if_no_progress with_reducible apply Kept.update

theorem execDmaComplete_kept {s t_ : State} (e : execDmaComplete s = .next t_) : Kept cwr s t_ := by
  refine State.doIf_kept e ?_
  have h : Kept cwr s s := Kept.refl s
  exact State.dmaDone_kept h ..

end Sys2Proof.Machine
end

