-- ==== Sys2Proof/Laws/State.lean ====
section
/-! SUPPORT. The updates of the state, field by field: what each leaves alone, and what a read of the numbered resource gives after it. -/

namespace Sys2Proof.Machine

/-! ### modSes -/

@[simp] theorem State.modSes_pending (s : State) (x : SessId) (f : Sess → Sess) : (s.modSes x f).pending = s.pending := rfl
@[simp] theorem State.modSes_part (s : State) (x : SessId) (f : Sess → Sess) : (s.modSes x f).part = s.part := rfl
@[simp] theorem State.modSes_stepping (s : State) (x : SessId) (f : Sess → Sess) : (s.modSes x f).stepping = s.stepping := rfl
@[simp] theorem State.modSes_now (s : State) (x : SessId) (f : Sess → Sess) : (s.modSes x f).now = s.now := rfl
@[simp] theorem State.modSes_free (s : State) (x : SessId) (f : Sess → Sess) : (s.modSes x f).free = s.free := rfl
@[simp] theorem State.modSes_sf (s : State) (x : SessId) (f : Sess → Sess) : (s.modSes x f).sf = s.sf := rfl
@[simp] theorem State.modSes_powered (s : State) (x : SessId) (f : Sess → Sess) : (s.modSes x f).powered = s.powered := rfl
@[simp] theorem State.modSes_held (s : State) (x : SessId) (f : Sess → Sess) : (s.modSes x f).held = s.held := rfl
@[simp] theorem State.modSes_scratch (s : State) (x : SessId) (f : Sess → Sess) : (s.modSes x f).scratch = s.scratch := rfl
@[simp] theorem State.modSes_sesCtl (s : State) (x : SessId) (f : Sess → Sess) : (s.modSes x f).sesCtl = s.sesCtl := rfl
@[simp] theorem State.modSes_creds (s : State) (x : SessId) (f : Sess → Sess) : (s.modSes x f).creds = s.creds := rfl
@[simp] theorem State.modSes_enrQ (s : State) (x : SessId) (f : Sess → Sess) : (s.modSes x f).enrQ = s.enrQ := rfl
@[simp] theorem State.modSes_strg (s : State) (x : SessId) (f : Sess → Sess) : (s.modSes x f).strg = s.strg := rfl
@[simp] theorem State.modSes_ports (s : State) (x : SessId) (f : Sess → Sess) : (s.modSes x f).ports = s.ports := rfl
@[simp] theorem State.modSes_rgns (s : State) (x : SessId) (f : Sess → Sess) : (s.modSes x f).rgns = s.rgns := rfl
@[simp] theorem State.modSes_dbgDenied (s : State) (x : SessId) (f : Sess → Sess) : (s.modSes x f).dbgDenied = s.dbgDenied := rfl
@[simp] theorem State.modSes_ldg (s : State) (x : SessId) (f : Sess → Sess) : (s.modSes x f).ldg = s.ldg := rfl
@[simp] theorem State.modSes_evt (s : State) (x : SessId) (f : Sess → Sess) : (s.modSes x f).evt = s.evt := rfl
@[simp] theorem State.modSes_tiles (s : State) (x : SessId) (f : Sess → Sess) : (s.modSes x f).tiles = s.tiles := rfl
@[simp] theorem State.modSes_media (s : State) (x : SessId) (f : Sess → Sess) : (s.modSes x f).media = s.media := rfl
@[simp] theorem State.modSes_mesh (s : State) (x : SessId) (f : Sess → Sess) : (s.modSes x f).mesh = s.mesh := rfl
@[simp] theorem State.modSes_sup (s : State) (x : SessId) (f : Sess → Sess) : (s.modSes x f).sup = s.sup := rfl
@[simp] theorem State.modSes_thm (s : State) (x : SessId) (f : Sess → Sess) : (s.modSes x f).thm = s.thm := rfl
@[simp] theorem State.modSes_clk (s : State) (x : SessId) (f : Sess → Sess) : (s.modSes x f).clk = s.clk := rfl
@[simp] theorem State.modSes_cfg (s : State) (x : SessId) (f : Sess → Sess) : (s.modSes x f).cfg = s.cfg := rfl
@[simp] theorem State.modSes_boot (s : State) (x : SessId) (f : Sess → Sess) : (s.modSes x f).boot = s.boot := rfl
@[simp] theorem State.modSes_dbg (s : State) (x : SessId) (f : Sess → Sess) : (s.modSes x f).dbg = s.dbg := rfl
@[simp] theorem State.modSes_smb (s : State) (x : SessId) (f : Sess → Sess) : (s.modSes x f).smb = s.smb := rfl
@[simp] theorem State.modSes_cap (s : State) (x : SessId) (f : Sess → Sess) : (s.modSes x f).cap = s.cap := rfl
@[simp] theorem State.modSes_out (s : State) (x : SessId) (f : Sess → Sess) : (s.modSes x f).out = s.out := rfl
@[simp] theorem State.modSes_cred (s : State) (x : SessId) (f : Sess → Sess) (y : SessId) : (s.modSes x f).cred y = s.cred y := rfl
@[simp] theorem State.modSes_port (s : State) (x : SessId) (f : Sess → Sess) (q : PortId) : (s.modSes x f).port q = s.port q := rfl
@[simp] theorem State.modSes_rgn (s : State) (x : SessId) (f : Sess → Sess) (q : RegionId) : (s.modSes x f).rgn q = s.rgn q := rfl
@[simp] theorem State.modSes_tile (s : State) (x : SessId) (f : Sess → Sess) (u : TileId) : (s.modSes x f).tile u = s.tile u := rfl
@[simp] theorem State.modSes_medium (s : State) (x : SessId) (f : Sess → Sess) (u : TileId) : (s.modSes x f).medium u = s.medium u := rfl
@[simp] theorem State.modSes_thmT (s : State) (x : SessId) (f : Sess → Sess) (u : TileId) : (s.modSes x f).thmT u = s.thmT u := rfl
@[simp] theorem State.modSes_strgL (s : State) (x : SessId) (f : Sess → Sess) (q : PortId) (k : LinkId) : (s.modSes x f).strgL q k = s.strgL q k := rfl
@[simp] theorem State.ses_modSes (s : State) (x : SessId) (f : Sess → Sess) (y : SessId) :
    (s.modSes x f).ses y = if y = x then f (s.ses x) else s.ses y := by
  simp only [State.ses, State.modSes, Tab.get_upd, Fin.ext_iff]

/-! ### modCred -/

@[simp] theorem State.modCred_pending (s : State) (x : SessId) (f : Cred → Cred) : (s.modCred x f).pending = s.pending := rfl
@[simp] theorem State.modCred_part (s : State) (x : SessId) (f : Cred → Cred) : (s.modCred x f).part = s.part := rfl
@[simp] theorem State.modCred_stepping (s : State) (x : SessId) (f : Cred → Cred) : (s.modCred x f).stepping = s.stepping := rfl
@[simp] theorem State.modCred_now (s : State) (x : SessId) (f : Cred → Cred) : (s.modCred x f).now = s.now := rfl
@[simp] theorem State.modCred_free (s : State) (x : SessId) (f : Cred → Cred) : (s.modCred x f).free = s.free := rfl
@[simp] theorem State.modCred_sf (s : State) (x : SessId) (f : Cred → Cred) : (s.modCred x f).sf = s.sf := rfl
@[simp] theorem State.modCred_powered (s : State) (x : SessId) (f : Cred → Cred) : (s.modCred x f).powered = s.powered := rfl
@[simp] theorem State.modCred_held (s : State) (x : SessId) (f : Cred → Cred) : (s.modCred x f).held = s.held := rfl
@[simp] theorem State.modCred_scratch (s : State) (x : SessId) (f : Cred → Cred) : (s.modCred x f).scratch = s.scratch := rfl
@[simp] theorem State.modCred_sesCtl (s : State) (x : SessId) (f : Cred → Cred) : (s.modCred x f).sesCtl = s.sesCtl := rfl
@[simp] theorem State.modCred_sess (s : State) (x : SessId) (f : Cred → Cred) : (s.modCred x f).sess = s.sess := rfl
@[simp] theorem State.modCred_enrQ (s : State) (x : SessId) (f : Cred → Cred) : (s.modCred x f).enrQ = s.enrQ := rfl
@[simp] theorem State.modCred_strg (s : State) (x : SessId) (f : Cred → Cred) : (s.modCred x f).strg = s.strg := rfl
@[simp] theorem State.modCred_ports (s : State) (x : SessId) (f : Cred → Cred) : (s.modCred x f).ports = s.ports := rfl
@[simp] theorem State.modCred_rgns (s : State) (x : SessId) (f : Cred → Cred) : (s.modCred x f).rgns = s.rgns := rfl
@[simp] theorem State.modCred_dbgDenied (s : State) (x : SessId) (f : Cred → Cred) : (s.modCred x f).dbgDenied = s.dbgDenied := rfl
@[simp] theorem State.modCred_ldg (s : State) (x : SessId) (f : Cred → Cred) : (s.modCred x f).ldg = s.ldg := rfl
@[simp] theorem State.modCred_evt (s : State) (x : SessId) (f : Cred → Cred) : (s.modCred x f).evt = s.evt := rfl
@[simp] theorem State.modCred_tiles (s : State) (x : SessId) (f : Cred → Cred) : (s.modCred x f).tiles = s.tiles := rfl
@[simp] theorem State.modCred_media (s : State) (x : SessId) (f : Cred → Cred) : (s.modCred x f).media = s.media := rfl
@[simp] theorem State.modCred_mesh (s : State) (x : SessId) (f : Cred → Cred) : (s.modCred x f).mesh = s.mesh := rfl
@[simp] theorem State.modCred_sup (s : State) (x : SessId) (f : Cred → Cred) : (s.modCred x f).sup = s.sup := rfl
@[simp] theorem State.modCred_thm (s : State) (x : SessId) (f : Cred → Cred) : (s.modCred x f).thm = s.thm := rfl
@[simp] theorem State.modCred_clk (s : State) (x : SessId) (f : Cred → Cred) : (s.modCred x f).clk = s.clk := rfl
@[simp] theorem State.modCred_cfg (s : State) (x : SessId) (f : Cred → Cred) : (s.modCred x f).cfg = s.cfg := rfl
@[simp] theorem State.modCred_boot (s : State) (x : SessId) (f : Cred → Cred) : (s.modCred x f).boot = s.boot := rfl
@[simp] theorem State.modCred_dbg (s : State) (x : SessId) (f : Cred → Cred) : (s.modCred x f).dbg = s.dbg := rfl
@[simp] theorem State.modCred_smb (s : State) (x : SessId) (f : Cred → Cred) : (s.modCred x f).smb = s.smb := rfl
@[simp] theorem State.modCred_cap (s : State) (x : SessId) (f : Cred → Cred) : (s.modCred x f).cap = s.cap := rfl
@[simp] theorem State.modCred_out (s : State) (x : SessId) (f : Cred → Cred) : (s.modCred x f).out = s.out := rfl
@[simp] theorem State.modCred_ses (s : State) (x : SessId) (f : Cred → Cred) (y : SessId) : (s.modCred x f).ses y = s.ses y := rfl
@[simp] theorem State.modCred_port (s : State) (x : SessId) (f : Cred → Cred) (q : PortId) : (s.modCred x f).port q = s.port q := rfl
@[simp] theorem State.modCred_rgn (s : State) (x : SessId) (f : Cred → Cred) (q : RegionId) : (s.modCred x f).rgn q = s.rgn q := rfl
@[simp] theorem State.modCred_tile (s : State) (x : SessId) (f : Cred → Cred) (u : TileId) : (s.modCred x f).tile u = s.tile u := rfl
@[simp] theorem State.modCred_medium (s : State) (x : SessId) (f : Cred → Cred) (u : TileId) : (s.modCred x f).medium u = s.medium u := rfl
@[simp] theorem State.modCred_thmT (s : State) (x : SessId) (f : Cred → Cred) (u : TileId) : (s.modCred x f).thmT u = s.thmT u := rfl
@[simp] theorem State.modCred_strgL (s : State) (x : SessId) (f : Cred → Cred) (q : PortId) (k : LinkId) : (s.modCred x f).strgL q k = s.strgL q k := rfl
@[simp] theorem State.cred_modCred (s : State) (x : SessId) (f : Cred → Cred) (y : SessId) :
    (s.modCred x f).cred y = if y = x then f (s.cred x) else s.cred y := by
  simp only [State.cred, State.modCred, Tab.get_upd, Fin.ext_iff]

/-! ### modPort -/

@[simp] theorem State.modPort_pending (s : State) (p : PortId) (f : Port → Port) : (s.modPort p f).pending = s.pending := rfl
@[simp] theorem State.modPort_part (s : State) (p : PortId) (f : Port → Port) : (s.modPort p f).part = s.part := rfl
@[simp] theorem State.modPort_stepping (s : State) (p : PortId) (f : Port → Port) : (s.modPort p f).stepping = s.stepping := rfl
@[simp] theorem State.modPort_now (s : State) (p : PortId) (f : Port → Port) : (s.modPort p f).now = s.now := rfl
@[simp] theorem State.modPort_free (s : State) (p : PortId) (f : Port → Port) : (s.modPort p f).free = s.free := rfl
@[simp] theorem State.modPort_sf (s : State) (p : PortId) (f : Port → Port) : (s.modPort p f).sf = s.sf := rfl
@[simp] theorem State.modPort_powered (s : State) (p : PortId) (f : Port → Port) : (s.modPort p f).powered = s.powered := rfl
@[simp] theorem State.modPort_held (s : State) (p : PortId) (f : Port → Port) : (s.modPort p f).held = s.held := rfl
@[simp] theorem State.modPort_scratch (s : State) (p : PortId) (f : Port → Port) : (s.modPort p f).scratch = s.scratch := rfl
@[simp] theorem State.modPort_sesCtl (s : State) (p : PortId) (f : Port → Port) : (s.modPort p f).sesCtl = s.sesCtl := rfl
@[simp] theorem State.modPort_sess (s : State) (p : PortId) (f : Port → Port) : (s.modPort p f).sess = s.sess := rfl
@[simp] theorem State.modPort_creds (s : State) (p : PortId) (f : Port → Port) : (s.modPort p f).creds = s.creds := rfl
@[simp] theorem State.modPort_enrQ (s : State) (p : PortId) (f : Port → Port) : (s.modPort p f).enrQ = s.enrQ := rfl
@[simp] theorem State.modPort_strg (s : State) (p : PortId) (f : Port → Port) : (s.modPort p f).strg = s.strg := rfl
@[simp] theorem State.modPort_rgns (s : State) (p : PortId) (f : Port → Port) : (s.modPort p f).rgns = s.rgns := rfl
@[simp] theorem State.modPort_dbgDenied (s : State) (p : PortId) (f : Port → Port) : (s.modPort p f).dbgDenied = s.dbgDenied := rfl
@[simp] theorem State.modPort_ldg (s : State) (p : PortId) (f : Port → Port) : (s.modPort p f).ldg = s.ldg := rfl
@[simp] theorem State.modPort_evt (s : State) (p : PortId) (f : Port → Port) : (s.modPort p f).evt = s.evt := rfl
@[simp] theorem State.modPort_tiles (s : State) (p : PortId) (f : Port → Port) : (s.modPort p f).tiles = s.tiles := rfl
@[simp] theorem State.modPort_media (s : State) (p : PortId) (f : Port → Port) : (s.modPort p f).media = s.media := rfl
@[simp] theorem State.modPort_mesh (s : State) (p : PortId) (f : Port → Port) : (s.modPort p f).mesh = s.mesh := rfl
@[simp] theorem State.modPort_sup (s : State) (p : PortId) (f : Port → Port) : (s.modPort p f).sup = s.sup := rfl
@[simp] theorem State.modPort_thm (s : State) (p : PortId) (f : Port → Port) : (s.modPort p f).thm = s.thm := rfl
@[simp] theorem State.modPort_clk (s : State) (p : PortId) (f : Port → Port) : (s.modPort p f).clk = s.clk := rfl
@[simp] theorem State.modPort_cfg (s : State) (p : PortId) (f : Port → Port) : (s.modPort p f).cfg = s.cfg := rfl
@[simp] theorem State.modPort_boot (s : State) (p : PortId) (f : Port → Port) : (s.modPort p f).boot = s.boot := rfl
@[simp] theorem State.modPort_dbg (s : State) (p : PortId) (f : Port → Port) : (s.modPort p f).dbg = s.dbg := rfl
@[simp] theorem State.modPort_smb (s : State) (p : PortId) (f : Port → Port) : (s.modPort p f).smb = s.smb := rfl
@[simp] theorem State.modPort_cap (s : State) (p : PortId) (f : Port → Port) : (s.modPort p f).cap = s.cap := rfl
@[simp] theorem State.modPort_out (s : State) (p : PortId) (f : Port → Port) : (s.modPort p f).out = s.out := rfl
@[simp] theorem State.modPort_ses (s : State) (p : PortId) (f : Port → Port) (y : SessId) : (s.modPort p f).ses y = s.ses y := rfl
@[simp] theorem State.modPort_cred (s : State) (p : PortId) (f : Port → Port) (y : SessId) : (s.modPort p f).cred y = s.cred y := rfl
@[simp] theorem State.modPort_rgn (s : State) (p : PortId) (f : Port → Port) (q : RegionId) : (s.modPort p f).rgn q = s.rgn q := rfl
@[simp] theorem State.modPort_tile (s : State) (p : PortId) (f : Port → Port) (u : TileId) : (s.modPort p f).tile u = s.tile u := rfl
@[simp] theorem State.modPort_medium (s : State) (p : PortId) (f : Port → Port) (u : TileId) : (s.modPort p f).medium u = s.medium u := rfl
@[simp] theorem State.modPort_thmT (s : State) (p : PortId) (f : Port → Port) (u : TileId) : (s.modPort p f).thmT u = s.thmT u := rfl
@[simp] theorem State.modPort_strgL (s : State) (p : PortId) (f : Port → Port) (q : PortId) (k : LinkId) : (s.modPort p f).strgL q k = s.strgL q k := rfl
@[simp] theorem State.port_modPort (s : State) (x : PortId) (f : Port → Port) (y : PortId) :
    (s.modPort x f).port y = if y = x then f (s.port x) else s.port y := by
  simp only [State.port, State.modPort, Tab.get_upd, Fin.ext_iff]

/-! ### modRgn -/

@[simp] theorem State.modRgn_pending (s : State) (r : RegionId) (f : Region → Region) : (s.modRgn r f).pending = s.pending := rfl
@[simp] theorem State.modRgn_part (s : State) (r : RegionId) (f : Region → Region) : (s.modRgn r f).part = s.part := rfl
@[simp] theorem State.modRgn_stepping (s : State) (r : RegionId) (f : Region → Region) : (s.modRgn r f).stepping = s.stepping := rfl
@[simp] theorem State.modRgn_now (s : State) (r : RegionId) (f : Region → Region) : (s.modRgn r f).now = s.now := rfl
@[simp] theorem State.modRgn_free (s : State) (r : RegionId) (f : Region → Region) : (s.modRgn r f).free = s.free := rfl
@[simp] theorem State.modRgn_sf (s : State) (r : RegionId) (f : Region → Region) : (s.modRgn r f).sf = s.sf := rfl
@[simp] theorem State.modRgn_powered (s : State) (r : RegionId) (f : Region → Region) : (s.modRgn r f).powered = s.powered := rfl
@[simp] theorem State.modRgn_held (s : State) (r : RegionId) (f : Region → Region) : (s.modRgn r f).held = s.held := rfl
@[simp] theorem State.modRgn_scratch (s : State) (r : RegionId) (f : Region → Region) : (s.modRgn r f).scratch = s.scratch := rfl
@[simp] theorem State.modRgn_sesCtl (s : State) (r : RegionId) (f : Region → Region) : (s.modRgn r f).sesCtl = s.sesCtl := rfl
@[simp] theorem State.modRgn_sess (s : State) (r : RegionId) (f : Region → Region) : (s.modRgn r f).sess = s.sess := rfl
@[simp] theorem State.modRgn_creds (s : State) (r : RegionId) (f : Region → Region) : (s.modRgn r f).creds = s.creds := rfl
@[simp] theorem State.modRgn_enrQ (s : State) (r : RegionId) (f : Region → Region) : (s.modRgn r f).enrQ = s.enrQ := rfl
@[simp] theorem State.modRgn_strg (s : State) (r : RegionId) (f : Region → Region) : (s.modRgn r f).strg = s.strg := rfl
@[simp] theorem State.modRgn_ports (s : State) (r : RegionId) (f : Region → Region) : (s.modRgn r f).ports = s.ports := rfl
@[simp] theorem State.modRgn_dbgDenied (s : State) (r : RegionId) (f : Region → Region) : (s.modRgn r f).dbgDenied = s.dbgDenied := rfl
@[simp] theorem State.modRgn_ldg (s : State) (r : RegionId) (f : Region → Region) : (s.modRgn r f).ldg = s.ldg := rfl
@[simp] theorem State.modRgn_evt (s : State) (r : RegionId) (f : Region → Region) : (s.modRgn r f).evt = s.evt := rfl
@[simp] theorem State.modRgn_tiles (s : State) (r : RegionId) (f : Region → Region) : (s.modRgn r f).tiles = s.tiles := rfl
@[simp] theorem State.modRgn_media (s : State) (r : RegionId) (f : Region → Region) : (s.modRgn r f).media = s.media := rfl
@[simp] theorem State.modRgn_mesh (s : State) (r : RegionId) (f : Region → Region) : (s.modRgn r f).mesh = s.mesh := rfl
@[simp] theorem State.modRgn_sup (s : State) (r : RegionId) (f : Region → Region) : (s.modRgn r f).sup = s.sup := rfl
@[simp] theorem State.modRgn_thm (s : State) (r : RegionId) (f : Region → Region) : (s.modRgn r f).thm = s.thm := rfl
@[simp] theorem State.modRgn_clk (s : State) (r : RegionId) (f : Region → Region) : (s.modRgn r f).clk = s.clk := rfl
@[simp] theorem State.modRgn_cfg (s : State) (r : RegionId) (f : Region → Region) : (s.modRgn r f).cfg = s.cfg := rfl
@[simp] theorem State.modRgn_boot (s : State) (r : RegionId) (f : Region → Region) : (s.modRgn r f).boot = s.boot := rfl
@[simp] theorem State.modRgn_dbg (s : State) (r : RegionId) (f : Region → Region) : (s.modRgn r f).dbg = s.dbg := rfl
@[simp] theorem State.modRgn_smb (s : State) (r : RegionId) (f : Region → Region) : (s.modRgn r f).smb = s.smb := rfl
@[simp] theorem State.modRgn_cap (s : State) (r : RegionId) (f : Region → Region) : (s.modRgn r f).cap = s.cap := rfl
@[simp] theorem State.modRgn_out (s : State) (r : RegionId) (f : Region → Region) : (s.modRgn r f).out = s.out := rfl
@[simp] theorem State.modRgn_ses (s : State) (r : RegionId) (f : Region → Region) (y : SessId) : (s.modRgn r f).ses y = s.ses y := rfl
@[simp] theorem State.modRgn_cred (s : State) (r : RegionId) (f : Region → Region) (y : SessId) : (s.modRgn r f).cred y = s.cred y := rfl
@[simp] theorem State.modRgn_port (s : State) (r : RegionId) (f : Region → Region) (q : PortId) : (s.modRgn r f).port q = s.port q := rfl
@[simp] theorem State.modRgn_tile (s : State) (r : RegionId) (f : Region → Region) (u : TileId) : (s.modRgn r f).tile u = s.tile u := rfl
@[simp] theorem State.modRgn_medium (s : State) (r : RegionId) (f : Region → Region) (u : TileId) : (s.modRgn r f).medium u = s.medium u := rfl
@[simp] theorem State.modRgn_thmT (s : State) (r : RegionId) (f : Region → Region) (u : TileId) : (s.modRgn r f).thmT u = s.thmT u := rfl
@[simp] theorem State.modRgn_strgL (s : State) (r : RegionId) (f : Region → Region) (q : PortId) (k : LinkId) : (s.modRgn r f).strgL q k = s.strgL q k := rfl
@[simp] theorem State.rgn_modRgn (s : State) (x : RegionId) (f : Region → Region) (y : RegionId) :
    (s.modRgn x f).rgn y = if y = x then f (s.rgn x) else s.rgn y := by
  simp only [State.rgn, State.modRgn, Tab.get_upd, Fin.ext_iff]

/-! ### modTile -/

@[simp] theorem State.modTile_pending (s : State) (t : TileId) (f : Tile → Tile) : (s.modTile t f).pending = s.pending := rfl
@[simp] theorem State.modTile_part (s : State) (t : TileId) (f : Tile → Tile) : (s.modTile t f).part = s.part := rfl
@[simp] theorem State.modTile_stepping (s : State) (t : TileId) (f : Tile → Tile) : (s.modTile t f).stepping = s.stepping := rfl
@[simp] theorem State.modTile_now (s : State) (t : TileId) (f : Tile → Tile) : (s.modTile t f).now = s.now := rfl
@[simp] theorem State.modTile_free (s : State) (t : TileId) (f : Tile → Tile) : (s.modTile t f).free = s.free := rfl
@[simp] theorem State.modTile_sf (s : State) (t : TileId) (f : Tile → Tile) : (s.modTile t f).sf = s.sf := rfl
@[simp] theorem State.modTile_powered (s : State) (t : TileId) (f : Tile → Tile) : (s.modTile t f).powered = s.powered := rfl
@[simp] theorem State.modTile_held (s : State) (t : TileId) (f : Tile → Tile) : (s.modTile t f).held = s.held := rfl
@[simp] theorem State.modTile_scratch (s : State) (t : TileId) (f : Tile → Tile) : (s.modTile t f).scratch = s.scratch := rfl
@[simp] theorem State.modTile_sesCtl (s : State) (t : TileId) (f : Tile → Tile) : (s.modTile t f).sesCtl = s.sesCtl := rfl
@[simp] theorem State.modTile_sess (s : State) (t : TileId) (f : Tile → Tile) : (s.modTile t f).sess = s.sess := rfl
@[simp] theorem State.modTile_creds (s : State) (t : TileId) (f : Tile → Tile) : (s.modTile t f).creds = s.creds := rfl
@[simp] theorem State.modTile_enrQ (s : State) (t : TileId) (f : Tile → Tile) : (s.modTile t f).enrQ = s.enrQ := rfl
@[simp] theorem State.modTile_strg (s : State) (t : TileId) (f : Tile → Tile) : (s.modTile t f).strg = s.strg := rfl
@[simp] theorem State.modTile_ports (s : State) (t : TileId) (f : Tile → Tile) : (s.modTile t f).ports = s.ports := rfl
@[simp] theorem State.modTile_rgns (s : State) (t : TileId) (f : Tile → Tile) : (s.modTile t f).rgns = s.rgns := rfl
@[simp] theorem State.modTile_dbgDenied (s : State) (t : TileId) (f : Tile → Tile) : (s.modTile t f).dbgDenied = s.dbgDenied := rfl
@[simp] theorem State.modTile_ldg (s : State) (t : TileId) (f : Tile → Tile) : (s.modTile t f).ldg = s.ldg := rfl
@[simp] theorem State.modTile_evt (s : State) (t : TileId) (f : Tile → Tile) : (s.modTile t f).evt = s.evt := rfl
@[simp] theorem State.modTile_media (s : State) (t : TileId) (f : Tile → Tile) : (s.modTile t f).media = s.media := rfl
@[simp] theorem State.modTile_mesh (s : State) (t : TileId) (f : Tile → Tile) : (s.modTile t f).mesh = s.mesh := rfl
@[simp] theorem State.modTile_sup (s : State) (t : TileId) (f : Tile → Tile) : (s.modTile t f).sup = s.sup := rfl
@[simp] theorem State.modTile_thm (s : State) (t : TileId) (f : Tile → Tile) : (s.modTile t f).thm = s.thm := rfl
@[simp] theorem State.modTile_clk (s : State) (t : TileId) (f : Tile → Tile) : (s.modTile t f).clk = s.clk := rfl
@[simp] theorem State.modTile_cfg (s : State) (t : TileId) (f : Tile → Tile) : (s.modTile t f).cfg = s.cfg := rfl
@[simp] theorem State.modTile_boot (s : State) (t : TileId) (f : Tile → Tile) : (s.modTile t f).boot = s.boot := rfl
@[simp] theorem State.modTile_dbg (s : State) (t : TileId) (f : Tile → Tile) : (s.modTile t f).dbg = s.dbg := rfl
@[simp] theorem State.modTile_smb (s : State) (t : TileId) (f : Tile → Tile) : (s.modTile t f).smb = s.smb := rfl
@[simp] theorem State.modTile_cap (s : State) (t : TileId) (f : Tile → Tile) : (s.modTile t f).cap = s.cap := rfl
@[simp] theorem State.modTile_out (s : State) (t : TileId) (f : Tile → Tile) : (s.modTile t f).out = s.out := rfl
@[simp] theorem State.modTile_ses (s : State) (t : TileId) (f : Tile → Tile) (y : SessId) : (s.modTile t f).ses y = s.ses y := rfl
@[simp] theorem State.modTile_cred (s : State) (t : TileId) (f : Tile → Tile) (y : SessId) : (s.modTile t f).cred y = s.cred y := rfl
@[simp] theorem State.modTile_port (s : State) (t : TileId) (f : Tile → Tile) (q : PortId) : (s.modTile t f).port q = s.port q := rfl
@[simp] theorem State.modTile_rgn (s : State) (t : TileId) (f : Tile → Tile) (q : RegionId) : (s.modTile t f).rgn q = s.rgn q := rfl
@[simp] theorem State.modTile_medium (s : State) (t : TileId) (f : Tile → Tile) (u : TileId) : (s.modTile t f).medium u = s.medium u := rfl
@[simp] theorem State.modTile_thmT (s : State) (t : TileId) (f : Tile → Tile) (u : TileId) : (s.modTile t f).thmT u = s.thmT u := rfl
@[simp] theorem State.modTile_strgL (s : State) (t : TileId) (f : Tile → Tile) (q : PortId) (k : LinkId) : (s.modTile t f).strgL q k = s.strgL q k := rfl
@[simp] theorem State.tile_modTile (s : State) (x : TileId) (f : Tile → Tile) (y : TileId) :
    (s.modTile x f).tile y = if y = x then f (s.tile x) else s.tile y := by
  simp only [State.tile, State.modTile, Tab.get_upd, Fin.ext_iff]

/-! ### modMedium -/

@[simp] theorem State.modMedium_pending (s : State) (t : TileId) (f : Medium → Medium) : (s.modMedium t f).pending = s.pending := rfl
@[simp] theorem State.modMedium_part (s : State) (t : TileId) (f : Medium → Medium) : (s.modMedium t f).part = s.part := rfl
@[simp] theorem State.modMedium_stepping (s : State) (t : TileId) (f : Medium → Medium) : (s.modMedium t f).stepping = s.stepping := rfl
@[simp] theorem State.modMedium_now (s : State) (t : TileId) (f : Medium → Medium) : (s.modMedium t f).now = s.now := rfl
@[simp] theorem State.modMedium_free (s : State) (t : TileId) (f : Medium → Medium) : (s.modMedium t f).free = s.free := rfl
@[simp] theorem State.modMedium_sf (s : State) (t : TileId) (f : Medium → Medium) : (s.modMedium t f).sf = s.sf := rfl
@[simp] theorem State.modMedium_powered (s : State) (t : TileId) (f : Medium → Medium) : (s.modMedium t f).powered = s.powered := rfl
@[simp] theorem State.modMedium_held (s : State) (t : TileId) (f : Medium → Medium) : (s.modMedium t f).held = s.held := rfl
@[simp] theorem State.modMedium_scratch (s : State) (t : TileId) (f : Medium → Medium) : (s.modMedium t f).scratch = s.scratch := rfl
@[simp] theorem State.modMedium_sesCtl (s : State) (t : TileId) (f : Medium → Medium) : (s.modMedium t f).sesCtl = s.sesCtl := rfl
@[simp] theorem State.modMedium_sess (s : State) (t : TileId) (f : Medium → Medium) : (s.modMedium t f).sess = s.sess := rfl
@[simp] theorem State.modMedium_creds (s : State) (t : TileId) (f : Medium → Medium) : (s.modMedium t f).creds = s.creds := rfl
@[simp] theorem State.modMedium_enrQ (s : State) (t : TileId) (f : Medium → Medium) : (s.modMedium t f).enrQ = s.enrQ := rfl
@[simp] theorem State.modMedium_strg (s : State) (t : TileId) (f : Medium → Medium) : (s.modMedium t f).strg = s.strg := rfl
@[simp] theorem State.modMedium_ports (s : State) (t : TileId) (f : Medium → Medium) : (s.modMedium t f).ports = s.ports := rfl
@[simp] theorem State.modMedium_rgns (s : State) (t : TileId) (f : Medium → Medium) : (s.modMedium t f).rgns = s.rgns := rfl
@[simp] theorem State.modMedium_dbgDenied (s : State) (t : TileId) (f : Medium → Medium) : (s.modMedium t f).dbgDenied = s.dbgDenied := rfl
@[simp] theorem State.modMedium_ldg (s : State) (t : TileId) (f : Medium → Medium) : (s.modMedium t f).ldg = s.ldg := rfl
@[simp] theorem State.modMedium_evt (s : State) (t : TileId) (f : Medium → Medium) : (s.modMedium t f).evt = s.evt := rfl
@[simp] theorem State.modMedium_tiles (s : State) (t : TileId) (f : Medium → Medium) : (s.modMedium t f).tiles = s.tiles := rfl
@[simp] theorem State.modMedium_mesh (s : State) (t : TileId) (f : Medium → Medium) : (s.modMedium t f).mesh = s.mesh := rfl
@[simp] theorem State.modMedium_sup (s : State) (t : TileId) (f : Medium → Medium) : (s.modMedium t f).sup = s.sup := rfl
@[simp] theorem State.modMedium_thm (s : State) (t : TileId) (f : Medium → Medium) : (s.modMedium t f).thm = s.thm := rfl
@[simp] theorem State.modMedium_clk (s : State) (t : TileId) (f : Medium → Medium) : (s.modMedium t f).clk = s.clk := rfl
@[simp] theorem State.modMedium_cfg (s : State) (t : TileId) (f : Medium → Medium) : (s.modMedium t f).cfg = s.cfg := rfl
@[simp] theorem State.modMedium_boot (s : State) (t : TileId) (f : Medium → Medium) : (s.modMedium t f).boot = s.boot := rfl
@[simp] theorem State.modMedium_dbg (s : State) (t : TileId) (f : Medium → Medium) : (s.modMedium t f).dbg = s.dbg := rfl
@[simp] theorem State.modMedium_smb (s : State) (t : TileId) (f : Medium → Medium) : (s.modMedium t f).smb = s.smb := rfl
@[simp] theorem State.modMedium_cap (s : State) (t : TileId) (f : Medium → Medium) : (s.modMedium t f).cap = s.cap := rfl
@[simp] theorem State.modMedium_out (s : State) (t : TileId) (f : Medium → Medium) : (s.modMedium t f).out = s.out := rfl
@[simp] theorem State.modMedium_ses (s : State) (t : TileId) (f : Medium → Medium) (y : SessId) : (s.modMedium t f).ses y = s.ses y := rfl
@[simp] theorem State.modMedium_cred (s : State) (t : TileId) (f : Medium → Medium) (y : SessId) : (s.modMedium t f).cred y = s.cred y := rfl
@[simp] theorem State.modMedium_port (s : State) (t : TileId) (f : Medium → Medium) (q : PortId) : (s.modMedium t f).port q = s.port q := rfl
@[simp] theorem State.modMedium_rgn (s : State) (t : TileId) (f : Medium → Medium) (q : RegionId) : (s.modMedium t f).rgn q = s.rgn q := rfl
@[simp] theorem State.modMedium_tile (s : State) (t : TileId) (f : Medium → Medium) (u : TileId) : (s.modMedium t f).tile u = s.tile u := rfl
@[simp] theorem State.modMedium_thmT (s : State) (t : TileId) (f : Medium → Medium) (u : TileId) : (s.modMedium t f).thmT u = s.thmT u := rfl
@[simp] theorem State.modMedium_strgL (s : State) (t : TileId) (f : Medium → Medium) (q : PortId) (k : LinkId) : (s.modMedium t f).strgL q k = s.strgL q k := rfl
@[simp] theorem State.medium_modMedium (s : State) (x : TileId) (f : Medium → Medium) (y : TileId) :
    (s.modMedium x f).medium y = if y = x then f (s.medium x) else s.medium y := by
  simp only [State.medium, State.modMedium, Tab.get_upd, Fin.ext_iff]

/-! ### modThm -/

@[simp] theorem State.modThm_pending (s : State) (t : TileId) (f : Thm → Thm) : (s.modThm t f).pending = s.pending := rfl
@[simp] theorem State.modThm_part (s : State) (t : TileId) (f : Thm → Thm) : (s.modThm t f).part = s.part := rfl
@[simp] theorem State.modThm_stepping (s : State) (t : TileId) (f : Thm → Thm) : (s.modThm t f).stepping = s.stepping := rfl
@[simp] theorem State.modThm_now (s : State) (t : TileId) (f : Thm → Thm) : (s.modThm t f).now = s.now := rfl
@[simp] theorem State.modThm_free (s : State) (t : TileId) (f : Thm → Thm) : (s.modThm t f).free = s.free := rfl
@[simp] theorem State.modThm_sf (s : State) (t : TileId) (f : Thm → Thm) : (s.modThm t f).sf = s.sf := rfl
@[simp] theorem State.modThm_powered (s : State) (t : TileId) (f : Thm → Thm) : (s.modThm t f).powered = s.powered := rfl
@[simp] theorem State.modThm_held (s : State) (t : TileId) (f : Thm → Thm) : (s.modThm t f).held = s.held := rfl
@[simp] theorem State.modThm_scratch (s : State) (t : TileId) (f : Thm → Thm) : (s.modThm t f).scratch = s.scratch := rfl
@[simp] theorem State.modThm_sesCtl (s : State) (t : TileId) (f : Thm → Thm) : (s.modThm t f).sesCtl = s.sesCtl := rfl
@[simp] theorem State.modThm_sess (s : State) (t : TileId) (f : Thm → Thm) : (s.modThm t f).sess = s.sess := rfl
@[simp] theorem State.modThm_creds (s : State) (t : TileId) (f : Thm → Thm) : (s.modThm t f).creds = s.creds := rfl
@[simp] theorem State.modThm_enrQ (s : State) (t : TileId) (f : Thm → Thm) : (s.modThm t f).enrQ = s.enrQ := rfl
@[simp] theorem State.modThm_strg (s : State) (t : TileId) (f : Thm → Thm) : (s.modThm t f).strg = s.strg := rfl
@[simp] theorem State.modThm_ports (s : State) (t : TileId) (f : Thm → Thm) : (s.modThm t f).ports = s.ports := rfl
@[simp] theorem State.modThm_rgns (s : State) (t : TileId) (f : Thm → Thm) : (s.modThm t f).rgns = s.rgns := rfl
@[simp] theorem State.modThm_dbgDenied (s : State) (t : TileId) (f : Thm → Thm) : (s.modThm t f).dbgDenied = s.dbgDenied := rfl
@[simp] theorem State.modThm_ldg (s : State) (t : TileId) (f : Thm → Thm) : (s.modThm t f).ldg = s.ldg := rfl
@[simp] theorem State.modThm_evt (s : State) (t : TileId) (f : Thm → Thm) : (s.modThm t f).evt = s.evt := rfl
@[simp] theorem State.modThm_tiles (s : State) (t : TileId) (f : Thm → Thm) : (s.modThm t f).tiles = s.tiles := rfl
@[simp] theorem State.modThm_media (s : State) (t : TileId) (f : Thm → Thm) : (s.modThm t f).media = s.media := rfl
@[simp] theorem State.modThm_mesh (s : State) (t : TileId) (f : Thm → Thm) : (s.modThm t f).mesh = s.mesh := rfl
@[simp] theorem State.modThm_sup (s : State) (t : TileId) (f : Thm → Thm) : (s.modThm t f).sup = s.sup := rfl
@[simp] theorem State.modThm_clk (s : State) (t : TileId) (f : Thm → Thm) : (s.modThm t f).clk = s.clk := rfl
@[simp] theorem State.modThm_cfg (s : State) (t : TileId) (f : Thm → Thm) : (s.modThm t f).cfg = s.cfg := rfl
@[simp] theorem State.modThm_boot (s : State) (t : TileId) (f : Thm → Thm) : (s.modThm t f).boot = s.boot := rfl
@[simp] theorem State.modThm_dbg (s : State) (t : TileId) (f : Thm → Thm) : (s.modThm t f).dbg = s.dbg := rfl
@[simp] theorem State.modThm_smb (s : State) (t : TileId) (f : Thm → Thm) : (s.modThm t f).smb = s.smb := rfl
@[simp] theorem State.modThm_cap (s : State) (t : TileId) (f : Thm → Thm) : (s.modThm t f).cap = s.cap := rfl
@[simp] theorem State.modThm_out (s : State) (t : TileId) (f : Thm → Thm) : (s.modThm t f).out = s.out := rfl
@[simp] theorem State.modThm_ses (s : State) (t : TileId) (f : Thm → Thm) (y : SessId) : (s.modThm t f).ses y = s.ses y := rfl
@[simp] theorem State.modThm_cred (s : State) (t : TileId) (f : Thm → Thm) (y : SessId) : (s.modThm t f).cred y = s.cred y := rfl
@[simp] theorem State.modThm_port (s : State) (t : TileId) (f : Thm → Thm) (q : PortId) : (s.modThm t f).port q = s.port q := rfl
@[simp] theorem State.modThm_rgn (s : State) (t : TileId) (f : Thm → Thm) (q : RegionId) : (s.modThm t f).rgn q = s.rgn q := rfl
@[simp] theorem State.modThm_tile (s : State) (t : TileId) (f : Thm → Thm) (u : TileId) : (s.modThm t f).tile u = s.tile u := rfl
@[simp] theorem State.modThm_medium (s : State) (t : TileId) (f : Thm → Thm) (u : TileId) : (s.modThm t f).medium u = s.medium u := rfl
@[simp] theorem State.modThm_strgL (s : State) (t : TileId) (f : Thm → Thm) (q : PortId) (k : LinkId) : (s.modThm t f).strgL q k = s.strgL q k := rfl
@[simp] theorem State.thmT_modThm (s : State) (x : TileId) (f : Thm → Thm) (y : TileId) :
    (s.modThm x f).thmT y = if y = x then f (s.thmT x) else s.thmT y := by
  simp only [State.thmT, State.modThm, Tab.get_upd, Fin.ext_iff]

/-! ### modStrg -/

@[simp] theorem State.modStrg_pending (s : State) (p : PortId) (j : LinkId) (f : Strg → Strg) : (s.modStrg p j f).pending = s.pending := rfl
@[simp] theorem State.modStrg_part (s : State) (p : PortId) (j : LinkId) (f : Strg → Strg) : (s.modStrg p j f).part = s.part := rfl
@[simp] theorem State.modStrg_stepping (s : State) (p : PortId) (j : LinkId) (f : Strg → Strg) : (s.modStrg p j f).stepping = s.stepping := rfl
@[simp] theorem State.modStrg_now (s : State) (p : PortId) (j : LinkId) (f : Strg → Strg) : (s.modStrg p j f).now = s.now := rfl
@[simp] theorem State.modStrg_free (s : State) (p : PortId) (j : LinkId) (f : Strg → Strg) : (s.modStrg p j f).free = s.free := rfl
@[simp] theorem State.modStrg_sf (s : State) (p : PortId) (j : LinkId) (f : Strg → Strg) : (s.modStrg p j f).sf = s.sf := rfl
@[simp] theorem State.modStrg_powered (s : State) (p : PortId) (j : LinkId) (f : Strg → Strg) : (s.modStrg p j f).powered = s.powered := rfl
@[simp] theorem State.modStrg_held (s : State) (p : PortId) (j : LinkId) (f : Strg → Strg) : (s.modStrg p j f).held = s.held := rfl
@[simp] theorem State.modStrg_scratch (s : State) (p : PortId) (j : LinkId) (f : Strg → Strg) : (s.modStrg p j f).scratch = s.scratch := rfl
@[simp] theorem State.modStrg_sesCtl (s : State) (p : PortId) (j : LinkId) (f : Strg → Strg) : (s.modStrg p j f).sesCtl = s.sesCtl := rfl
@[simp] theorem State.modStrg_sess (s : State) (p : PortId) (j : LinkId) (f : Strg → Strg) : (s.modStrg p j f).sess = s.sess := rfl
@[simp] theorem State.modStrg_creds (s : State) (p : PortId) (j : LinkId) (f : Strg → Strg) : (s.modStrg p j f).creds = s.creds := rfl
@[simp] theorem State.modStrg_enrQ (s : State) (p : PortId) (j : LinkId) (f : Strg → Strg) : (s.modStrg p j f).enrQ = s.enrQ := rfl
@[simp] theorem State.modStrg_ports (s : State) (p : PortId) (j : LinkId) (f : Strg → Strg) : (s.modStrg p j f).ports = s.ports := rfl
@[simp] theorem State.modStrg_rgns (s : State) (p : PortId) (j : LinkId) (f : Strg → Strg) : (s.modStrg p j f).rgns = s.rgns := rfl
@[simp] theorem State.modStrg_dbgDenied (s : State) (p : PortId) (j : LinkId) (f : Strg → Strg) : (s.modStrg p j f).dbgDenied = s.dbgDenied := rfl
@[simp] theorem State.modStrg_ldg (s : State) (p : PortId) (j : LinkId) (f : Strg → Strg) : (s.modStrg p j f).ldg = s.ldg := rfl
@[simp] theorem State.modStrg_evt (s : State) (p : PortId) (j : LinkId) (f : Strg → Strg) : (s.modStrg p j f).evt = s.evt := rfl
@[simp] theorem State.modStrg_tiles (s : State) (p : PortId) (j : LinkId) (f : Strg → Strg) : (s.modStrg p j f).tiles = s.tiles := rfl
@[simp] theorem State.modStrg_media (s : State) (p : PortId) (j : LinkId) (f : Strg → Strg) : (s.modStrg p j f).media = s.media := rfl
@[simp] theorem State.modStrg_mesh (s : State) (p : PortId) (j : LinkId) (f : Strg → Strg) : (s.modStrg p j f).mesh = s.mesh := rfl
@[simp] theorem State.modStrg_sup (s : State) (p : PortId) (j : LinkId) (f : Strg → Strg) : (s.modStrg p j f).sup = s.sup := rfl
@[simp] theorem State.modStrg_thm (s : State) (p : PortId) (j : LinkId) (f : Strg → Strg) : (s.modStrg p j f).thm = s.thm := rfl
@[simp] theorem State.modStrg_clk (s : State) (p : PortId) (j : LinkId) (f : Strg → Strg) : (s.modStrg p j f).clk = s.clk := rfl
@[simp] theorem State.modStrg_cfg (s : State) (p : PortId) (j : LinkId) (f : Strg → Strg) : (s.modStrg p j f).cfg = s.cfg := rfl
@[simp] theorem State.modStrg_boot (s : State) (p : PortId) (j : LinkId) (f : Strg → Strg) : (s.modStrg p j f).boot = s.boot := rfl
@[simp] theorem State.modStrg_dbg (s : State) (p : PortId) (j : LinkId) (f : Strg → Strg) : (s.modStrg p j f).dbg = s.dbg := rfl
@[simp] theorem State.modStrg_smb (s : State) (p : PortId) (j : LinkId) (f : Strg → Strg) : (s.modStrg p j f).smb = s.smb := rfl
@[simp] theorem State.modStrg_cap (s : State) (p : PortId) (j : LinkId) (f : Strg → Strg) : (s.modStrg p j f).cap = s.cap := rfl
@[simp] theorem State.modStrg_out (s : State) (p : PortId) (j : LinkId) (f : Strg → Strg) : (s.modStrg p j f).out = s.out := rfl
@[simp] theorem State.modStrg_ses (s : State) (p : PortId) (j : LinkId) (f : Strg → Strg) (y : SessId) : (s.modStrg p j f).ses y = s.ses y := rfl
@[simp] theorem State.modStrg_cred (s : State) (p : PortId) (j : LinkId) (f : Strg → Strg) (y : SessId) : (s.modStrg p j f).cred y = s.cred y := rfl
@[simp] theorem State.modStrg_port (s : State) (p : PortId) (j : LinkId) (f : Strg → Strg) (q : PortId) : (s.modStrg p j f).port q = s.port q := rfl
@[simp] theorem State.modStrg_rgn (s : State) (p : PortId) (j : LinkId) (f : Strg → Strg) (q : RegionId) : (s.modStrg p j f).rgn q = s.rgn q := rfl
@[simp] theorem State.modStrg_tile (s : State) (p : PortId) (j : LinkId) (f : Strg → Strg) (u : TileId) : (s.modStrg p j f).tile u = s.tile u := rfl
@[simp] theorem State.modStrg_medium (s : State) (p : PortId) (j : LinkId) (f : Strg → Strg) (u : TileId) : (s.modStrg p j f).medium u = s.medium u := rfl
@[simp] theorem State.modStrg_thmT (s : State) (p : PortId) (j : LinkId) (f : Strg → Strg) (u : TileId) : (s.modStrg p j f).thmT u = s.thmT u := rfl
theorem State.strgL_modStrg (s : State) (p : PortId) (j : LinkId) (f : Strg → Strg) (q : PortId) (k : LinkId) :
    (s.modStrg p j f).strgL q k = if q = p ∧ k = j then f (s.strgL p j) else s.strgL q k := by
  simp only [State.strgL, State.modStrg, Tab.get_upd]
  congr 1
  simp only [Fin.ext_iff, eq_iff_iff]
  omega

/-! ### modSup -/

@[simp] theorem State.modSup_sup (s : State) (f : Sup → Sup) : (s.modSup f).sup = f s.sup := rfl
@[simp] theorem State.modSup_pending (s : State) (f : Sup → Sup) : (s.modSup f).pending = s.pending := rfl
@[simp] theorem State.modSup_part (s : State) (f : Sup → Sup) : (s.modSup f).part = s.part := rfl
@[simp] theorem State.modSup_stepping (s : State) (f : Sup → Sup) : (s.modSup f).stepping = s.stepping := rfl
@[simp] theorem State.modSup_now (s : State) (f : Sup → Sup) : (s.modSup f).now = s.now := rfl
@[simp] theorem State.modSup_free (s : State) (f : Sup → Sup) : (s.modSup f).free = s.free := rfl
@[simp] theorem State.modSup_sf (s : State) (f : Sup → Sup) : (s.modSup f).sf = s.sf := rfl
@[simp] theorem State.modSup_powered (s : State) (f : Sup → Sup) : (s.modSup f).powered = s.powered := rfl
@[simp] theorem State.modSup_held (s : State) (f : Sup → Sup) : (s.modSup f).held = s.held := rfl
@[simp] theorem State.modSup_scratch (s : State) (f : Sup → Sup) : (s.modSup f).scratch = s.scratch := rfl
@[simp] theorem State.modSup_sesCtl (s : State) (f : Sup → Sup) : (s.modSup f).sesCtl = s.sesCtl := rfl
@[simp] theorem State.modSup_sess (s : State) (f : Sup → Sup) : (s.modSup f).sess = s.sess := rfl
@[simp] theorem State.modSup_creds (s : State) (f : Sup → Sup) : (s.modSup f).creds = s.creds := rfl
@[simp] theorem State.modSup_enrQ (s : State) (f : Sup → Sup) : (s.modSup f).enrQ = s.enrQ := rfl
@[simp] theorem State.modSup_strg (s : State) (f : Sup → Sup) : (s.modSup f).strg = s.strg := rfl
@[simp] theorem State.modSup_ports (s : State) (f : Sup → Sup) : (s.modSup f).ports = s.ports := rfl
@[simp] theorem State.modSup_rgns (s : State) (f : Sup → Sup) : (s.modSup f).rgns = s.rgns := rfl
@[simp] theorem State.modSup_dbgDenied (s : State) (f : Sup → Sup) : (s.modSup f).dbgDenied = s.dbgDenied := rfl
@[simp] theorem State.modSup_ldg (s : State) (f : Sup → Sup) : (s.modSup f).ldg = s.ldg := rfl
@[simp] theorem State.modSup_evt (s : State) (f : Sup → Sup) : (s.modSup f).evt = s.evt := rfl
@[simp] theorem State.modSup_tiles (s : State) (f : Sup → Sup) : (s.modSup f).tiles = s.tiles := rfl
@[simp] theorem State.modSup_media (s : State) (f : Sup → Sup) : (s.modSup f).media = s.media := rfl
@[simp] theorem State.modSup_mesh (s : State) (f : Sup → Sup) : (s.modSup f).mesh = s.mesh := rfl
@[simp] theorem State.modSup_thm (s : State) (f : Sup → Sup) : (s.modSup f).thm = s.thm := rfl
@[simp] theorem State.modSup_clk (s : State) (f : Sup → Sup) : (s.modSup f).clk = s.clk := rfl
@[simp] theorem State.modSup_cfg (s : State) (f : Sup → Sup) : (s.modSup f).cfg = s.cfg := rfl
@[simp] theorem State.modSup_boot (s : State) (f : Sup → Sup) : (s.modSup f).boot = s.boot := rfl
@[simp] theorem State.modSup_dbg (s : State) (f : Sup → Sup) : (s.modSup f).dbg = s.dbg := rfl
@[simp] theorem State.modSup_smb (s : State) (f : Sup → Sup) : (s.modSup f).smb = s.smb := rfl
@[simp] theorem State.modSup_cap (s : State) (f : Sup → Sup) : (s.modSup f).cap = s.cap := rfl
@[simp] theorem State.modSup_out (s : State) (f : Sup → Sup) : (s.modSup f).out = s.out := rfl
@[simp] theorem State.modSup_ses (s : State) (f : Sup → Sup) (y : SessId) : (s.modSup f).ses y = s.ses y := rfl
@[simp] theorem State.modSup_cred (s : State) (f : Sup → Sup) (y : SessId) : (s.modSup f).cred y = s.cred y := rfl
@[simp] theorem State.modSup_port (s : State) (f : Sup → Sup) (q : PortId) : (s.modSup f).port q = s.port q := rfl
@[simp] theorem State.modSup_rgn (s : State) (f : Sup → Sup) (q : RegionId) : (s.modSup f).rgn q = s.rgn q := rfl
@[simp] theorem State.modSup_tile (s : State) (f : Sup → Sup) (u : TileId) : (s.modSup f).tile u = s.tile u := rfl
@[simp] theorem State.modSup_medium (s : State) (f : Sup → Sup) (u : TileId) : (s.modSup f).medium u = s.medium u := rfl
@[simp] theorem State.modSup_thmT (s : State) (f : Sup → Sup) (u : TileId) : (s.modSup f).thmT u = s.thmT u := rfl
@[simp] theorem State.modSup_strgL (s : State) (f : Sup → Sup) (q : PortId) (k : LinkId) : (s.modSup f).strgL q k = s.strgL q k := rfl

/-! ### modClk -/

@[simp] theorem State.modClk_clk (s : State) (f : Clk → Clk) : (s.modClk f).clk = f s.clk := rfl
@[simp] theorem State.modClk_pending (s : State) (f : Clk → Clk) : (s.modClk f).pending = s.pending := rfl
@[simp] theorem State.modClk_part (s : State) (f : Clk → Clk) : (s.modClk f).part = s.part := rfl
@[simp] theorem State.modClk_stepping (s : State) (f : Clk → Clk) : (s.modClk f).stepping = s.stepping := rfl
@[simp] theorem State.modClk_now (s : State) (f : Clk → Clk) : (s.modClk f).now = s.now := rfl
@[simp] theorem State.modClk_free (s : State) (f : Clk → Clk) : (s.modClk f).free = s.free := rfl
@[simp] theorem State.modClk_sf (s : State) (f : Clk → Clk) : (s.modClk f).sf = s.sf := rfl
@[simp] theorem State.modClk_powered (s : State) (f : Clk → Clk) : (s.modClk f).powered = s.powered := rfl
@[simp] theorem State.modClk_held (s : State) (f : Clk → Clk) : (s.modClk f).held = s.held := rfl
@[simp] theorem State.modClk_scratch (s : State) (f : Clk → Clk) : (s.modClk f).scratch = s.scratch := rfl
@[simp] theorem State.modClk_sesCtl (s : State) (f : Clk → Clk) : (s.modClk f).sesCtl = s.sesCtl := rfl
@[simp] theorem State.modClk_sess (s : State) (f : Clk → Clk) : (s.modClk f).sess = s.sess := rfl
@[simp] theorem State.modClk_creds (s : State) (f : Clk → Clk) : (s.modClk f).creds = s.creds := rfl
@[simp] theorem State.modClk_enrQ (s : State) (f : Clk → Clk) : (s.modClk f).enrQ = s.enrQ := rfl
@[simp] theorem State.modClk_strg (s : State) (f : Clk → Clk) : (s.modClk f).strg = s.strg := rfl
@[simp] theorem State.modClk_ports (s : State) (f : Clk → Clk) : (s.modClk f).ports = s.ports := rfl
@[simp] theorem State.modClk_rgns (s : State) (f : Clk → Clk) : (s.modClk f).rgns = s.rgns := rfl
@[simp] theorem State.modClk_dbgDenied (s : State) (f : Clk → Clk) : (s.modClk f).dbgDenied = s.dbgDenied := rfl
@[simp] theorem State.modClk_ldg (s : State) (f : Clk → Clk) : (s.modClk f).ldg = s.ldg := rfl
@[simp] theorem State.modClk_evt (s : State) (f : Clk → Clk) : (s.modClk f).evt = s.evt := rfl
@[simp] theorem State.modClk_tiles (s : State) (f : Clk → Clk) : (s.modClk f).tiles = s.tiles := rfl
@[simp] theorem State.modClk_media (s : State) (f : Clk → Clk) : (s.modClk f).media = s.media := rfl
@[simp] theorem State.modClk_mesh (s : State) (f : Clk → Clk) : (s.modClk f).mesh = s.mesh := rfl
@[simp] theorem State.modClk_sup (s : State) (f : Clk → Clk) : (s.modClk f).sup = s.sup := rfl
@[simp] theorem State.modClk_thm (s : State) (f : Clk → Clk) : (s.modClk f).thm = s.thm := rfl
@[simp] theorem State.modClk_cfg (s : State) (f : Clk → Clk) : (s.modClk f).cfg = s.cfg := rfl
@[simp] theorem State.modClk_boot (s : State) (f : Clk → Clk) : (s.modClk f).boot = s.boot := rfl
@[simp] theorem State.modClk_dbg (s : State) (f : Clk → Clk) : (s.modClk f).dbg = s.dbg := rfl
@[simp] theorem State.modClk_smb (s : State) (f : Clk → Clk) : (s.modClk f).smb = s.smb := rfl
@[simp] theorem State.modClk_cap (s : State) (f : Clk → Clk) : (s.modClk f).cap = s.cap := rfl
@[simp] theorem State.modClk_out (s : State) (f : Clk → Clk) : (s.modClk f).out = s.out := rfl
@[simp] theorem State.modClk_ses (s : State) (f : Clk → Clk) (y : SessId) : (s.modClk f).ses y = s.ses y := rfl
@[simp] theorem State.modClk_cred (s : State) (f : Clk → Clk) (y : SessId) : (s.modClk f).cred y = s.cred y := rfl
@[simp] theorem State.modClk_port (s : State) (f : Clk → Clk) (q : PortId) : (s.modClk f).port q = s.port q := rfl
@[simp] theorem State.modClk_rgn (s : State) (f : Clk → Clk) (q : RegionId) : (s.modClk f).rgn q = s.rgn q := rfl
@[simp] theorem State.modClk_tile (s : State) (f : Clk → Clk) (u : TileId) : (s.modClk f).tile u = s.tile u := rfl
@[simp] theorem State.modClk_medium (s : State) (f : Clk → Clk) (u : TileId) : (s.modClk f).medium u = s.medium u := rfl
@[simp] theorem State.modClk_thmT (s : State) (f : Clk → Clk) (u : TileId) : (s.modClk f).thmT u = s.thmT u := rfl
@[simp] theorem State.modClk_strgL (s : State) (f : Clk → Clk) (q : PortId) (k : LinkId) : (s.modClk f).strgL q k = s.strgL q k := rfl

/-! ### modLdg -/

@[simp] theorem State.modLdg_ldg (s : State) (f : Ledger → Ledger) : (s.modLdg f).ldg = f s.ldg := rfl
@[simp] theorem State.modLdg_pending (s : State) (f : Ledger → Ledger) : (s.modLdg f).pending = s.pending := rfl
@[simp] theorem State.modLdg_part (s : State) (f : Ledger → Ledger) : (s.modLdg f).part = s.part := rfl
@[simp] theorem State.modLdg_stepping (s : State) (f : Ledger → Ledger) : (s.modLdg f).stepping = s.stepping := rfl
@[simp] theorem State.modLdg_now (s : State) (f : Ledger → Ledger) : (s.modLdg f).now = s.now := rfl
@[simp] theorem State.modLdg_free (s : State) (f : Ledger → Ledger) : (s.modLdg f).free = s.free := rfl
@[simp] theorem State.modLdg_sf (s : State) (f : Ledger → Ledger) : (s.modLdg f).sf = s.sf := rfl
@[simp] theorem State.modLdg_powered (s : State) (f : Ledger → Ledger) : (s.modLdg f).powered = s.powered := rfl
@[simp] theorem State.modLdg_held (s : State) (f : Ledger → Ledger) : (s.modLdg f).held = s.held := rfl
@[simp] theorem State.modLdg_scratch (s : State) (f : Ledger → Ledger) : (s.modLdg f).scratch = s.scratch := rfl
@[simp] theorem State.modLdg_sesCtl (s : State) (f : Ledger → Ledger) : (s.modLdg f).sesCtl = s.sesCtl := rfl
@[simp] theorem State.modLdg_sess (s : State) (f : Ledger → Ledger) : (s.modLdg f).sess = s.sess := rfl
@[simp] theorem State.modLdg_creds (s : State) (f : Ledger → Ledger) : (s.modLdg f).creds = s.creds := rfl
@[simp] theorem State.modLdg_enrQ (s : State) (f : Ledger → Ledger) : (s.modLdg f).enrQ = s.enrQ := rfl
@[simp] theorem State.modLdg_strg (s : State) (f : Ledger → Ledger) : (s.modLdg f).strg = s.strg := rfl
@[simp] theorem State.modLdg_ports (s : State) (f : Ledger → Ledger) : (s.modLdg f).ports = s.ports := rfl
@[simp] theorem State.modLdg_rgns (s : State) (f : Ledger → Ledger) : (s.modLdg f).rgns = s.rgns := rfl
@[simp] theorem State.modLdg_dbgDenied (s : State) (f : Ledger → Ledger) : (s.modLdg f).dbgDenied = s.dbgDenied := rfl
@[simp] theorem State.modLdg_evt (s : State) (f : Ledger → Ledger) : (s.modLdg f).evt = s.evt := rfl
@[simp] theorem State.modLdg_tiles (s : State) (f : Ledger → Ledger) : (s.modLdg f).tiles = s.tiles := rfl
@[simp] theorem State.modLdg_media (s : State) (f : Ledger → Ledger) : (s.modLdg f).media = s.media := rfl
@[simp] theorem State.modLdg_mesh (s : State) (f : Ledger → Ledger) : (s.modLdg f).mesh = s.mesh := rfl
@[simp] theorem State.modLdg_sup (s : State) (f : Ledger → Ledger) : (s.modLdg f).sup = s.sup := rfl
@[simp] theorem State.modLdg_thm (s : State) (f : Ledger → Ledger) : (s.modLdg f).thm = s.thm := rfl
@[simp] theorem State.modLdg_clk (s : State) (f : Ledger → Ledger) : (s.modLdg f).clk = s.clk := rfl
@[simp] theorem State.modLdg_cfg (s : State) (f : Ledger → Ledger) : (s.modLdg f).cfg = s.cfg := rfl
@[simp] theorem State.modLdg_boot (s : State) (f : Ledger → Ledger) : (s.modLdg f).boot = s.boot := rfl
@[simp] theorem State.modLdg_dbg (s : State) (f : Ledger → Ledger) : (s.modLdg f).dbg = s.dbg := rfl
@[simp] theorem State.modLdg_smb (s : State) (f : Ledger → Ledger) : (s.modLdg f).smb = s.smb := rfl
@[simp] theorem State.modLdg_cap (s : State) (f : Ledger → Ledger) : (s.modLdg f).cap = s.cap := rfl
@[simp] theorem State.modLdg_out (s : State) (f : Ledger → Ledger) : (s.modLdg f).out = s.out := rfl
@[simp] theorem State.modLdg_ses (s : State) (f : Ledger → Ledger) (y : SessId) : (s.modLdg f).ses y = s.ses y := rfl
@[simp] theorem State.modLdg_cred (s : State) (f : Ledger → Ledger) (y : SessId) : (s.modLdg f).cred y = s.cred y := rfl
@[simp] theorem State.modLdg_port (s : State) (f : Ledger → Ledger) (q : PortId) : (s.modLdg f).port q = s.port q := rfl
@[simp] theorem State.modLdg_rgn (s : State) (f : Ledger → Ledger) (q : RegionId) : (s.modLdg f).rgn q = s.rgn q := rfl
@[simp] theorem State.modLdg_tile (s : State) (f : Ledger → Ledger) (u : TileId) : (s.modLdg f).tile u = s.tile u := rfl
@[simp] theorem State.modLdg_medium (s : State) (f : Ledger → Ledger) (u : TileId) : (s.modLdg f).medium u = s.medium u := rfl
@[simp] theorem State.modLdg_thmT (s : State) (f : Ledger → Ledger) (u : TileId) : (s.modLdg f).thmT u = s.thmT u := rfl
@[simp] theorem State.modLdg_strgL (s : State) (f : Ledger → Ledger) (q : PortId) (k : LinkId) : (s.modLdg f).strgL q k = s.strgL q k := rfl

/-! ### modEvt -/

@[simp] theorem State.modEvt_evt (s : State) (f : Evt → Evt) : (s.modEvt f).evt = f s.evt := rfl
@[simp] theorem State.modEvt_pending (s : State) (f : Evt → Evt) : (s.modEvt f).pending = s.pending := rfl
@[simp] theorem State.modEvt_part (s : State) (f : Evt → Evt) : (s.modEvt f).part = s.part := rfl
@[simp] theorem State.modEvt_stepping (s : State) (f : Evt → Evt) : (s.modEvt f).stepping = s.stepping := rfl
@[simp] theorem State.modEvt_now (s : State) (f : Evt → Evt) : (s.modEvt f).now = s.now := rfl
@[simp] theorem State.modEvt_free (s : State) (f : Evt → Evt) : (s.modEvt f).free = s.free := rfl
@[simp] theorem State.modEvt_sf (s : State) (f : Evt → Evt) : (s.modEvt f).sf = s.sf := rfl
@[simp] theorem State.modEvt_powered (s : State) (f : Evt → Evt) : (s.modEvt f).powered = s.powered := rfl
@[simp] theorem State.modEvt_held (s : State) (f : Evt → Evt) : (s.modEvt f).held = s.held := rfl
@[simp] theorem State.modEvt_scratch (s : State) (f : Evt → Evt) : (s.modEvt f).scratch = s.scratch := rfl
@[simp] theorem State.modEvt_sesCtl (s : State) (f : Evt → Evt) : (s.modEvt f).sesCtl = s.sesCtl := rfl
@[simp] theorem State.modEvt_sess (s : State) (f : Evt → Evt) : (s.modEvt f).sess = s.sess := rfl
@[simp] theorem State.modEvt_creds (s : State) (f : Evt → Evt) : (s.modEvt f).creds = s.creds := rfl
@[simp] theorem State.modEvt_enrQ (s : State) (f : Evt → Evt) : (s.modEvt f).enrQ = s.enrQ := rfl
@[simp] theorem State.modEvt_strg (s : State) (f : Evt → Evt) : (s.modEvt f).strg = s.strg := rfl
@[simp] theorem State.modEvt_ports (s : State) (f : Evt → Evt) : (s.modEvt f).ports = s.ports := rfl
@[simp] theorem State.modEvt_rgns (s : State) (f : Evt → Evt) : (s.modEvt f).rgns = s.rgns := rfl
@[simp] theorem State.modEvt_dbgDenied (s : State) (f : Evt → Evt) : (s.modEvt f).dbgDenied = s.dbgDenied := rfl
@[simp] theorem State.modEvt_ldg (s : State) (f : Evt → Evt) : (s.modEvt f).ldg = s.ldg := rfl
@[simp] theorem State.modEvt_tiles (s : State) (f : Evt → Evt) : (s.modEvt f).tiles = s.tiles := rfl
@[simp] theorem State.modEvt_media (s : State) (f : Evt → Evt) : (s.modEvt f).media = s.media := rfl
@[simp] theorem State.modEvt_mesh (s : State) (f : Evt → Evt) : (s.modEvt f).mesh = s.mesh := rfl
@[simp] theorem State.modEvt_sup (s : State) (f : Evt → Evt) : (s.modEvt f).sup = s.sup := rfl
@[simp] theorem State.modEvt_thm (s : State) (f : Evt → Evt) : (s.modEvt f).thm = s.thm := rfl
@[simp] theorem State.modEvt_clk (s : State) (f : Evt → Evt) : (s.modEvt f).clk = s.clk := rfl
@[simp] theorem State.modEvt_cfg (s : State) (f : Evt → Evt) : (s.modEvt f).cfg = s.cfg := rfl
@[simp] theorem State.modEvt_boot (s : State) (f : Evt → Evt) : (s.modEvt f).boot = s.boot := rfl
@[simp] theorem State.modEvt_dbg (s : State) (f : Evt → Evt) : (s.modEvt f).dbg = s.dbg := rfl
@[simp] theorem State.modEvt_smb (s : State) (f : Evt → Evt) : (s.modEvt f).smb = s.smb := rfl
@[simp] theorem State.modEvt_cap (s : State) (f : Evt → Evt) : (s.modEvt f).cap = s.cap := rfl
@[simp] theorem State.modEvt_out (s : State) (f : Evt → Evt) : (s.modEvt f).out = s.out := rfl
@[simp] theorem State.modEvt_ses (s : State) (f : Evt → Evt) (y : SessId) : (s.modEvt f).ses y = s.ses y := rfl
@[simp] theorem State.modEvt_cred (s : State) (f : Evt → Evt) (y : SessId) : (s.modEvt f).cred y = s.cred y := rfl
@[simp] theorem State.modEvt_port (s : State) (f : Evt → Evt) (q : PortId) : (s.modEvt f).port q = s.port q := rfl
@[simp] theorem State.modEvt_rgn (s : State) (f : Evt → Evt) (q : RegionId) : (s.modEvt f).rgn q = s.rgn q := rfl
@[simp] theorem State.modEvt_tile (s : State) (f : Evt → Evt) (u : TileId) : (s.modEvt f).tile u = s.tile u := rfl
@[simp] theorem State.modEvt_medium (s : State) (f : Evt → Evt) (u : TileId) : (s.modEvt f).medium u = s.medium u := rfl
@[simp] theorem State.modEvt_thmT (s : State) (f : Evt → Evt) (u : TileId) : (s.modEvt f).thmT u = s.thmT u := rfl
@[simp] theorem State.modEvt_strgL (s : State) (f : Evt → Evt) (q : PortId) (k : LinkId) : (s.modEvt f).strgL q k = s.strgL q k := rfl

/-! ### modCtl -/

@[simp] theorem State.modCtl_pending (s : State) (t : TileId) (f : Tctl → Tctl) : (s.modCtl t f).pending = s.pending := rfl
@[simp] theorem State.modCtl_part (s : State) (t : TileId) (f : Tctl → Tctl) : (s.modCtl t f).part = s.part := rfl
@[simp] theorem State.modCtl_stepping (s : State) (t : TileId) (f : Tctl → Tctl) : (s.modCtl t f).stepping = s.stepping := rfl
@[simp] theorem State.modCtl_now (s : State) (t : TileId) (f : Tctl → Tctl) : (s.modCtl t f).now = s.now := rfl
@[simp] theorem State.modCtl_free (s : State) (t : TileId) (f : Tctl → Tctl) : (s.modCtl t f).free = s.free := rfl
@[simp] theorem State.modCtl_sf (s : State) (t : TileId) (f : Tctl → Tctl) : (s.modCtl t f).sf = s.sf := rfl
@[simp] theorem State.modCtl_powered (s : State) (t : TileId) (f : Tctl → Tctl) : (s.modCtl t f).powered = s.powered := rfl
@[simp] theorem State.modCtl_held (s : State) (t : TileId) (f : Tctl → Tctl) : (s.modCtl t f).held = s.held := rfl
@[simp] theorem State.modCtl_scratch (s : State) (t : TileId) (f : Tctl → Tctl) : (s.modCtl t f).scratch = s.scratch := rfl
@[simp] theorem State.modCtl_sesCtl (s : State) (t : TileId) (f : Tctl → Tctl) : (s.modCtl t f).sesCtl = s.sesCtl := rfl
@[simp] theorem State.modCtl_sess (s : State) (t : TileId) (f : Tctl → Tctl) : (s.modCtl t f).sess = s.sess := rfl
@[simp] theorem State.modCtl_creds (s : State) (t : TileId) (f : Tctl → Tctl) : (s.modCtl t f).creds = s.creds := rfl
@[simp] theorem State.modCtl_enrQ (s : State) (t : TileId) (f : Tctl → Tctl) : (s.modCtl t f).enrQ = s.enrQ := rfl
@[simp] theorem State.modCtl_strg (s : State) (t : TileId) (f : Tctl → Tctl) : (s.modCtl t f).strg = s.strg := rfl
@[simp] theorem State.modCtl_ports (s : State) (t : TileId) (f : Tctl → Tctl) : (s.modCtl t f).ports = s.ports := rfl
@[simp] theorem State.modCtl_rgns (s : State) (t : TileId) (f : Tctl → Tctl) : (s.modCtl t f).rgns = s.rgns := rfl
@[simp] theorem State.modCtl_dbgDenied (s : State) (t : TileId) (f : Tctl → Tctl) : (s.modCtl t f).dbgDenied = s.dbgDenied := rfl
@[simp] theorem State.modCtl_ldg (s : State) (t : TileId) (f : Tctl → Tctl) : (s.modCtl t f).ldg = s.ldg := rfl
@[simp] theorem State.modCtl_evt (s : State) (t : TileId) (f : Tctl → Tctl) : (s.modCtl t f).evt = s.evt := rfl
@[simp] theorem State.modCtl_media (s : State) (t : TileId) (f : Tctl → Tctl) : (s.modCtl t f).media = s.media := rfl
@[simp] theorem State.modCtl_mesh (s : State) (t : TileId) (f : Tctl → Tctl) : (s.modCtl t f).mesh = s.mesh := rfl
@[simp] theorem State.modCtl_sup (s : State) (t : TileId) (f : Tctl → Tctl) : (s.modCtl t f).sup = s.sup := rfl
@[simp] theorem State.modCtl_thm (s : State) (t : TileId) (f : Tctl → Tctl) : (s.modCtl t f).thm = s.thm := rfl
@[simp] theorem State.modCtl_clk (s : State) (t : TileId) (f : Tctl → Tctl) : (s.modCtl t f).clk = s.clk := rfl
@[simp] theorem State.modCtl_cfg (s : State) (t : TileId) (f : Tctl → Tctl) : (s.modCtl t f).cfg = s.cfg := rfl
@[simp] theorem State.modCtl_boot (s : State) (t : TileId) (f : Tctl → Tctl) : (s.modCtl t f).boot = s.boot := rfl
@[simp] theorem State.modCtl_dbg (s : State) (t : TileId) (f : Tctl → Tctl) : (s.modCtl t f).dbg = s.dbg := rfl
@[simp] theorem State.modCtl_smb (s : State) (t : TileId) (f : Tctl → Tctl) : (s.modCtl t f).smb = s.smb := rfl
@[simp] theorem State.modCtl_cap (s : State) (t : TileId) (f : Tctl → Tctl) : (s.modCtl t f).cap = s.cap := rfl
@[simp] theorem State.modCtl_out (s : State) (t : TileId) (f : Tctl → Tctl) : (s.modCtl t f).out = s.out := rfl
@[simp] theorem State.modCtl_ses (s : State) (t : TileId) (f : Tctl → Tctl) (y : SessId) : (s.modCtl t f).ses y = s.ses y := rfl
@[simp] theorem State.modCtl_cred (s : State) (t : TileId) (f : Tctl → Tctl) (y : SessId) : (s.modCtl t f).cred y = s.cred y := rfl
@[simp] theorem State.modCtl_port (s : State) (t : TileId) (f : Tctl → Tctl) (q : PortId) : (s.modCtl t f).port q = s.port q := rfl
@[simp] theorem State.modCtl_rgn (s : State) (t : TileId) (f : Tctl → Tctl) (q : RegionId) : (s.modCtl t f).rgn q = s.rgn q := rfl
@[simp] theorem State.modCtl_medium (s : State) (t : TileId) (f : Tctl → Tctl) (u : TileId) : (s.modCtl t f).medium u = s.medium u := rfl
@[simp] theorem State.modCtl_thmT (s : State) (t : TileId) (f : Tctl → Tctl) (u : TileId) : (s.modCtl t f).thmT u = s.thmT u := rfl
@[simp] theorem State.modCtl_strgL (s : State) (t : TileId) (f : Tctl → Tctl) (q : PortId) (k : LinkId) : (s.modCtl t f).strgL q k = s.strgL q k := rfl
@[simp] theorem State.tile_modCtl (s : State) (t : TileId) (f : Tctl → Tctl) (u : TileId) :
    (s.modCtl t f).tile u = if u = t then { s.tile t with ctl := f (s.tile t).ctl } else s.tile u := by
  simp only [State.modCtl, State.tile_modTile]

/-! ### modAdm -/

@[simp] theorem State.modAdm_pending (s : State) (t : TileId) (f : Adm → Adm) : (s.modAdm t f).pending = s.pending := rfl
@[simp] theorem State.modAdm_part (s : State) (t : TileId) (f : Adm → Adm) : (s.modAdm t f).part = s.part := rfl
@[simp] theorem State.modAdm_stepping (s : State) (t : TileId) (f : Adm → Adm) : (s.modAdm t f).stepping = s.stepping := rfl
@[simp] theorem State.modAdm_now (s : State) (t : TileId) (f : Adm → Adm) : (s.modAdm t f).now = s.now := rfl
@[simp] theorem State.modAdm_free (s : State) (t : TileId) (f : Adm → Adm) : (s.modAdm t f).free = s.free := rfl
@[simp] theorem State.modAdm_sf (s : State) (t : TileId) (f : Adm → Adm) : (s.modAdm t f).sf = s.sf := rfl
@[simp] theorem State.modAdm_powered (s : State) (t : TileId) (f : Adm → Adm) : (s.modAdm t f).powered = s.powered := rfl
@[simp] theorem State.modAdm_held (s : State) (t : TileId) (f : Adm → Adm) : (s.modAdm t f).held = s.held := rfl
@[simp] theorem State.modAdm_scratch (s : State) (t : TileId) (f : Adm → Adm) : (s.modAdm t f).scratch = s.scratch := rfl
@[simp] theorem State.modAdm_sesCtl (s : State) (t : TileId) (f : Adm → Adm) : (s.modAdm t f).sesCtl = s.sesCtl := rfl
@[simp] theorem State.modAdm_sess (s : State) (t : TileId) (f : Adm → Adm) : (s.modAdm t f).sess = s.sess := rfl
@[simp] theorem State.modAdm_creds (s : State) (t : TileId) (f : Adm → Adm) : (s.modAdm t f).creds = s.creds := rfl
@[simp] theorem State.modAdm_enrQ (s : State) (t : TileId) (f : Adm → Adm) : (s.modAdm t f).enrQ = s.enrQ := rfl
@[simp] theorem State.modAdm_strg (s : State) (t : TileId) (f : Adm → Adm) : (s.modAdm t f).strg = s.strg := rfl
@[simp] theorem State.modAdm_ports (s : State) (t : TileId) (f : Adm → Adm) : (s.modAdm t f).ports = s.ports := rfl
@[simp] theorem State.modAdm_rgns (s : State) (t : TileId) (f : Adm → Adm) : (s.modAdm t f).rgns = s.rgns := rfl
@[simp] theorem State.modAdm_dbgDenied (s : State) (t : TileId) (f : Adm → Adm) : (s.modAdm t f).dbgDenied = s.dbgDenied := rfl
@[simp] theorem State.modAdm_ldg (s : State) (t : TileId) (f : Adm → Adm) : (s.modAdm t f).ldg = s.ldg := rfl
@[simp] theorem State.modAdm_evt (s : State) (t : TileId) (f : Adm → Adm) : (s.modAdm t f).evt = s.evt := rfl
@[simp] theorem State.modAdm_media (s : State) (t : TileId) (f : Adm → Adm) : (s.modAdm t f).media = s.media := rfl
@[simp] theorem State.modAdm_mesh (s : State) (t : TileId) (f : Adm → Adm) : (s.modAdm t f).mesh = s.mesh := rfl
@[simp] theorem State.modAdm_sup (s : State) (t : TileId) (f : Adm → Adm) : (s.modAdm t f).sup = s.sup := rfl
@[simp] theorem State.modAdm_thm (s : State) (t : TileId) (f : Adm → Adm) : (s.modAdm t f).thm = s.thm := rfl
@[simp] theorem State.modAdm_clk (s : State) (t : TileId) (f : Adm → Adm) : (s.modAdm t f).clk = s.clk := rfl
@[simp] theorem State.modAdm_cfg (s : State) (t : TileId) (f : Adm → Adm) : (s.modAdm t f).cfg = s.cfg := rfl
@[simp] theorem State.modAdm_boot (s : State) (t : TileId) (f : Adm → Adm) : (s.modAdm t f).boot = s.boot := rfl
@[simp] theorem State.modAdm_dbg (s : State) (t : TileId) (f : Adm → Adm) : (s.modAdm t f).dbg = s.dbg := rfl
@[simp] theorem State.modAdm_smb (s : State) (t : TileId) (f : Adm → Adm) : (s.modAdm t f).smb = s.smb := rfl
@[simp] theorem State.modAdm_cap (s : State) (t : TileId) (f : Adm → Adm) : (s.modAdm t f).cap = s.cap := rfl
@[simp] theorem State.modAdm_out (s : State) (t : TileId) (f : Adm → Adm) : (s.modAdm t f).out = s.out := rfl
@[simp] theorem State.modAdm_ses (s : State) (t : TileId) (f : Adm → Adm) (y : SessId) : (s.modAdm t f).ses y = s.ses y := rfl
@[simp] theorem State.modAdm_cred (s : State) (t : TileId) (f : Adm → Adm) (y : SessId) : (s.modAdm t f).cred y = s.cred y := rfl
@[simp] theorem State.modAdm_port (s : State) (t : TileId) (f : Adm → Adm) (q : PortId) : (s.modAdm t f).port q = s.port q := rfl
@[simp] theorem State.modAdm_rgn (s : State) (t : TileId) (f : Adm → Adm) (q : RegionId) : (s.modAdm t f).rgn q = s.rgn q := rfl
@[simp] theorem State.modAdm_medium (s : State) (t : TileId) (f : Adm → Adm) (u : TileId) : (s.modAdm t f).medium u = s.medium u := rfl
@[simp] theorem State.modAdm_thmT (s : State) (t : TileId) (f : Adm → Adm) (u : TileId) : (s.modAdm t f).thmT u = s.thmT u := rfl
@[simp] theorem State.modAdm_strgL (s : State) (t : TileId) (f : Adm → Adm) (q : PortId) (k : LinkId) : (s.modAdm t f).strgL q k = s.strgL q k := rfl
@[simp] theorem State.tile_modAdm (s : State) (t : TileId) (f : Adm → Adm) (u : TileId) :
    (s.modAdm t f).tile u = if u = t then { s.tile t with adm := f (s.tile t).adm } else s.tile u := by
  simp only [State.modAdm, State.tile_modTile]

/-! ### modXlt -/

@[simp] theorem State.modXlt_pending (s : State) (t : TileId) (f : Xlt → Xlt) : (s.modXlt t f).pending = s.pending := rfl
@[simp] theorem State.modXlt_part (s : State) (t : TileId) (f : Xlt → Xlt) : (s.modXlt t f).part = s.part := rfl
@[simp] theorem State.modXlt_stepping (s : State) (t : TileId) (f : Xlt → Xlt) : (s.modXlt t f).stepping = s.stepping := rfl
@[simp] theorem State.modXlt_now (s : State) (t : TileId) (f : Xlt → Xlt) : (s.modXlt t f).now = s.now := rfl
@[simp] theorem State.modXlt_free (s : State) (t : TileId) (f : Xlt → Xlt) : (s.modXlt t f).free = s.free := rfl
@[simp] theorem State.modXlt_sf (s : State) (t : TileId) (f : Xlt → Xlt) : (s.modXlt t f).sf = s.sf := rfl
@[simp] theorem State.modXlt_powered (s : State) (t : TileId) (f : Xlt → Xlt) : (s.modXlt t f).powered = s.powered := rfl
@[simp] theorem State.modXlt_held (s : State) (t : TileId) (f : Xlt → Xlt) : (s.modXlt t f).held = s.held := rfl
@[simp] theorem State.modXlt_scratch (s : State) (t : TileId) (f : Xlt → Xlt) : (s.modXlt t f).scratch = s.scratch := rfl
@[simp] theorem State.modXlt_sesCtl (s : State) (t : TileId) (f : Xlt → Xlt) : (s.modXlt t f).sesCtl = s.sesCtl := rfl
@[simp] theorem State.modXlt_sess (s : State) (t : TileId) (f : Xlt → Xlt) : (s.modXlt t f).sess = s.sess := rfl
@[simp] theorem State.modXlt_creds (s : State) (t : TileId) (f : Xlt → Xlt) : (s.modXlt t f).creds = s.creds := rfl
@[simp] theorem State.modXlt_enrQ (s : State) (t : TileId) (f : Xlt → Xlt) : (s.modXlt t f).enrQ = s.enrQ := rfl
@[simp] theorem State.modXlt_strg (s : State) (t : TileId) (f : Xlt → Xlt) : (s.modXlt t f).strg = s.strg := rfl
@[simp] theorem State.modXlt_ports (s : State) (t : TileId) (f : Xlt → Xlt) : (s.modXlt t f).ports = s.ports := rfl
@[simp] theorem State.modXlt_rgns (s : State) (t : TileId) (f : Xlt → Xlt) : (s.modXlt t f).rgns = s.rgns := rfl
@[simp] theorem State.modXlt_dbgDenied (s : State) (t : TileId) (f : Xlt → Xlt) : (s.modXlt t f).dbgDenied = s.dbgDenied := rfl
@[simp] theorem State.modXlt_ldg (s : State) (t : TileId) (f : Xlt → Xlt) : (s.modXlt t f).ldg = s.ldg := rfl
@[simp] theorem State.modXlt_evt (s : State) (t : TileId) (f : Xlt → Xlt) : (s.modXlt t f).evt = s.evt := rfl
@[simp] theorem State.modXlt_media (s : State) (t : TileId) (f : Xlt → Xlt) : (s.modXlt t f).media = s.media := rfl
@[simp] theorem State.modXlt_mesh (s : State) (t : TileId) (f : Xlt → Xlt) : (s.modXlt t f).mesh = s.mesh := rfl
@[simp] theorem State.modXlt_sup (s : State) (t : TileId) (f : Xlt → Xlt) : (s.modXlt t f).sup = s.sup := rfl
@[simp] theorem State.modXlt_thm (s : State) (t : TileId) (f : Xlt → Xlt) : (s.modXlt t f).thm = s.thm := rfl
@[simp] theorem State.modXlt_clk (s : State) (t : TileId) (f : Xlt → Xlt) : (s.modXlt t f).clk = s.clk := rfl
@[simp] theorem State.modXlt_cfg (s : State) (t : TileId) (f : Xlt → Xlt) : (s.modXlt t f).cfg = s.cfg := rfl
@[simp] theorem State.modXlt_boot (s : State) (t : TileId) (f : Xlt → Xlt) : (s.modXlt t f).boot = s.boot := rfl
@[simp] theorem State.modXlt_dbg (s : State) (t : TileId) (f : Xlt → Xlt) : (s.modXlt t f).dbg = s.dbg := rfl
@[simp] theorem State.modXlt_smb (s : State) (t : TileId) (f : Xlt → Xlt) : (s.modXlt t f).smb = s.smb := rfl
@[simp] theorem State.modXlt_cap (s : State) (t : TileId) (f : Xlt → Xlt) : (s.modXlt t f).cap = s.cap := rfl
@[simp] theorem State.modXlt_out (s : State) (t : TileId) (f : Xlt → Xlt) : (s.modXlt t f).out = s.out := rfl
@[simp] theorem State.modXlt_ses (s : State) (t : TileId) (f : Xlt → Xlt) (y : SessId) : (s.modXlt t f).ses y = s.ses y := rfl
@[simp] theorem State.modXlt_cred (s : State) (t : TileId) (f : Xlt → Xlt) (y : SessId) : (s.modXlt t f).cred y = s.cred y := rfl
@[simp] theorem State.modXlt_port (s : State) (t : TileId) (f : Xlt → Xlt) (q : PortId) : (s.modXlt t f).port q = s.port q := rfl
@[simp] theorem State.modXlt_rgn (s : State) (t : TileId) (f : Xlt → Xlt) (q : RegionId) : (s.modXlt t f).rgn q = s.rgn q := rfl
@[simp] theorem State.modXlt_medium (s : State) (t : TileId) (f : Xlt → Xlt) (u : TileId) : (s.modXlt t f).medium u = s.medium u := rfl
@[simp] theorem State.modXlt_thmT (s : State) (t : TileId) (f : Xlt → Xlt) (u : TileId) : (s.modXlt t f).thmT u = s.thmT u := rfl
@[simp] theorem State.modXlt_strgL (s : State) (t : TileId) (f : Xlt → Xlt) (q : PortId) (k : LinkId) : (s.modXlt t f).strgL q k = s.strgL q k := rfl
@[simp] theorem State.tile_modXlt (s : State) (t : TileId) (f : Xlt → Xlt) (u : TileId) :
    (s.modXlt t f).tile u = if u = t then { s.tile t with xlt := f (s.tile t).xlt } else s.tile u := by
  simp only [State.modXlt, State.tile_modTile]

/-! ### modMed -/

@[simp] theorem State.modMed_pending (s : State) (t : TileId) (f : Med → Med) : (s.modMed t f).pending = s.pending := rfl
@[simp] theorem State.modMed_part (s : State) (t : TileId) (f : Med → Med) : (s.modMed t f).part = s.part := rfl
@[simp] theorem State.modMed_stepping (s : State) (t : TileId) (f : Med → Med) : (s.modMed t f).stepping = s.stepping := rfl
@[simp] theorem State.modMed_now (s : State) (t : TileId) (f : Med → Med) : (s.modMed t f).now = s.now := rfl
@[simp] theorem State.modMed_free (s : State) (t : TileId) (f : Med → Med) : (s.modMed t f).free = s.free := rfl
@[simp] theorem State.modMed_sf (s : State) (t : TileId) (f : Med → Med) : (s.modMed t f).sf = s.sf := rfl
@[simp] theorem State.modMed_powered (s : State) (t : TileId) (f : Med → Med) : (s.modMed t f).powered = s.powered := rfl
@[simp] theorem State.modMed_held (s : State) (t : TileId) (f : Med → Med) : (s.modMed t f).held = s.held := rfl
@[simp] theorem State.modMed_scratch (s : State) (t : TileId) (f : Med → Med) : (s.modMed t f).scratch = s.scratch := rfl
@[simp] theorem State.modMed_sesCtl (s : State) (t : TileId) (f : Med → Med) : (s.modMed t f).sesCtl = s.sesCtl := rfl
@[simp] theorem State.modMed_sess (s : State) (t : TileId) (f : Med → Med) : (s.modMed t f).sess = s.sess := rfl
@[simp] theorem State.modMed_creds (s : State) (t : TileId) (f : Med → Med) : (s.modMed t f).creds = s.creds := rfl
@[simp] theorem State.modMed_enrQ (s : State) (t : TileId) (f : Med → Med) : (s.modMed t f).enrQ = s.enrQ := rfl
@[simp] theorem State.modMed_strg (s : State) (t : TileId) (f : Med → Med) : (s.modMed t f).strg = s.strg := rfl
@[simp] theorem State.modMed_ports (s : State) (t : TileId) (f : Med → Med) : (s.modMed t f).ports = s.ports := rfl
@[simp] theorem State.modMed_rgns (s : State) (t : TileId) (f : Med → Med) : (s.modMed t f).rgns = s.rgns := rfl
@[simp] theorem State.modMed_dbgDenied (s : State) (t : TileId) (f : Med → Med) : (s.modMed t f).dbgDenied = s.dbgDenied := rfl
@[simp] theorem State.modMed_ldg (s : State) (t : TileId) (f : Med → Med) : (s.modMed t f).ldg = s.ldg := rfl
@[simp] theorem State.modMed_evt (s : State) (t : TileId) (f : Med → Med) : (s.modMed t f).evt = s.evt := rfl
@[simp] theorem State.modMed_media (s : State) (t : TileId) (f : Med → Med) : (s.modMed t f).media = s.media := rfl
@[simp] theorem State.modMed_mesh (s : State) (t : TileId) (f : Med → Med) : (s.modMed t f).mesh = s.mesh := rfl
@[simp] theorem State.modMed_sup (s : State) (t : TileId) (f : Med → Med) : (s.modMed t f).sup = s.sup := rfl
@[simp] theorem State.modMed_thm (s : State) (t : TileId) (f : Med → Med) : (s.modMed t f).thm = s.thm := rfl
@[simp] theorem State.modMed_clk (s : State) (t : TileId) (f : Med → Med) : (s.modMed t f).clk = s.clk := rfl
@[simp] theorem State.modMed_cfg (s : State) (t : TileId) (f : Med → Med) : (s.modMed t f).cfg = s.cfg := rfl
@[simp] theorem State.modMed_boot (s : State) (t : TileId) (f : Med → Med) : (s.modMed t f).boot = s.boot := rfl
@[simp] theorem State.modMed_dbg (s : State) (t : TileId) (f : Med → Med) : (s.modMed t f).dbg = s.dbg := rfl
@[simp] theorem State.modMed_smb (s : State) (t : TileId) (f : Med → Med) : (s.modMed t f).smb = s.smb := rfl
@[simp] theorem State.modMed_cap (s : State) (t : TileId) (f : Med → Med) : (s.modMed t f).cap = s.cap := rfl
@[simp] theorem State.modMed_out (s : State) (t : TileId) (f : Med → Med) : (s.modMed t f).out = s.out := rfl
@[simp] theorem State.modMed_ses (s : State) (t : TileId) (f : Med → Med) (y : SessId) : (s.modMed t f).ses y = s.ses y := rfl
@[simp] theorem State.modMed_cred (s : State) (t : TileId) (f : Med → Med) (y : SessId) : (s.modMed t f).cred y = s.cred y := rfl
@[simp] theorem State.modMed_port (s : State) (t : TileId) (f : Med → Med) (q : PortId) : (s.modMed t f).port q = s.port q := rfl
@[simp] theorem State.modMed_rgn (s : State) (t : TileId) (f : Med → Med) (q : RegionId) : (s.modMed t f).rgn q = s.rgn q := rfl
@[simp] theorem State.modMed_medium (s : State) (t : TileId) (f : Med → Med) (u : TileId) : (s.modMed t f).medium u = s.medium u := rfl
@[simp] theorem State.modMed_thmT (s : State) (t : TileId) (f : Med → Med) (u : TileId) : (s.modMed t f).thmT u = s.thmT u := rfl
@[simp] theorem State.modMed_strgL (s : State) (t : TileId) (f : Med → Med) (q : PortId) (k : LinkId) : (s.modMed t f).strgL q k = s.strgL q k := rfl
@[simp] theorem State.tile_modMed (s : State) (t : TileId) (f : Med → Med) (u : TileId) :
    (s.modMed t f).tile u = if u = t then { s.tile t with med := f (s.tile t).med } else s.tile u := by
  simp only [State.modMed, State.tile_modTile]

/-! ### modSch -/

@[simp] theorem State.modSch_pending (s : State) (t : TileId) (f : Sch → Sch) : (s.modSch t f).pending = s.pending := rfl
@[simp] theorem State.modSch_part (s : State) (t : TileId) (f : Sch → Sch) : (s.modSch t f).part = s.part := rfl
@[simp] theorem State.modSch_stepping (s : State) (t : TileId) (f : Sch → Sch) : (s.modSch t f).stepping = s.stepping := rfl
@[simp] theorem State.modSch_now (s : State) (t : TileId) (f : Sch → Sch) : (s.modSch t f).now = s.now := rfl
@[simp] theorem State.modSch_free (s : State) (t : TileId) (f : Sch → Sch) : (s.modSch t f).free = s.free := rfl
@[simp] theorem State.modSch_sf (s : State) (t : TileId) (f : Sch → Sch) : (s.modSch t f).sf = s.sf := rfl
@[simp] theorem State.modSch_powered (s : State) (t : TileId) (f : Sch → Sch) : (s.modSch t f).powered = s.powered := rfl
@[simp] theorem State.modSch_held (s : State) (t : TileId) (f : Sch → Sch) : (s.modSch t f).held = s.held := rfl
@[simp] theorem State.modSch_scratch (s : State) (t : TileId) (f : Sch → Sch) : (s.modSch t f).scratch = s.scratch := rfl
@[simp] theorem State.modSch_sesCtl (s : State) (t : TileId) (f : Sch → Sch) : (s.modSch t f).sesCtl = s.sesCtl := rfl
@[simp] theorem State.modSch_sess (s : State) (t : TileId) (f : Sch → Sch) : (s.modSch t f).sess = s.sess := rfl
@[simp] theorem State.modSch_creds (s : State) (t : TileId) (f : Sch → Sch) : (s.modSch t f).creds = s.creds := rfl
@[simp] theorem State.modSch_enrQ (s : State) (t : TileId) (f : Sch → Sch) : (s.modSch t f).enrQ = s.enrQ := rfl
@[simp] theorem State.modSch_strg (s : State) (t : TileId) (f : Sch → Sch) : (s.modSch t f).strg = s.strg := rfl
@[simp] theorem State.modSch_ports (s : State) (t : TileId) (f : Sch → Sch) : (s.modSch t f).ports = s.ports := rfl
@[simp] theorem State.modSch_rgns (s : State) (t : TileId) (f : Sch → Sch) : (s.modSch t f).rgns = s.rgns := rfl
@[simp] theorem State.modSch_dbgDenied (s : State) (t : TileId) (f : Sch → Sch) : (s.modSch t f).dbgDenied = s.dbgDenied := rfl
@[simp] theorem State.modSch_ldg (s : State) (t : TileId) (f : Sch → Sch) : (s.modSch t f).ldg = s.ldg := rfl
@[simp] theorem State.modSch_evt (s : State) (t : TileId) (f : Sch → Sch) : (s.modSch t f).evt = s.evt := rfl
@[simp] theorem State.modSch_media (s : State) (t : TileId) (f : Sch → Sch) : (s.modSch t f).media = s.media := rfl
@[simp] theorem State.modSch_mesh (s : State) (t : TileId) (f : Sch → Sch) : (s.modSch t f).mesh = s.mesh := rfl
@[simp] theorem State.modSch_sup (s : State) (t : TileId) (f : Sch → Sch) : (s.modSch t f).sup = s.sup := rfl
@[simp] theorem State.modSch_thm (s : State) (t : TileId) (f : Sch → Sch) : (s.modSch t f).thm = s.thm := rfl
@[simp] theorem State.modSch_clk (s : State) (t : TileId) (f : Sch → Sch) : (s.modSch t f).clk = s.clk := rfl
@[simp] theorem State.modSch_cfg (s : State) (t : TileId) (f : Sch → Sch) : (s.modSch t f).cfg = s.cfg := rfl
@[simp] theorem State.modSch_boot (s : State) (t : TileId) (f : Sch → Sch) : (s.modSch t f).boot = s.boot := rfl
@[simp] theorem State.modSch_dbg (s : State) (t : TileId) (f : Sch → Sch) : (s.modSch t f).dbg = s.dbg := rfl
@[simp] theorem State.modSch_smb (s : State) (t : TileId) (f : Sch → Sch) : (s.modSch t f).smb = s.smb := rfl
@[simp] theorem State.modSch_cap (s : State) (t : TileId) (f : Sch → Sch) : (s.modSch t f).cap = s.cap := rfl
@[simp] theorem State.modSch_out (s : State) (t : TileId) (f : Sch → Sch) : (s.modSch t f).out = s.out := rfl
@[simp] theorem State.modSch_ses (s : State) (t : TileId) (f : Sch → Sch) (y : SessId) : (s.modSch t f).ses y = s.ses y := rfl
@[simp] theorem State.modSch_cred (s : State) (t : TileId) (f : Sch → Sch) (y : SessId) : (s.modSch t f).cred y = s.cred y := rfl
@[simp] theorem State.modSch_port (s : State) (t : TileId) (f : Sch → Sch) (q : PortId) : (s.modSch t f).port q = s.port q := rfl
@[simp] theorem State.modSch_rgn (s : State) (t : TileId) (f : Sch → Sch) (q : RegionId) : (s.modSch t f).rgn q = s.rgn q := rfl
@[simp] theorem State.modSch_medium (s : State) (t : TileId) (f : Sch → Sch) (u : TileId) : (s.modSch t f).medium u = s.medium u := rfl
@[simp] theorem State.modSch_thmT (s : State) (t : TileId) (f : Sch → Sch) (u : TileId) : (s.modSch t f).thmT u = s.thmT u := rfl
@[simp] theorem State.modSch_strgL (s : State) (t : TileId) (f : Sch → Sch) (q : PortId) (k : LinkId) : (s.modSch t f).strgL q k = s.strgL q k := rfl
@[simp] theorem State.tile_modSch (s : State) (t : TileId) (f : Sch → Sch) (u : TileId) :
    (s.modSch t f).tile u = if u = t then { s.tile t with sch := f (s.tile t).sch } else s.tile u := by
  simp only [State.modSch, State.tile_modTile]

/-! ### modSec -/

@[simp] theorem State.modSec_pending (s : State) (t : TileId) (f : Sec → Sec) : (s.modSec t f).pending = s.pending := rfl
@[simp] theorem State.modSec_part (s : State) (t : TileId) (f : Sec → Sec) : (s.modSec t f).part = s.part := rfl
@[simp] theorem State.modSec_stepping (s : State) (t : TileId) (f : Sec → Sec) : (s.modSec t f).stepping = s.stepping := rfl
@[simp] theorem State.modSec_now (s : State) (t : TileId) (f : Sec → Sec) : (s.modSec t f).now = s.now := rfl
@[simp] theorem State.modSec_free (s : State) (t : TileId) (f : Sec → Sec) : (s.modSec t f).free = s.free := rfl
@[simp] theorem State.modSec_sf (s : State) (t : TileId) (f : Sec → Sec) : (s.modSec t f).sf = s.sf := rfl
@[simp] theorem State.modSec_powered (s : State) (t : TileId) (f : Sec → Sec) : (s.modSec t f).powered = s.powered := rfl
@[simp] theorem State.modSec_held (s : State) (t : TileId) (f : Sec → Sec) : (s.modSec t f).held = s.held := rfl
@[simp] theorem State.modSec_scratch (s : State) (t : TileId) (f : Sec → Sec) : (s.modSec t f).scratch = s.scratch := rfl
@[simp] theorem State.modSec_sesCtl (s : State) (t : TileId) (f : Sec → Sec) : (s.modSec t f).sesCtl = s.sesCtl := rfl
@[simp] theorem State.modSec_sess (s : State) (t : TileId) (f : Sec → Sec) : (s.modSec t f).sess = s.sess := rfl
@[simp] theorem State.modSec_creds (s : State) (t : TileId) (f : Sec → Sec) : (s.modSec t f).creds = s.creds := rfl
@[simp] theorem State.modSec_enrQ (s : State) (t : TileId) (f : Sec → Sec) : (s.modSec t f).enrQ = s.enrQ := rfl
@[simp] theorem State.modSec_strg (s : State) (t : TileId) (f : Sec → Sec) : (s.modSec t f).strg = s.strg := rfl
@[simp] theorem State.modSec_ports (s : State) (t : TileId) (f : Sec → Sec) : (s.modSec t f).ports = s.ports := rfl
@[simp] theorem State.modSec_rgns (s : State) (t : TileId) (f : Sec → Sec) : (s.modSec t f).rgns = s.rgns := rfl
@[simp] theorem State.modSec_dbgDenied (s : State) (t : TileId) (f : Sec → Sec) : (s.modSec t f).dbgDenied = s.dbgDenied := rfl
@[simp] theorem State.modSec_ldg (s : State) (t : TileId) (f : Sec → Sec) : (s.modSec t f).ldg = s.ldg := rfl
@[simp] theorem State.modSec_evt (s : State) (t : TileId) (f : Sec → Sec) : (s.modSec t f).evt = s.evt := rfl
@[simp] theorem State.modSec_media (s : State) (t : TileId) (f : Sec → Sec) : (s.modSec t f).media = s.media := rfl
@[simp] theorem State.modSec_mesh (s : State) (t : TileId) (f : Sec → Sec) : (s.modSec t f).mesh = s.mesh := rfl
@[simp] theorem State.modSec_sup (s : State) (t : TileId) (f : Sec → Sec) : (s.modSec t f).sup = s.sup := rfl
@[simp] theorem State.modSec_thm (s : State) (t : TileId) (f : Sec → Sec) : (s.modSec t f).thm = s.thm := rfl
@[simp] theorem State.modSec_clk (s : State) (t : TileId) (f : Sec → Sec) : (s.modSec t f).clk = s.clk := rfl
@[simp] theorem State.modSec_cfg (s : State) (t : TileId) (f : Sec → Sec) : (s.modSec t f).cfg = s.cfg := rfl
@[simp] theorem State.modSec_boot (s : State) (t : TileId) (f : Sec → Sec) : (s.modSec t f).boot = s.boot := rfl
@[simp] theorem State.modSec_dbg (s : State) (t : TileId) (f : Sec → Sec) : (s.modSec t f).dbg = s.dbg := rfl
@[simp] theorem State.modSec_smb (s : State) (t : TileId) (f : Sec → Sec) : (s.modSec t f).smb = s.smb := rfl
@[simp] theorem State.modSec_cap (s : State) (t : TileId) (f : Sec → Sec) : (s.modSec t f).cap = s.cap := rfl
@[simp] theorem State.modSec_out (s : State) (t : TileId) (f : Sec → Sec) : (s.modSec t f).out = s.out := rfl
@[simp] theorem State.modSec_ses (s : State) (t : TileId) (f : Sec → Sec) (y : SessId) : (s.modSec t f).ses y = s.ses y := rfl
@[simp] theorem State.modSec_cred (s : State) (t : TileId) (f : Sec → Sec) (y : SessId) : (s.modSec t f).cred y = s.cred y := rfl
@[simp] theorem State.modSec_port (s : State) (t : TileId) (f : Sec → Sec) (q : PortId) : (s.modSec t f).port q = s.port q := rfl
@[simp] theorem State.modSec_rgn (s : State) (t : TileId) (f : Sec → Sec) (q : RegionId) : (s.modSec t f).rgn q = s.rgn q := rfl
@[simp] theorem State.modSec_medium (s : State) (t : TileId) (f : Sec → Sec) (u : TileId) : (s.modSec t f).medium u = s.medium u := rfl
@[simp] theorem State.modSec_thmT (s : State) (t : TileId) (f : Sec → Sec) (u : TileId) : (s.modSec t f).thmT u = s.thmT u := rfl
@[simp] theorem State.modSec_strgL (s : State) (t : TileId) (f : Sec → Sec) (q : PortId) (k : LinkId) : (s.modSec t f).strgL q k = s.strgL q k := rfl
@[simp] theorem State.tile_modSec (s : State) (t : TileId) (f : Sec → Sec) (u : TileId) :
    (s.modSec t f).tile u = if u = t then { s.tile t with sec := f (s.tile t).sec } else s.tile u := by
  simp only [State.modSec, State.tile_modTile]

/-! ### modPmc -/

@[simp] theorem State.modPmc_pending (s : State) (t : TileId) (f : Pmc → Pmc) : (s.modPmc t f).pending = s.pending := rfl
@[simp] theorem State.modPmc_part (s : State) (t : TileId) (f : Pmc → Pmc) : (s.modPmc t f).part = s.part := rfl
@[simp] theorem State.modPmc_stepping (s : State) (t : TileId) (f : Pmc → Pmc) : (s.modPmc t f).stepping = s.stepping := rfl
@[simp] theorem State.modPmc_now (s : State) (t : TileId) (f : Pmc → Pmc) : (s.modPmc t f).now = s.now := rfl
@[simp] theorem State.modPmc_free (s : State) (t : TileId) (f : Pmc → Pmc) : (s.modPmc t f).free = s.free := rfl
@[simp] theorem State.modPmc_sf (s : State) (t : TileId) (f : Pmc → Pmc) : (s.modPmc t f).sf = s.sf := rfl
@[simp] theorem State.modPmc_powered (s : State) (t : TileId) (f : Pmc → Pmc) : (s.modPmc t f).powered = s.powered := rfl
@[simp] theorem State.modPmc_held (s : State) (t : TileId) (f : Pmc → Pmc) : (s.modPmc t f).held = s.held := rfl
@[simp] theorem State.modPmc_scratch (s : State) (t : TileId) (f : Pmc → Pmc) : (s.modPmc t f).scratch = s.scratch := rfl
@[simp] theorem State.modPmc_sesCtl (s : State) (t : TileId) (f : Pmc → Pmc) : (s.modPmc t f).sesCtl = s.sesCtl := rfl
@[simp] theorem State.modPmc_sess (s : State) (t : TileId) (f : Pmc → Pmc) : (s.modPmc t f).sess = s.sess := rfl
@[simp] theorem State.modPmc_creds (s : State) (t : TileId) (f : Pmc → Pmc) : (s.modPmc t f).creds = s.creds := rfl
@[simp] theorem State.modPmc_enrQ (s : State) (t : TileId) (f : Pmc → Pmc) : (s.modPmc t f).enrQ = s.enrQ := rfl
@[simp] theorem State.modPmc_strg (s : State) (t : TileId) (f : Pmc → Pmc) : (s.modPmc t f).strg = s.strg := rfl
@[simp] theorem State.modPmc_ports (s : State) (t : TileId) (f : Pmc → Pmc) : (s.modPmc t f).ports = s.ports := rfl
@[simp] theorem State.modPmc_rgns (s : State) (t : TileId) (f : Pmc → Pmc) : (s.modPmc t f).rgns = s.rgns := rfl
@[simp] theorem State.modPmc_dbgDenied (s : State) (t : TileId) (f : Pmc → Pmc) : (s.modPmc t f).dbgDenied = s.dbgDenied := rfl
@[simp] theorem State.modPmc_ldg (s : State) (t : TileId) (f : Pmc → Pmc) : (s.modPmc t f).ldg = s.ldg := rfl
@[simp] theorem State.modPmc_evt (s : State) (t : TileId) (f : Pmc → Pmc) : (s.modPmc t f).evt = s.evt := rfl
@[simp] theorem State.modPmc_media (s : State) (t : TileId) (f : Pmc → Pmc) : (s.modPmc t f).media = s.media := rfl
@[simp] theorem State.modPmc_mesh (s : State) (t : TileId) (f : Pmc → Pmc) : (s.modPmc t f).mesh = s.mesh := rfl
@[simp] theorem State.modPmc_sup (s : State) (t : TileId) (f : Pmc → Pmc) : (s.modPmc t f).sup = s.sup := rfl
@[simp] theorem State.modPmc_thm (s : State) (t : TileId) (f : Pmc → Pmc) : (s.modPmc t f).thm = s.thm := rfl
@[simp] theorem State.modPmc_clk (s : State) (t : TileId) (f : Pmc → Pmc) : (s.modPmc t f).clk = s.clk := rfl
@[simp] theorem State.modPmc_cfg (s : State) (t : TileId) (f : Pmc → Pmc) : (s.modPmc t f).cfg = s.cfg := rfl
@[simp] theorem State.modPmc_boot (s : State) (t : TileId) (f : Pmc → Pmc) : (s.modPmc t f).boot = s.boot := rfl
@[simp] theorem State.modPmc_dbg (s : State) (t : TileId) (f : Pmc → Pmc) : (s.modPmc t f).dbg = s.dbg := rfl
@[simp] theorem State.modPmc_smb (s : State) (t : TileId) (f : Pmc → Pmc) : (s.modPmc t f).smb = s.smb := rfl
@[simp] theorem State.modPmc_cap (s : State) (t : TileId) (f : Pmc → Pmc) : (s.modPmc t f).cap = s.cap := rfl
@[simp] theorem State.modPmc_out (s : State) (t : TileId) (f : Pmc → Pmc) : (s.modPmc t f).out = s.out := rfl
@[simp] theorem State.modPmc_ses (s : State) (t : TileId) (f : Pmc → Pmc) (y : SessId) : (s.modPmc t f).ses y = s.ses y := rfl
@[simp] theorem State.modPmc_cred (s : State) (t : TileId) (f : Pmc → Pmc) (y : SessId) : (s.modPmc t f).cred y = s.cred y := rfl
@[simp] theorem State.modPmc_port (s : State) (t : TileId) (f : Pmc → Pmc) (q : PortId) : (s.modPmc t f).port q = s.port q := rfl
@[simp] theorem State.modPmc_rgn (s : State) (t : TileId) (f : Pmc → Pmc) (q : RegionId) : (s.modPmc t f).rgn q = s.rgn q := rfl
@[simp] theorem State.modPmc_medium (s : State) (t : TileId) (f : Pmc → Pmc) (u : TileId) : (s.modPmc t f).medium u = s.medium u := rfl
@[simp] theorem State.modPmc_thmT (s : State) (t : TileId) (f : Pmc → Pmc) (u : TileId) : (s.modPmc t f).thmT u = s.thmT u := rfl
@[simp] theorem State.modPmc_strgL (s : State) (t : TileId) (f : Pmc → Pmc) (q : PortId) (k : LinkId) : (s.modPmc t f).strgL q k = s.strgL q k := rfl
@[simp] theorem State.tile_modPmc (s : State) (t : TileId) (f : Pmc → Pmc) (u : TileId) :
    (s.modPmc t f).tile u = if u = t then { s.tile t with pmc := f (s.tile t).pmc } else s.tile u := by
  simp only [State.modPmc, State.tile_modTile]

/-! ### Time and free values -/

@[simp] theorem State.till_pending (s : State) (n : Nat) : (s.till n).pending = s.pending := rfl
@[simp] theorem State.till_part (s : State) (n : Nat) : (s.till n).part = s.part := rfl
@[simp] theorem State.till_stepping (s : State) (n : Nat) : (s.till n).stepping = s.stepping := rfl
@[simp] theorem State.till_sf (s : State) (n : Nat) : (s.till n).sf = s.sf := rfl
@[simp] theorem State.till_powered (s : State) (n : Nat) : (s.till n).powered = s.powered := rfl
@[simp] theorem State.till_held (s : State) (n : Nat) : (s.till n).held = s.held := rfl
@[simp] theorem State.till_scratch (s : State) (n : Nat) : (s.till n).scratch = s.scratch := rfl
@[simp] theorem State.till_sesCtl (s : State) (n : Nat) : (s.till n).sesCtl = s.sesCtl := rfl
@[simp] theorem State.till_sess (s : State) (n : Nat) : (s.till n).sess = s.sess := rfl
@[simp] theorem State.till_creds (s : State) (n : Nat) : (s.till n).creds = s.creds := rfl
@[simp] theorem State.till_enrQ (s : State) (n : Nat) : (s.till n).enrQ = s.enrQ := rfl
@[simp] theorem State.till_strg (s : State) (n : Nat) : (s.till n).strg = s.strg := rfl
@[simp] theorem State.till_ports (s : State) (n : Nat) : (s.till n).ports = s.ports := rfl
@[simp] theorem State.till_rgns (s : State) (n : Nat) : (s.till n).rgns = s.rgns := rfl
@[simp] theorem State.till_dbgDenied (s : State) (n : Nat) : (s.till n).dbgDenied = s.dbgDenied := rfl
@[simp] theorem State.till_ldg (s : State) (n : Nat) : (s.till n).ldg = s.ldg := rfl
@[simp] theorem State.till_evt (s : State) (n : Nat) : (s.till n).evt = s.evt := rfl
@[simp] theorem State.till_media (s : State) (n : Nat) : (s.till n).media = s.media := rfl
@[simp] theorem State.till_mesh (s : State) (n : Nat) : (s.till n).mesh = s.mesh := rfl
@[simp] theorem State.till_sup (s : State) (n : Nat) : (s.till n).sup = s.sup := rfl
@[simp] theorem State.till_thm (s : State) (n : Nat) : (s.till n).thm = s.thm := rfl
@[simp] theorem State.till_clk (s : State) (n : Nat) : (s.till n).clk = s.clk := rfl
@[simp] theorem State.till_cfg (s : State) (n : Nat) : (s.till n).cfg = s.cfg := rfl
@[simp] theorem State.till_boot (s : State) (n : Nat) : (s.till n).boot = s.boot := rfl
@[simp] theorem State.till_dbg (s : State) (n : Nat) : (s.till n).dbg = s.dbg := rfl
@[simp] theorem State.till_smb (s : State) (n : Nat) : (s.till n).smb = s.smb := rfl
@[simp] theorem State.till_cap (s : State) (n : Nat) : (s.till n).cap = s.cap := rfl
@[simp] theorem State.till_out (s : State) (n : Nat) : (s.till n).out = s.out := rfl
@[simp] theorem State.till_now (s : State) (n : Nat) : (s.till n).now = max s.now n := rfl

/-! ### A ledger commit changes the ledger alone -/

@[simp] theorem State.commit_pending (s : State) (base : Nat) (b : Body) (post : List Deferred) :
    (s.commit base b post).pending = s.pending := rfl
@[simp] theorem State.commit_part (s : State) (base : Nat) (b : Body) (post : List Deferred) :
    (s.commit base b post).part = s.part := rfl
@[simp] theorem State.commit_stepping (s : State) (base : Nat) (b : Body) (post : List Deferred) :
    (s.commit base b post).stepping = s.stepping := rfl
@[simp] theorem State.commit_now (s : State) (base : Nat) (b : Body) (post : List Deferred) : (s.commit base b post).now = s.now := rfl
@[simp] theorem State.commit_free (s : State) (base : Nat) (b : Body) (post : List Deferred) :
    (s.commit base b post).free = s.free := rfl
@[simp] theorem State.commit_sf (s : State) (base : Nat) (b : Body) (post : List Deferred) : (s.commit base b post).sf = s.sf := rfl
@[simp] theorem State.commit_powered (s : State) (base : Nat) (b : Body) (post : List Deferred) :
    (s.commit base b post).powered = s.powered := rfl
@[simp] theorem State.commit_held (s : State) (base : Nat) (b : Body) (post : List Deferred) :
    (s.commit base b post).held = s.held := rfl
@[simp] theorem State.commit_scratch (s : State) (base : Nat) (b : Body) (post : List Deferred) :
    (s.commit base b post).scratch = s.scratch := rfl
@[simp] theorem State.commit_sesCtl (s : State) (base : Nat) (b : Body) (post : List Deferred) :
    (s.commit base b post).sesCtl = s.sesCtl := rfl
@[simp] theorem State.commit_sess (s : State) (base : Nat) (b : Body) (post : List Deferred) :
    (s.commit base b post).sess = s.sess := rfl
@[simp] theorem State.commit_creds (s : State) (base : Nat) (b : Body) (post : List Deferred) :
    (s.commit base b post).creds = s.creds := rfl
@[simp] theorem State.commit_enrQ (s : State) (base : Nat) (b : Body) (post : List Deferred) :
    (s.commit base b post).enrQ = s.enrQ := rfl
@[simp] theorem State.commit_strg (s : State) (base : Nat) (b : Body) (post : List Deferred) :
    (s.commit base b post).strg = s.strg := rfl
@[simp] theorem State.commit_ports (s : State) (base : Nat) (b : Body) (post : List Deferred) :
    (s.commit base b post).ports = s.ports := rfl
@[simp] theorem State.commit_rgns (s : State) (base : Nat) (b : Body) (post : List Deferred) :
    (s.commit base b post).rgns = s.rgns := rfl
@[simp] theorem State.commit_dbgDenied (s : State) (base : Nat) (b : Body) (post : List Deferred) :
    (s.commit base b post).dbgDenied = s.dbgDenied := rfl
@[simp] theorem State.commit_evt (s : State) (base : Nat) (b : Body) (post : List Deferred) : (s.commit base b post).evt = s.evt := rfl
@[simp] theorem State.commit_tiles (s : State) (base : Nat) (b : Body) (post : List Deferred) :
    (s.commit base b post).tiles = s.tiles := rfl
@[simp] theorem State.commit_media (s : State) (base : Nat) (b : Body) (post : List Deferred) :
    (s.commit base b post).media = s.media := rfl
@[simp] theorem State.commit_mesh (s : State) (base : Nat) (b : Body) (post : List Deferred) :
    (s.commit base b post).mesh = s.mesh := rfl
@[simp] theorem State.commit_sup (s : State) (base : Nat) (b : Body) (post : List Deferred) : (s.commit base b post).sup = s.sup := rfl
@[simp] theorem State.commit_thm (s : State) (base : Nat) (b : Body) (post : List Deferred) : (s.commit base b post).thm = s.thm := rfl
@[simp] theorem State.commit_clk (s : State) (base : Nat) (b : Body) (post : List Deferred) : (s.commit base b post).clk = s.clk := rfl
@[simp] theorem State.commit_cfg (s : State) (base : Nat) (b : Body) (post : List Deferred) : (s.commit base b post).cfg = s.cfg := rfl
@[simp] theorem State.commit_boot (s : State) (base : Nat) (b : Body) (post : List Deferred) :
    (s.commit base b post).boot = s.boot := rfl
@[simp] theorem State.commit_dbg (s : State) (base : Nat) (b : Body) (post : List Deferred) : (s.commit base b post).dbg = s.dbg := rfl
@[simp] theorem State.commit_smb (s : State) (base : Nat) (b : Body) (post : List Deferred) : (s.commit base b post).smb = s.smb := rfl
@[simp] theorem State.commit_cap (s : State) (base : Nat) (b : Body) (post : List Deferred) : (s.commit base b post).cap = s.cap := rfl
@[simp] theorem State.commit_out (s : State) (base : Nat) (b : Body) (post : List Deferred) : (s.commit base b post).out = s.out := rfl

end Sys2Proof.Machine
end

