-- ==== Sys2Proof/Tests/Slice0.lean ====
section
/-! SUPPORT. Tests of the model: the refused ill-formed commands, states that meet the hypotheses of each statement, and small
facts of chapters 2 to 17 worked out by hand from the spec. -/

open Sys2Proof Sys2Proof.Machine

namespace Sys2Proof.Tests

/-! ### States to test in -/

/-- A tile in service, its engine between two superframes. -/
def tileUp : Tile :=
  { ctl := { st := .inService, loaded := true, medInit := true, recovery := 6, portsGo := true }
    adm := { rate := 100, depth := 1000, level := 1000, scfg := [(3, 0x00000041)] }
    sch := { run := true, fresh := true, present := 5 } }

/-- A running GX880: every domain and rail on, tile 0 to 7 in service, session 3 LIVE on link 0 of port 0 with the next host number 100
and the next device number 50, region 0 ONLINE over the first 64 MiB. -/
def up : State :=
  { State.reset with
    sup := { State.reset.sup with
      st := .on
      doms := (List.range 34).map fun i => (i, { st := .on })
      rails := (List.range 8).map fun x => (x, { st := .on, en := true, pg := true, cfg := Rail.cfgOf x }) }
    boot := { recalled := true, vgpio := true, config := true, onProg := true, tables := true, cold := false, served := true }
    ldg := { recalling := false }
    evt := { loaded := true }
    cfg := { st := .loaded }
    sesCtl := 0x201
    tiles := (List.range 8).map fun t => (t, tileUp)
    ports := [(0, { ctl := 1, links := [(0, .up)] })]
    rgns := [(0, { base := 0, size := 1, st := .online, slot0 := some 5 })]
    creds := [(3, { enable := true, rd := 1, wr := 1, steward := true })]
    sess := [(3, { st := .live, steward := true, epoch := 7, rx := [{ an := 0, key := 1, salt := 2, pn := 1 }]
                   tx := some { an := 0, key := 1, salt := 2, pn := 1 }, ka := 100, e := 100, hi := 99, dseq := 50, acked := 49 })] }

/-- The state a command answers. -/
def after (i : Instr) (s : State) : State := match exec i s with | .next t => t | _ => s

/-- A header of session 3 that acknowledges every frame sent. -/
def hdr (op : BitVec 8) (seq : Word) (addr : BitVec 64) : Hdr :=
  { opcode := op, session := 3, epoch := 7, seq, ack := 49, addr }

/-- A WRITE of the line at 64, a READ of it, and the same frame with another sequence number. -/
def wr : Rq := { hdr := hdr opWrite 100 0x40, payload := (List.range 64).map fun i => BitVec.ofNat 8 i }
def rd : Rq := { hdr := hdr opRead 101 0x40 }
def renum (r : Rq) (seq : Word) : Rq := { r with hdr := { r.hdr with seq } }

/-- `up` with another record in one place. -/
def ses (f : Sess → Sess) : State := up.modSes 3 f
def rgn (f : Region → Region) : State := up.modRgn 0 f
def sup (f : Sup → Sup) : State := up.modSup f
def til (f : Tile → Tile) : State := up.modTile 0 f

/-! ### Ill-formed commands are refused by the check, and fault -/

theorem test_ill_formed_stratum : (Instr.eraseBegin 0 strataLimit).wellFormed = false ∧
    (Instr.eraseComplete 0 strataLimit).wellFormed = false ∧ (Instr.stratumBucketEntry 0 strataLimit).wellFormed = false ∧
    (Instr.stratumPad 0 strataLimit).wellFormed = false ∧ (Instr.eraseBegin 0 (strataLimit - 1)).wellFormed = true := by decide
theorem test_ill_formed_page : (Instr.mapFetchComplete 0 pageLimit).wellFormed = false ∧
    (Instr.mapFetchComplete 0 (pageLimit - 1)).wellFormed = true := by decide
theorem test_ill_formed_group : (Instr.counterFetchComplete 0 groupLimit).wellFormed = false ∧
    (Instr.rolloverImage 0 groupLimit).wellFormed = false ∧ (Instr.rolloverImage 0 (groupLimit - 1)).wellFormed = true := by decide
theorem test_ill_formed_fault_cause : (Instr.tileFaultReset 0 0).wellFormed = false ∧
    (Instr.tileFaultReset 0 9).wellFormed = false ∧ (Instr.tileFaultReset 0 8).wellFormed = true := by decide
theorem test_ill_formed_survey : (Instr.patrolFinding 0 0 none .lost []).wellFormed = false ∧
    (Instr.patrolFinding 0 0 none .lost (List.replicate 16 none)).wellFormed = true := by decide
theorem test_ill_formed_bypass : (Instr.bypass 0x20).wellFormed = false ∧ (Instr.bypass 0xFF).wellFormed = true := by decide
theorem test_no_word_spells_a_command : decodeTableWord 32 0 = none ∧ State.reset.withFetchWord 32 0 = State.reset := by decide

/-! ### Hypotheses of the statements are met -/

theorem witness_EmptyQueueIsOneCoreCycle : up.pending = [] ∧ ∀ u, (up.tile u).pmc.run = false ∧ (up.tile u).pmc.due = 0 := by decide
theorem witness_EveryStepKeepsTheMediaCanonical : up.mediaWf = true ∧ State.reset.mediaWf = true := by decide
theorem witness_AbsentPlacesFault : strataLimit ≤ 524288 ∧ pageLimit ≤ 1310720 ∧ groupLimit ≤ 671088640 := by decide
theorem witness_UnpoweredDeviceDoesNothing : ({ up with powered := false } : State).held = false ∧
    ({ up with powered := false, held := true } : State).powered = false := by decide
theorem witness_InOrderRequestsAreAccepted : up.powered = true ∧ (up.ses 3).st = .live ∧ up.r46 3 wr = true ∧
    ((up.readAck 3 49).ses 3).e = wr.hdr.seq := by decide
theorem witness_MisalignedAddressesCompleteRange :
    (({ wr with hdr := hdr opWrite 100 0x41 } : Rq).addr % 64 ≠ 0) ∧ (({ wr with hdr := hdr opCas 100 4 } : Rq).addr % 8 ≠ 0) ∧
    ((after (.write { wr with hdr := hdr opWrite 100 0x41 }) up).ses 3).reqs = [] := by decide
theorem witness_RequestsOutOfOrderAreClassed :
    up.r46 3 { wr with hdr := { wr.hdr with epoch := 6 } } = false ∧ up.r46 3 wr = true ∧
    (let d := fun (n : Word) => (n - ((up.readAck 3 49).ses 3).e).toNat
     d 101 = 1 ∧ d 4195 = 4095 ∧ d 4196 = 4096 ∧ d (100 - 4097) = 2 ^ 32 - 4097 ∧ d (100 - 4096) = 2 ^ 32 - 4096 ∧ d 99 = 2 ^ 32 - 1) ∧
    ((after (.write wr) up).ses 3).reqs.any (fun q => decide (q.rq.hdr.seq = 100)) = true ∧
    (up.ses 3).reqs.any (fun q => decide (q.rq.hdr.seq = 99)) = false ∧ Tab.find (up.ses 3).cache 99 = none := by decide
/-- `up` after it has completed request 99 with OK. -/
def cached : State := ses fun S => { S with cache := [(99, { opcode := opWrite, status := stOk, flags := 0, old := 0 })] }
theorem witness_RequestsOutOfOrderAreClassed_cached :
    (Tab.find (cached.ses 3).cache 99).isSome = true ∧ (cached.ses 3).reqs = [] ∧ (cached.ses 3).st = .live := by decide
/-- Session 3 performs request 99, a READ, again. -/
def replays : State := ses fun S => { S with reqs := [{ rq := renum rd 99, replay := true }] }
theorem witness_RequestsOutOfOrderAreClassed_replay :
    (replays.ses 3).reqs.any (fun q => decide (q.rq.hdr.seq = 99) && q.replay) = true ∧ (replays.ses 3).st = .live := by decide
theorem witness_UnsequencedHostFrames :
    up.r46 3 { hdr := hdr opKeepalive 100 0 } = true ∧ ((up.readAck 3 49).ses 3).e = 100 := by decide
/-- Session 3 with a frame unacknowledged, a gap open and a marker open. -/
def sent (tries : Nat) : State := ses fun S => { S with
  retain := [{ hdr := { opcode := opAck, seq := 50 } }], dseq := 51, tries, gap := some (0, 101)
  marker := { st := 1, first := 100, last := 100 } }
theorem witness_TimersOfASession : ((sent 15).ses 3).st = .live ∧ ((sent 15).ses 3).gap = some (0, 101) ∧
    ((sent 15).ses 3).retain ≠ [] ∧ ((sent 15).ses 3).tries < 16 ∧ 16 ≤ ((sent 16).ses 3).tries := by decide
theorem witness_TailKeepaliveShowsTheNextNumber : ((sent 0).ses 3).st = .live ∧ ((sent 0).ses 3).retain ≠ [] ∧
    ((sent 0).ses 3).tx = some { an := 0, key := 1, salt := 2, pn := 1 } ∧ (1 : BitVec 64) ≠ 0 := by decide
/-- The bytes of a frame from station 9 to link 0 of port 0: what stands behind the addresses, closed by its FCS. -/
def rx (l : List Byte) : RxFrame := { bytes := withFcs (beBytes 6 (up.linkMac 0 0).toNat ++ beBytes 6 9 ++ l) }
/-- An unprotected frame of opcode op, and a protected one under session 3's association: header and EtherType as given. -/
def clearRx (op : BitVec 8) (etype : Nat) : RxFrame := rx (beBytes 2 etype ++ (hdr op 100 0).bytes ++ List.replicate 56 0)
def tag : SecTag := { tci := tciGood, an := 0, sl := 34, pn := 1, sci := 0 }
def secRx (c : SecTag) (etype : Nat) : RxFrame :=
  let ks := aesKeys 1
  let iv := xpnIv ssciHost { an := 0, key := 1, salt := 2, pn := 1 } (c.pn.setWidth 64)
  let d := gcmCrypt ks iv (beBytes 2 etype ++ (hdr opKeepalive 100 0).bytes)
  rx (secTagBytes c ++ d ++ beBytes 16 (gcmTag ks iv (secAad (up.linkMac 0 0) 9 (secTagBytes c)) d).toNat)
/-- `up` without the mesh's clock domain. -/
def noMesh : State := sup fun v => { v with doms := Tab.put {} v.doms 1 { st := .off } }
set_option maxRecDepth 100000 in
theorem witness_FramesAtALink :
    up.link 0 0 = .up ∧ up.link 0 1 ≠ .up ∧ up.meshOn = true ∧ (noMesh.link 0 0 = .up ∧ noMesh.meshOn = false) ∧
    macOk (clearRx opRead 0x88B5) = true ∧
    macOk { clearRx opRead 0x88B5 with fecUncorrected := 1 } = false ∧ pauseMac ≠ up.linkMac 0 0 ∧
    frameSec (clearRx opRead 0x88B5).bytes = none ∧ frameType (clearRx opRead 0x88B5).bytes = up.cfg.etherType.toNat ∧
    frameType (clearRx opRead 0).bytes ≠ up.cfg.etherType.toNat ∧
    (frameClear (clearRx opEnroll 0x88B5).bytes).map (fun r => (r.hdr.opcode, r.payload.length)) = some (opEnroll, 56) ∧
    (up.port 0).tagOk none = true ∧ (up.port 0).tagOk (some { pcp := 0, vid := 1 }) = false := by decide +kernel
set_option maxRecDepth 100000 in
theorem witness_FramesAtALink_pause : pauseMac = frameDa (withFcs (beBytes 6 pauseMac.toNat ++ beBytes 6 9 ++ beBytes 2 pauseType ++ List.replicate 46 0)) ∧
    macOk { bytes := withFcs (beBytes 6 pauseMac.toNat ++ beBytes 6 9 ++ beBytes 2 pauseType ++ List.replicate 46 0) } = true := by
  decide +kernel
set_option maxRecDepth 100000 in
theorem witness_FramesAtALink_protected :
    frameSec (secRx tag 0x88B5).bytes = some tag ∧ macOk (secRx tag 0x88B5) = true ∧ slGood (secRx tag 0x88B5).bytes tag = true ∧
    slGood (secRx tag 0x88B5).bytes { tag with sl := 33 } = false ∧
    up.bound 0 0 tag = some 3 ∧ up.bound 0 0 { tag with an := 1 } = none ∧
    ((up.ses 3).rx.find? fun a => decide (a.an = 0)).map (fun a => (unprotect a 1 (secRx tag 0x88B5).bytes).map fun l =>
      (beAt l 0 2, (Rq.ofBytes (l.drop 2)).map fun r => r.hdr.opcode)) = some (some (0x88B5, some opKeepalive)) ∧
    ((up.ses 3).rx.find? fun a => decide (a.an = 0)).map (fun a => unprotect a 2 (secRx tag 0x88B5).bytes) = some none ∧
    ((up.ses 3).rx.find? fun a => decide (a.an = 0)).map (fun a => a.recover up.replayWin 1) = some 1 := by decide +kernel
/-- The receive association once packet 2,000,000 has passed. -/
def late : Sa := { an := 0, key := 1, salt := 2, pn := 2000000 }
theorem witness_FramesAtALink_replay : late.recover up.replayWin 3 < late.lowest up.replayWin ∧
    late.lowest up.replayWin ≤ late.recover up.replayWin 2000000 := by decide
/-- A pending enrollment exchange of session 3 on link 0 of port 0. -/
def exch : Exch :=
  { rq := { hdr := { opcode := opEnroll, session := 3, seq := 10 } }, mac := 9, port := 0, link := 0, v1 := false, e := 8, d := 20, t := 0
    okm := 0, ack := [], ka := 100, at_ := 0 }
def enrFrame (op : BitVec 8) (seq : Word) (n : Nat) : EnrFrame :=
  { sa := 9, rq := { hdr := { opcode := op, session := 3, epoch := 8, seq }, payload := List.replicate n 0 } }
/-- Session 3 in another state, with and without an exchange, and with a verified one. -/
def enr (st : SesSt) (e fin : Option Exch) : State := ses fun S => { S with st, exch := e, fin }
theorem witness_EnrollmentFramesAreQueued :
    (enr .idle none none).link 0 0 = .up ∧ (up.port 0).tagOk (enrFrame opEnroll 10 56).ctag = true ∧ (enrFrame opEnroll 10 56).rq.payload.length = 56 ∧
    (enr .idle none none).enrollOk 0 0 (enrFrame opEnroll 10 56).rq = true ∧ up.enrQ = [] ∧
    ({ up with creds := [] } : State).enrollOk 0 0 (enrFrame opEnroll 10 56).rq = false ∧
    (enrFrame opFinish 11 64).rq.payload.length = 64 ∧
    ((enr .enrolling (some exch) none).ses 3).finishMatches 0 0 (enrFrame opFinish 11 64).rq = true := by decide
theorem witness_EnrollmentAndClosingGoOn :
    ((enr .idle none (some exch)).ses 3).fin = some exch ∧ ((enr .enrolling none (some exch)).ses 3).st = .enrolling ∧
    ((enr .live none (some exch)).ses 3).st = .live ∧ (enr .closing none (some exch)).emptied 3 = true ∧
    ((enr .closing none none).ses 3).fin = none ∧ ((enr .enrolling (some exch) none).ses 3).exch = some exch ∧
    ({ up with enrQ := [{ port := 0, link := 0, frame := enrFrame opEnroll 10 56 }] } : State).enrQ ≠ [] ∧
    ((ses fun S => { S with oldAt := some 7 }).ses 3).oldAt = some 7 := by decide +kernel
theorem witness_EnrollmentAndClosingGoOn_finish :
    ((enr .enrolling (some exch) none).ses 3).finishMatches 0 0 (enrFrame opFinish 11 64).rq = true ∧
    exch.verifies 0 (enrFrame opFinish 11 64).rq.payload = false ∧
    ((enr .idle none none).ses 3).finishMatches 0 0 (enrFrame opFinish 11 64).rq = false ∧
    ((enr .idle none none).ses 3).finishRepeats (enrFrame opFinish 11 64).rq = false ∧
    ((ses fun S => { S with finAck := [((enrFrame opFinish 11 64).rq, { hdr := {} })] }).ses 3).finAck.find?
      (fun e => decide (e.1 = (enrFrame opFinish 11 64).rq)) = some ((enrFrame opFinish 11 64).rq, { hdr := {} }) ∧
    ((enr .live none (some { exch with finish := some (enrFrame opFinish 11 64).rq })).ses 3).fin =
      some { exch with finish := some (enrFrame opFinish 11 64).rq } := by decide +kernel
/-- Region 0 locked by session 3, with and without a break to be resolved. -/
def locked (c : Option (BitVec 2)) : State := rgn fun g => { g with held := true, holder := 3, hepoch := 7, expiry := some 9, resolving := c }
theorem witness_EndOfASession : (up.ses 3).st = .live ∧ (up.ses 4).st ≠ .live ∧ ((locked none).rgn 0).held = true ∧
    ((locked none).rgn 0).holder = 3 ∧ ((locked none).rgn 0).resolving = none := by decide
theorem witness_StewardEndsSessionsAndCredentials : up.reach 0x100004 = true ∧ up.reach 0x100008 = true ∧
    up.reach (0x101000 + 0x40 * 3) = true ∧ up.reach (0x101000 + 0x40 * 63) = true ∧
    ((enr .enrolling (some exch) none).ses 3).st = .enrolling ∧
    (up.cred 3).fromImage = false ∧ up.credOn 3 = true ∧ (up.cred 4).enable = false ∧
    (({ up with creds := [(3, { fromImage := true })] } : State).cred 3).fromImage = true := by decide
/-- `up` with one message from tile 0 to tile 0, and with session 3 not LIVE as well. -/
def msg (b : MsgBody) : State := { up with mesh := [{ src := 0, dst := 0, path := [0], body := b }] }
def msgDead (b : MsgBody) : State := { enr .idle none none with mesh := [{ src := 0, dst := 0, path := [0], body := b }] }
/-- The READ of one line, claimed on tile 0. -/
def claimed : State := after (.claim 0 0) (after (.read (renum rd 100)) up)
theorem witness_MeshMessagesAreTakenInOrder :
    up.hears 0 = true ∧ (til fun T => { T with ctl := { T.ctl with replayDue := true } }).hears 0 = false ∧
    (msg (.claim 3 rd 0 0 1 0x40 false true)).firstMsg 0 0 = some { src := 0, dst := 0, path := [0], body := .claim 3 rd 0 0 1 0x40 false true } ∧
    ((msgDead (.claimResult 3 100 0 none)).ses 3).st ≠ .live ∧
    Tab.get 0 ((ses fun S => { S with stale := [(0, 1)] }).ses 3).stale 0 = 0 + 1 ∧
    (msg (.drop 3 100)).firstMsg 0 0 = some { src := 0, dst := 0, path := [0], body := .drop 3 100 } ∧
    (msg (.rewind 3)).firstMsg 0 0 = some { src := 0, dst := 0, path := [0], body := .rewind 3 } ∧
    (msg (.completion 3 7 100 0 {})).firstMsg 0 0 = some { src := 0, dst := 0, path := [0], body := .completion 3 7 100 0 {} } ∧
    (up.ses 3).epoch = 7 := by decide
/-- The claim of one line that is to be armed at once, in a region that bars nothing and in one that is READ_ONLY. -/
theorem witness_MeshMessagesAreTakenInOrder_claim :
    (let s1 := (msg (.claim 3 wr 0 0 1 0x40 false true)).takeMsg 0 0
     let c := s1.claim 0 0 3 wr 0 1 0x40 false
     c.2 = none ∧ (c.1.send 0 0 (.claimResult 3 100 0 none)).barsNow wr = none) ∧
    (let s1 := ((msg (.claim 3 wr 0 0 1 0x40 false true)).modRgn 0 fun g => { g with st := .readOnly }).takeMsg 0 0
     let c := s1.claim 0 0 3 wr 0 1 0x40 false
     c.2 = none ∧ ((c.1.send 0 0 (.claimResult 3 100 0 none)).barsNow wr).isSome = true) := by decide +kernel
/-- A CLAIMED cell of session 3 on tile 0. -/
def cellOne : State := til fun T => { T with adm := { T.adm with
  cells := [(64, { sess := 3, seq := 100, op := opRead, home := 0, tla := 0x40, n := 1 })], queues := [(3, [64])] } }
theorem witness_MeshMessagesAreTakenInOrder_arm :
    ({ cellOne with mesh := [{ src := 0, dst := 0, path := [0], body := .arm 3 100 0 }] } : State).firstMsg 0 0
      = some { src := 0, dst := 0, path := [0], body := .arm 3 100 0 } ∧ cellOne.cellOf 0 3 100 = some 64 ∧
    (let s := cellOne.modSes 3 fun S => { S with st := .closing }
     ∀ part, ({ s with mesh := [{ src := 0, dst := 0, path := [0], body := .arm 3 100 part }] } : State).firstMsg 0 0
      = some { src := 0, dst := 0, path := [0], body := .arm 3 100 part } ∧ s.cellOf 0 3 100 = some 64 ∧ (s.ses 3).st ≠ .live) := by
  refine ⟨by decide, by decide, fun part => ⟨rfl, by decide⟩⟩
/-- The cell of an ended session whose ARM is on its way, and without it. -/
theorem witness_EndOfASession_cells :
    (let s : State := { cellOne with mesh := [{ src := 0, dst := 0, path := [0], body := .arm 3 100 0 }] }
     (s.cell? 0 64).map (fun d => d.st) = some .claimed ∧ s.armComes 0 3 100 = true) ∧ cellOne.armComes 0 3 100 = false ∧
    (({ sess := 3, seq := 100, op := opWrite, home := 0, tla := 0x40, n := 1, st := .armed } : Cell).finishes) = true ∧
    (({ sess := 3, seq := 100, op := opRead, home := 0, tla := 0x40, n := 1, st := .armed } : Cell).finishes) = false := by decide
theorem witness_ClaimResultArmsASinglePart :
    claimed.hears 0 = true ∧ (claimed.ses 3).st = .live ∧ Tab.get 0 (claimed.ses 3).stale 0 = 0 ∧
    claimed.firstMsg 0 0 = some { src := 0, dst := 0, path := [0], body := .claimResult 3 100 0 none } ∧
    ((claimed.ses 3).reqs.find? (fun q => decide (q.rq.hdr.seq = 100 ∧ q.st = .claiming) &&
      q.parts.any fun p => decide (p.tile = 0 ∧ p.first = 0 ∧ p.st = .sent))).map (fun q => q.parts.map fun p => (p.tile, p.n)) =
      some [(0, 1)] := by decide
/-- The READ of a line on each of two tiles, claimed on tile 0; and the same where the result is short. -/
def claimedTwo : State := after (.claim 0 0) (after (.read { hdr := { hdr opRead 100 0xFC0 with count := 1 } }) up)
def shortOne : State := { claimed with mesh := [{ src := 0, dst := 0, path := [0], body := .claimResult 3 100 0 (some { cell := true }) }] }
theorem witness_ClaimResultArmsASinglePart_more :
    (claimedTwo.firstMsg 0 0).map (fun m => m.body) = some (.claimResult 3 100 0 none) ∧
    ((claimedTwo.ses 3).reqs.find? (fun q => decide (q.rq.hdr.seq = 100 ∧ q.st = .claiming) &&
      q.parts.any fun p => decide (p.tile = 0 ∧ p.first = 0 ∧ p.st = .sent))).map (fun q => q.parts.length) = some 2 ∧
    (shortOne.firstMsg 0 0).map (fun m => m.body) = some (.claimResult 3 100 0 (some { cell := true })) := by decide +kernel
/-- Session 3 whose oldest request is an armed BARRIER. -/
def barriered : State := ses fun S => { S with reqs := [{ rq := { hdr := hdr opBarrier 99 0 }, st := .armed }] }
theorem witness_MarkersAndBarriers : ((sent 0).ses 3).marker.st = 1 ∧
    (barriered.ses 3).reqs.map (fun q => (q.rq.hdr.opcode, q.st, q.fail)) = [(opBarrier, .armed, none)] ∧
    (barriered.ses 3).unset = none ∧ (barriered.ses 3).waitQ = [] := by decide
/-- The engine of tile 0 inside a superframe, in frame f at slot k; and in a gale since superframe 0. -/
def inFrame (f k : Nat) : State := til fun T => { T with sch := { T.sch with fresh := false, f, k } }
/-- Every engine has had the last slot of the superframe. -/
def inEnd : State := { up with tiles := (List.range 8).map fun t => (t, { tileUp with sch := { tileUp.sch with fresh := false, f := 1023, k := 64 } }) }
def galing : State := til fun T => { T with sch := { T.sch with gale := true, galeFrames := 4096 * 1024 } }
theorem witness_SlotsFramesAndSuperframes :
    up.frameDue 0 = true ∧ (inFrame 0 64).frameDue 0 = true ∧ (inFrame 1022 64).frameDue 0 = true ∧ (inFrame 1023 64).frameDue 0 = false ∧
    ((inFrame 5 63).tile 0).sch.k < 64 ∧ ((inFrame 1023 0).tile 0).sch.run = true ∧ ((inFrame 1023 0).tile 0).sch.k = 0 ∧
    (galing.tile 0).sch.galeLongDone = false ∧ 4096 * 1024 ≤ (galing.tile 0).sch.galeFrames ∧
    inEnd.meshOn = true ∧ inEnd.coreOn 0 = true ∧ inEnd.clk.refHold = false ∧ (∀ u, ((inEnd.tile u).sch.run = true → (inEnd.tile u).sch.f = 1023 ∧ (inEnd.tile u).sch.k = 64)) := by decide
theorem witness_LatchedVariantTakesEffectAtTheBoundary :
    (up.tile 0).sch.run = true ∧ (up.tile 0).sch.haltDue = false ∧
    ((til fun T => { T with sch := { T.sch with haltDue := true } }).tile 0).sch.haltDue = true ∧
    ((til fun T => { T with sch := { T.sch with leanReq := true, present := 9 } }).tile 0).sch.present.getLsbD 3 = true ∧
    (let s := til fun T => { T with sch := { T.sch with run := false, startDue := true } }
     (s.tile 0).sch.startDue = true ∧ (s.tile 0).sch.run = false ∧ s.mayRun 0 = true) ∧
    (let s := (til fun T => { T with sch := { T.sch with run := false, startDue := true } }).modThm 0 fun h => { h with hold := true, st := .tooHot }
     (s.thmT 0).st = .tooHot ∧ s.mayRun 0 = false) ∧
    ((til fun T => { T with sch := { T.sch with leanReq := true, present := 5 } }).tile 0).sch.present.getLsbD 3 = false ∧
    (up.thmT 0).st = .normal ∧ ((up.modThm 0 fun h => { h with st := .hot }).thmT 0).st = .hot ∧
    ((up.modThm 0 fun h => { h with st := .warm }).thmT 0).st = .warm := by decide
/-- Die 0 of channel 0 with a program of so many steps, and with an erase of so many. -/
def progs (k : Nat) : State := up.modDie 0 0 0 fun x => { x with prog := some { stratum := 0, pos := 0, pages := [], steps := k } }
def erasing (k : Nat) : State := up.modDie 0 0 0 fun x => { x with erase := some (0, k, 0, false) }
/-- A read of codeword 0 in flight, whose codeword is stored; a rebuild with no read left. -/
def reading (st : Stage) : State :=
  { til (fun T => { T with sch := { T.sch with fetches := [(0, some { cwa := 0, owner := .dma, stage := st, flying := true })] } }) with
    media := [(0, { cws := [(0, 1)] })] }
theorem witness_OverdueStepsAndCompletedReads :
    ((progs 11).die 0 0 0).prog.map (fun g => (g.steps, g.overdue)) = some (11, false) ∧
    ((erasing 703).die 0 0 0).erase = some (0, 703, 0, false) ∧
    ((reading .first).fetch? 0 0).map (fun f => (f.flying, f.cwa.toNat)) = some (true, 0) ∧
    Tab.find ((reading .first).medium 0).cws 0 = some 1 ∧
    ((reading .first).fetch? 0 0).map (fun f => f.owner) ≠ some .patrol ∧ ((reading .first).stratum 0 (cwaStratum 0)).uncertain = false ∧
    ((reading .retry).fetch? 0 0).map (fun f => (f.stage, f.flying, f.owner)) = some (.retry, true, .dma) ∧
    Tab.find (({ reading .retry with media := [] } : State).medium 0).cws 0 = none ∧
    ((reading (.rebuild 0 0 false)).fetch? 0 0).map (fun f => f.stage) = some (.rebuild 0 0 false) ∧
    ((reading (.rebuild 0 0 true)).fetch? 0 0).map (fun f => f.stage) = some (.rebuild 0 0 true) ∧
    ((til fun T => { T with xlt := { T.xlt with fetching := [1310719] } }).tile 0).xlt.fetching.contains 1310719 = true ∧
    ((til fun T => { T with sec := { T.sec with fetching := [671088639] } }).tile 0).sec.fetching.contains 671088639 = true := by decide +kernel
theorem witness_OverdueStepsAndCompletedReads_child :
    ((til fun T => { T with sch := { T.sch with fetches := [(0, some { cwa := 0, owner := .child 1, stage := .retry, flying := true })] } }).fetch? 0 0).map
      (fun f => (f.owner, f.stage)) = some (.child 1, .retry) ∧
    ((til fun T => { T with sch := { T.sch with fetches := [(0, some { cwa := 0, owner := .recovery, stage := .retry, bucket := 14, flying := true })] } }).fetch? 0 0).map
      (fun f => (f.owner, f.stage, f.bucket)) = some (.recovery, .retry, 14) := by decide
/-- A record of the remap area that waits for so many of its steps. -/
def records (k : Nat) : State := up.modDie 0 0 0 fun x => { x with changes := [{ recs := {}, steps := k }] }
theorem witness_OverdueStepsAndCompletedReads_record : ((records 11).die 0 0 0).prog = none ∧
    ((records 11).die 0 0 0).changes = [{ recs := {}, steps := 11 }] := by decide
/-- A cell of session 3 on tile 0 whose line waits for its merge, or for the outcome of its checks. -/
def lineAt (ph : Phase) (pend : List Nat) : State := til fun T => { T with adm := { T.adm with
  cells := [(64, { sess := 3, seq := 100, op := opPartial, home := 0, tla := 0x40, n := 1, st := .granted, phase := [(0, ph)], pending := pend })]
  queues := [(3, [64])] } }
/-- DATA of session 3 whose checks are over, line 0 having failed. -/
def failedData : State := ses fun S => { S with
  unset := some { dseq := 50, rseq := 100, addr := 0x40, pending := 0, failed := 1, tiles := [], count := 0 } }
def replaying : State := til fun T => { T with ctl := { T.ctl with st := .replay, replayDue := true } }
theorem witness_ChecksMergesSquallsAndReplay :
    (((lineAt (.checking 5 false) []).cell? 0 64).map fun c => c.checks 0) = some true ∧
    (((lineAt .served [0]).cell? 0 64).map fun c => c.checks 0) = some true ∧
    (lineAt .served [0]).placeOf 0 1 = none ∧
    (lineAt (.checking 5 true) []).lineCell 0 { sess := 3, seq := 100, ix := 0 } = some (64, 0) ∧
    ((lineAt (.checking 5 true) []).cell? 0 64).map (fun c => c.phaseAt 0) = some (.checking 5 true) ∧
    ((lineAt .served [0]).cell? 0 64).map (fun c => c.pending.contains 0) = some true ∧
    (lineAt .served [0]).lineCell 0 { sess := 3, seq := 100, ix := 0 } = some (64, 0) ∧
    (lineAt .served [0]).treeBusy 0 ((lineAt .served [0]).slotAt 0 1) = false ∧ (failedData.ses 3).st = .live ∧
    (failedData.ses 3).unset.map (fun v => (v.pending, v.failed)) = some (0, 1) ∧
    (replaying.tile 0).ctl.replayDue = true ∧ (replaying.tile 0).sch.run = true := by decide +kernel
/-- Stratum n of tile 0 as given. -/
def strat (n : Nat) (f : Stratum → Stratum) : State := up.modStratum 0 n f
/-- Stratum 524,287 waits for its erase; every channel has had its 704 steps. -/
def erased : State := (strat 524287 fun g => { g with st := .pendErase, erased := List.range 8 }).modSch 0 fun a =>
  { a with erases := [524287] }
theorem witness_MediumCommands :
    ((progs 12).die 0 0 0).prog.map (fun g => g.steps) = some 12 ∧ ((progs 1).die 0 0 0).prog.map (fun g => g.steps) = some 1 ∧
    (524287 : Nat) < strataLimit ∧ ((strat 524287 fun g => { g with st := .pendErase }).stratum 0 524287).st = .pendErase ∧
    (up.tile 0).sch.fetches = [] ∧ (up.tile 0).sch.erases.contains 524287 = false ∧
    (erased.stratum 0 524287).st = .pendErase ∧ (erased.tile 0).sch.erases.contains 524287 = true ∧
    (∀ k : Fin 8, (erased.stratum 0 524287).erased.contains k.val = true) ∧
    bucketWidth 14 ≤ ((strat 0 fun g => { g with st := .closed, bucket := 14, progress := bucketWidth 14 }).stratum 0 0).progress ∧
    256000 ≤ (((strat 0 fun g => { g with st := .opened }).modMed 0 fun a => { a with dc := 256000 }).tile 0).med.dc.toNat ∧
    (strat 0 fun g => { g with st := .opened }).stratumBusy 0 0 = false ∧
    up.hasTile 7 = true ∧ up.mioOn 7 = true ∧ (up.die 0 0 0).recs.lost = false ∧ (up.die 0 0 0).prog = none ∧
    ((up.modDie 0 0 0 fun x => { x with asked := true, timeouts := 3 }).die 0 0 0).asked = true ∧ (up.tile 0).xlt.ckptSf = none ∧
    (let s := { til (fun T => { T with xlt := { T.xlt with ckptSf := some 0 } }) with sf := 64 }
     (s.tile 0).xlt.ckptSf = some 0 ∧ 64 ≤ s.sf.toNat - (0 : BitVec 40).toNat) ∧
    (((up.modDie 0 0 0 fun x => { x with prog := some { stratum := 0, pos := 0, pages := [{ stream := .map, content := .table 0, gc := true }] } }).die 0 0 0).prog.map
      fun g => g.pages.any fun j => j.gc) = some true ∧ ((erasing 703).die 0 0 0).erase = some (0, 703, 0, false) ∧
    (up.modMed 0 fun a => { a with ageUnknown := true }).surveyLeft 0 = 0 := by decide
/-- A replacement's program on die 0 of channel 0; and tile 0 drained with so many programs of its cairn left. -/
def carrying : State := up.modDie 0 0 0 fun x => { x with
  prog := some { stratum := 0, pos := 0, pages := [{ stream := .hot, content := .carry }], steps := 1 }
  carry := some { failed := { stratum := 0, pos := 5, pages := [] }, dest := 9 } }
def cairns (k : Nat) : State := til fun T => { T with ctl := { T.ctl with draining := true, cairnLeft := k } }
theorem witness_MediumCommands_more :
    ((records 12).die 0 0 0).prog = none ∧ ((records 12).tile 0).ctl.draining = false ∧
    ((records 12).die 0 0 0).changes = [{ recs := {}, steps := 12 }] ∧ (up.die 0 0 0).changes = [] ∧
    ((cairns 2).tile 0).ctl.draining = true ∧ ((cairns 2).tile 0).ctl.cairnLeft ≠ 0 ∧ ((cairns 2).die 0 0 0).recs.lost = false ∧
    ((carrying.die 0 0 0).prog.map fun g => (g.carried, g.steps)) = some (true, 1) ∧ (carrying.die 0 0 0).carry.isSome = true ∧
    ((cairns 2).die 0 0 0).prog = none ∧ Tab.get 0 ((cairns 2).tile 0).ctl.cairnPos 0 < 256 := by decide
/-- A calibration read of codeword 0 under way, in a stratum as given. -/
def calibrated (f : Stratum → Stratum) : State := (up.modStratum 0 0 f).modSch 0 fun a => { a with
  fetches := [(0, some { cwa := 0, owner := .patrol, flying := true })] }
theorem witness_PatrolHousekeepingRolloverAndPasses_patrol :
    (let s := calibrated fun g => { g with st := .closed, bucket := 5 }
     s.patrolled 0 0 ≠ [] ∧
     (s.stratum 0 0).st = .closed ∧ (s.stratum 0 0).uncertain = false ∧ (s.stratum 0 0).bucket.toNat = 5 ∧ (s.stratum 0 0).stream = .hot) ∧
    (let s := calibrated fun g => { g with st := .closed, uncertain := true }
     s.patrolled 0 0 ≠ [] ∧ (s.stratum 0 0).uncertain = true ∧ fewest (List.replicate 16 none) = none ∧
     fewest (none :: List.replicate 15 (some 7)) = some 7) ∧
    (let s := (up.modStratum 0 0 fun g => { g with st := .closed, stream := .map }).modMed 0 fun a => { a with pfound := some .lost, pnext := some 0 }
     s.patrolled 0 0 = [] ∧ (s.tile 0).med.pfound = some .lost ∧ (s.tile 0).med.pnext = some 0 ∧ (s.stratum 0 0).st = .closed ∧
     (s.stratum 0 0).stream = .map) ∧
    ((calibrated fun g => { g with st := .pendErase }).stratum 0 0).st ≠ .closed := by decide
/-- A group of tile 0 whose lines have been pulled, its counters at hand. -/
def rolled : State := til fun T => { T with
  adm := { T.adm with staged := (List.range 64).map fun l => (l, { data := 0, ord := 0 }) }
  sec := { T.sec with rolling := [(0, [])], cached := [(0, some false)] } }
def passing : State := rgn fun g => { g with pass := true, reached := (List.range 8).map fun t => (t, g.groups .gx880) }
theorem witness_PatrolHousekeepingRolloverAndPasses :
    up.hasTile 0 = true ∧ up.coreOn 0 = true ∧ up.clk.refHold = false ∧ diodeReads .shorted = .inr 2 ∧
    diodeReads (.value 601) = .inr 3 ∧ diodeReads (.value (-161)) = .inr 3 ∧ diodeReads (.value 600) = .inl 600 ∧
    diodeReads (.value (-160)) = .inl (-160) ∧ (up.tile 0).ctl.loaded = true ∧ (up.tile 0).ctl.st ≠ .faultReset ∧
    (passing.rgn 0).pass = true ∧ passing.passReached 0 = true ∧
    passing.fitted.any (fun v => decide (passing.stalledIn v 0 ≠ [])) = false ∧
    ({ passing with tiles := passing.tiles.map fun e => (e.1, { e.2 with sec := { e.2.sec with stalled := [0] } }) } : State).fitted.any
      (fun v => decide (passing.stalledIn v 0 ≠ [])) = false := by decide
theorem witness_PatrolHousekeepingRolloverAndPasses_image :
    (rolled.tile 0).sec.rolling.find? (fun e => decide (e.1 = 0)) = some (0, []) ∧ rolled.rgnOfLine 0 0 = some 0 ∧
    rolled.compactAt 0 0 = false ∧ rolled.lostAt 0 0 = false ∧ rolled.imagedAt 0 0 = false ∧ rolled.passing 0 = false ∧
    (∀ l ∈ groupLines false 0, rolled.claimed 0 l = false ∧ rolled.pinnedAt 0 l = false ∧ rolled.resident 0 l = true ∧
      Tab.find (rolled.tile 0).adm.staged l = some { data := 0, ord := 0 }) ∧
    rolled.tractDue 0 0 = false ∧ rolled.unmapping 0 0 = false ∧ rolled.mayChange 0 0 = true ∧ (rolled.tile 0).xlt.folds = [] ∧
    rolled.ctrReady 0 0 = true ∧ (rolled.tile 0).sec.room = true := by decide +kernel
theorem witness_ParityChannelOfAStratum : up.narrowOf 0 (7 * 65536 + 65535) = none ∧ (65535 : Nat) < 65536 := by decide
/-- Region 0 DISABLED and locked by session 3. -/
def bare : State := rgn fun g => { g with st := .disabled, held := true, holder := 3, hepoch := 7 }
theorem witness_AdminStepsAreJournalled :
    (bare.rgn 0).held = true ∧ (bare.rgn 0).resolving = none ∧ (bare.rgn 0).steps.length < 16 ∧ bare.rgnBusy 0 = false ∧
    bare.reach (rgnAddr 0 0).toNat = true ∧ bare.reach (rgnAddr 0 4).toNat = true ∧ bare.reach (rgnAddr 0 8).toNat = true ∧
    bare.stepStatus 0 { base := some 1 } = none ∧ bare.stepStatus 0 { size := some 1 } = none ∧
    bare.stepStatus 0 { ctl := some 1 } = none ∧ bare.stepStatus 0 (bare.cmdWrite 0 1) = none ∧
    bare.stepStatus 0 (bare.cmdWrite 0 2) = some stRange := by decide
def inState (st : RgnSt) : State := rgn fun g => { g with st, held := true, holder := 3, hepoch := 7 }
theorem witness_AdminStepsAreJournalled_commands :
    (inState .readOnly).stepStatus 0 ((inState .readOnly).cmdWrite 0 2) = none ∧
    (inState .online).stepStatus 0 ((inState .online).cmdWrite 0 3) = none ∧
    (inState .online).stepStatus 0 ((inState .online).cmdWrite 0 4) = none ∧
    (inState .offline).stepStatus 0 ((inState .offline).cmdWrite 0 5) = none ∧
    (inState .offline).stepStatus 0 ((inState .offline).cmdWrite 0 6) = none ∧
    (inState .online).stepStatus 0 ((inState .online).cmdWrite 0 7) = none ∧
    up.stepStatus 0 (up.cmdWrite 0 8) = some stRange := by decide
/-- A LOST entry of tile 0 that names region 0. -/
def lostIn : State := til fun T => { T with sec := { T.sec with
  lost := [(0, some { first := 0, level := 0, cause := 1, regions := 1, live := true })] } }
theorem witness_AdminStepsAreJournalled_lost :
    lostIn.stepStatus 0 (lostIn.cmdWrite 0 8) = none ∧ lostIn.stepStatus 0 (lostIn.cmdWrite 0 9) = none := by decide
def shutting (st : RgnSt) (disabling : Bool) : State := rgn fun g => { g with st, disabling, zeroed := List.finRange 8 }
theorem witness_ShutdownsAndLeases :
    (shutting .stopping false).rgnBusy 0 = false ∧ (shutting .stopping false).partsIn 0 false = false ∧
    (shutting .zeroizing true).unmapped 0 = true ∧ ((shutting .zeroizing true).rgn 0).disabling = true ∧
    ((shutting .zeroizing false).rgn 0).disabling = false ∧
    ((locked none).rgn 0).expiry = some 9 ∧ ((locked (some 2)).rgn 0).resolving = some 2 ∧ ((locked (some 2)).rgn 0).steps = [] ∧
    (locked (some 2)).ldg.waits (fun d => decide (d = .resolved 0)) = false := by decide
/-- A broken journal with one idempotent step, to take region 0 offline, not finished; and one whose step is to be undone. -/
def broken (idem : Bool) : State := rgn fun g => { g with
  held := true, holder := 3, hepoch := 7, resolving := some 2, jid := 5
  steps := [{ addr := 0x110108, count := 1, idem, written := 4, olds := [0, 0, 0], news := [0, 0, 8] }]
  acts := [{ id := 5, k := 0, cmd := 4 }] }
theorem witness_ShutdownsAndLeases_steps :
    (broken true).rgnBusy 0 = false ∧ ((broken true).rgn 0).steps.map (fun p => p.idem) = [true] ∧ ((broken true).rgn 0).finished = 0 ∧
    ((broken true).rgn 0).steps.map (fun p => (broken true).stepStatus 0 p.writes) = [none] ∧
    (((broken true).modRgn 0 fun g => { g with st := .offline }).rgn 0).steps.map
      (fun p => ((broken true).modRgn 0 fun g => { g with st := .offline }).stepStatus 0 p.writes) = [some stRange] ∧
    (broken true).passing 0 = false ∧ ((broken false).rgn 0).steps.map (fun p => p.idem) = [false] := by decide
theorem witness_LeaseBreaksOnce : ((locked none).rgn 0).held = true ∧ (up.rgn 0).held = false ∧
    ((locked (some 1)).rgn 0).resolving ≠ none := by decide
theorem witness_SramUncorrectableWords : up.hasTile 0 = true ∧ up.sramOn 0 = true ∧ up.meshOn = true := by decide
theorem witness_PendingAndTroubleClears : up.reach 0x40100 = true ∧ up.reach (0x40100 + 4 * 8) = true ∧ up.reach 0x40004 = true ∧
    (287#9).toNat < 288 ∧ ¬(288#9).toNat < 288 := by decide
/-- Counter 5 of tile 0 runs, at its last value; with sampling one occurrence short of its period. -/
def counting (cnt : BitVec 48) (period : BitVec 24) : State := til fun T => { T with pmc := { T.pmc with
  run := true, cfg := [(5, 0x6000)], cnt := [(5, cnt)], period } }
theorem witness_CounterOverflowContinuesFromZero : (counting 0xFFFFFFFFFFFF 0).pmcRuns 0 5 = true ∧
    (counting 0xFFFFFFFFFFFF 0).evt.loaded = true ∧
    Tab.get 0 ((counting 0xFFFFFFFFFFFF 0).tile 0).pmc.cnt 5 = 0xFFFFFFFFFFFF#48 ∧
    ((counting 0xFFFFFFFFFFFF 0).tile 0).pmc.period = 0 := by decide
theorem witness_PerformanceCountersAndSamples : (counting 99 100).pmcRuns 0 5 = true ∧
    pmcSample (Tab.get 0 ((counting 99 100).tile 0).pmc.cfg 5) = true ∧ ((counting 99 100).tile 0).pmc.period ≠ 0 ∧
    ((Tab.get 0 ((counting 99 100).tile 0).pmc.cnt 5).toNat + 1) % ((counting 99 100).tile 0).pmc.period.toNat = 0 ∧
    up.reach (tileAddr 7 0x70000) = true ∧ up.reach (tileAddr 7 (0x70100 + 4 * 63)) = true ∧
    up.reach (tileAddr 7 0x70014) = true := by decide
theorem witness_CounterSetsAreCleared : up.reach (portAddr 0 0x10) = true ∧ up.reach (tileAddr 7 0x20014) = true ∧
    up.reach (tileAddr 7 0x30030) = true ∧ up.reach (tileAddr 7 (0x400F0 + 0x1000 * 7)) = true ∧ up.reach (tileAddr 7 0x48018) = true ∧
    up.reach (tileAddr 7 0x5001C) = true ∧ up.reach (tileAddr 7 0x60014) = true ∧ up.reach (tileAddr 7 0x80000) = true ∧
    up.reach 0x10000 = true ∧ up.reach 0x30000 = true ∧ up.reach (tileAddr 7 0x30000) = true := by decide
def linked (x : LinkSt) : State := { up with ports := [(0, { ctl := 1, links := [(0, x)] })] }
theorem witness_PortsAndLinks : up.reach (portAddr 0 0) = true ∧ up.reach (portAddr 15 0) = true ∧ up.portStopping 0 = false ∧
    (linked .stopping).portStopping 0 = true ∧ (linked .training).link 0 0 = .training ∧ up.link 0 0 = .up ∧
    (1#32).getLsbD 7 = false := by decide
/-- Ports 0 and 1 enabled: a link of port 0 trains, and port 1 is down. -/
def twoPorts : State := { up with ports := [(0, { ctl := 1, links := [(0, .training)] }), (1, { ctl := 1 })] }
theorem witness_PortsAndLinks_up :
    (let s := ((linked .training).setLink 0 0 .up).mile 6
     ∀ q, s.portMay q = true → (s.port q).enable = true → s.portReady q = true) ∧
    (let s := (twoPorts.setLink 0 0 .up).mile 6
     s.portMay 1 = true ∧ (s.port 1).enable = true ∧ s.portReady 1 = false) ∧
    twoPorts.portMay 1 = true ∧ (twoPorts.port 1).enable = true ∧ twoPorts.portDown 1 = true ∧ (0x81#32).getLsbD 7 = true ∧
    ({ up with ports := [(0, { ctl := 0, links := [(0, .stopping)], rstPend := true })] } : State).portStopping 0 = true := by decide +kernel
theorem witness_LinkStatesAndTheirSessions : up.link 0 0 ≠ .training ∧ (up.ses 3).st = .live ∧ (up.ses 3).port = 0 ∧
    (up.ses 3).link = 0 ∧ up.link 0 1 ≠ .up := by decide
/-- Tile 0 drains; PWRFAIL_N is low; the final record is due. -/
def drains : State := til fun T => { T with ctl := { T.ctl with draining := true } }
def lowPower (st : SupSt) : State := sup fun v => { v with st, pwrfail := true }
def finals : State := sup fun v => { v with st := .draining, finalCause := 1, fellIn := .on }
theorem witness_PowerLossAndItsRecords : up.sup.pwrfail = false ∧ up.sup.st = .on ∧ up.clk.refHold = false ∧
    (drains.tile 0).ctl.recReq = false ∧ (drains.tile 0).ctl.draining = true ∧
    finals.sup.finalCause ≠ 0 ∧ finals.sup.finalReq = false ∧ finals.sup.drained = true ∧ finals.ldg.warned = false ∧
    (sup fun v => { v with finalReq := true }).sup.finalReq = true ∧
    (lowPower .on).sup.pwrfail = true ∧ (lowPower .standby).sup.st = .standby ∧
    (sup fun v => { v with st := .off, byPwrfail := true, pwrHighAt := some 0, cfg := 0x800A2040 }).sup.pwrfail = false := by decide
/-- Tile 0 has been packed and its checkpoint is done. -/
def packedUp : State := til fun T => { T with ctl := { T.ctl with packing := true, lastCkpt := 2 } }
theorem witness_PowerLossAndItsRecords_standby : (sup fun v => { v with st := .standby }).sup.anyOn = true ∧
    (sup fun v => { v with st := .standby, rails := [], doms := [] }).sup.anyOn = false ∧
    (drains.tile 0).ctl.cairnLeft = 0 ∧ (lowPower .standby).sup.pwrfail = true := by decide
theorem witness_PowerLossAndItsRecords_packed : (packedUp.tile 0).ctl.draining = false ∧ (packedUp.tile 0).ctl.packing = true ∧
    packedUp.packed 0 = true ∧ (packedUp.tile 0).ctl.lastCkpt = 2 ∧ (packedUp.tile 0).ctl.recReq = false ∧
    (sup fun v => { v with st := .poweringUp }).sup.pwrfail = false ∧ (sup fun v => { v with st := .offWait }).sup.st = .offWait := by decide
theorem witness_PowerLossAndItsRecords_auto_on :
    (let s := sup fun v => { v with st := .off, byPwrfail := true, pwrHighAt := some 0, cfg := 0x000A6040 }
     s.sup.pwrHighAt = some 0 ∧ s.sup.st = .off ∧ s.sup.autoOn = true ∧ s.sup.byPwrfail = true ∧ s.sup.pwrfail = false) := by decide
/-- The supervisor before the on programme, after the recall. -/
def standby : State := { sup (fun v => { v with st := .standby, pwrHighAt := some 0, onDue := true, rails := [] }) with
  boot := { recalled := true } }
theorem witness_OffOnAndTheirTimes : up.reach 0x10000 = true ∧ up.sup.st = .on ∧ (sup fun v => { v with st := .off }).sup.st = .off ∧
    (sup fun v => { v with st := .stopping, drainTiles := [0] }).sup.drainTiles.contains 0 = true ∧
    (sup fun v => { v with st := .offWait, pendOn := true }).sup.pwrHighAt = none ∧ (sup fun v => { v with st := .offWait }).sup.pendOn = false ∧
    standby.boot.recalled = true ∧ standby.boot.vgpio = false ∧ standby.sup.preludeFail = false ∧ (standby.sup.rail 1).st ≠ .on ∧
    (sup fun v => { v with preludeFail := true }).sup.preludeFail = true ∧
    standby.sup.pwrHighAt = some 0 ∧ standby.sup.pwrfail = false ∧ standby.sup.onDue = true := by decide
theorem witness_OffOnAndTheirTimes_more : (sup fun v => { v with st := .stopping, drainTiles := [0] }).sup.drainSeen.contains 0 = false ∧
    (let s := sup fun v => { v with st := .recovering, action := some (.system 3), sysPhase := 3, sysOff := true }
     s.sup.action = some (.system 3) ∧ s.sup.sysPhase = 3 ∧ s.sup.sysOff = true) ∧
    (let s := { up with boot := { recalled := true } }
     s.sup.startsUp = true ∧ s.boot.vgpio = false ∧ (s.sup.rail 1).st = .on ∧ s.sup.preludeFail = false ∧ s.sup.prelude = false ∧
     s.clk.refHold = false) ∧ standby.sup.startsUp = true ∧ standby.sup.prelude = false ∧
    (let s := standby.modSup fun v => { v with prelude := true }
     s.sup.prelude = true ∧ s.sup.running = false) ∧
    (let s := sup fun v => { v with st := .recovering, action := some (.system 3) }
     s.sup.st = .recovering ∧ s.sup.action = some (.system 3)) ∧ (sup fun v => { v with st := .recovering }).sup.action = none := by
  decide
theorem witness_OffOnAndTheirTimes_waiting_on :
    (let s := sup fun v => { v with st := .off, pendOn := true, pwrHighAt := some 0 }
     s.powered = true ∧ s.sup.pwrHighAt = some 0 ∧ s.sup.pwrfail = false ∧ s.sup.st = .off ∧ s.sup.pendOn = true) := by decide
/-- A programme runs at an instruction word, begun or not. -/
def prog (w : Word) (busy : Bool) : State := sup fun v => { v with st := .poweringUp, running := true, pon := [w], busy }
theorem witness_SequencerInstructions :
    (sup fun v => { v with running := true, progOff := true, poff := [0] }).sup.at_ 0 = true ∧ (prog 0 false).sup.at_ 0 = true ∧
    (prog 0 false).sup.progOff = false ∧ (prog 0 false).boot.onProg = true ∧
    (prog 0x10000000 false).sup.at_ 1 = true ∧ (prog 0x20000000 false).sup.at_ 2 = true ∧ (prog 0x30000010 false).sup.at_ 3 = true ∧
    seqOp (prog 0x30000010 true).sup.word = 3 ∧ (prog 0x40000002 false).sup.at_ 4 = true ∧
    (prog 0x40000002 false).sup.inRail 2 = true ∧ chkRail 0x40000002 = 2 ∧ ((prog 0x40000002 false).sup.rail 2).en = true ∧
    (prog 0x50000003 false).sup.at_ 5 = true ∧ (0x50000003#32).toNat / 256 % 16 = 0 ∧ (prog 0x60000001 false).sup.at_ 6 = true ∧
    (prog 0x40000002 true).sup.retryCheck = none ∧ (prog 0x40000002 true).sup.preludeCheck = false ∧ chkLow 0x40000002 = false := by decide
theorem witness_SequencerInstructions_ends :
    (let u := (sup fun v => { v with running := true, progOff := true, poff := [0] }).sup
     u.resume = none ∧ u.action = none) ∧
    (let u := (sup fun v => { v with running := true, progOff := true, poff := [0], resume := some 5 }).sup
     u.resume = some 5 ∧ u.heldOff = false ∧ u.at_ 0 = true) ∧
    (let s := ({ prog 0 false with boot := { up.boot with onProg := false } } : State)
     s.sup.at_ 0 = true ∧ s.sup.progOff = false ∧ s.boot.onProg = false ∧ s.boot.config = true) := by decide
/-- VCORE off, what it needs on; an ENABLE of it, and a DISABLE of it while on. -/
def enabling : State := (prog 0x10000008 false).modSup fun v => { v with rails := Tab.put {} v.rails 3 { cfg := Rail.cfgOf 3 } }
theorem witness_SequencerInstructions_rails :
    seqRail 0x10000008 3 = true ∧ enabling.sup.word = 0x10000008 ∧ enabling.sup.at_ 1 = true ∧ enabling.sup.inRail 3 = true ∧
    (enabling.sup.rail 3).st = .off ∧ enabling.sup.depsOn 3 = true ∧ (∀ y, (enabling.sup.rail y).st ≠ .failed) ∧
    seqRail 0x20000008 3 = true ∧ ((prog 0x20000008 false).sup.rail 3).en = true ∧
    chkLow 0x4000000A = true ∧ (sup fun v => { v with subset := some ([], []) }).sup.inRail 2 = false ∧
    (0x50001103#32).toNat / 256 % 16 = 1 ∧ (0x50001103#32).toNat / 4096 % 8 = 1 ∧ (up.sup.rail 1).st = .on ∧
    (let u := (sup fun v => { v with action := some (.retry 3), rails := Tab.put {} v.rails 3 { en := true, st := .checking } }).sup
     u.retryCheck = some 3 ∧ u.preludeCheck = false) := by decide
def domain (st : DomSt) : State := sup fun v => { v with doms := Tab.put {} v.doms 2 { st } }
theorem witness_DomainsRailsAndActions : up.hasDom 2 = true ∧ ((domain .starting).sup.dom 2).st = .starting ∧
    ((domain .stopping).sup.dom 2).st = .stopping ∧ (up.sup.rail 3).st = .on ∧ up.sup.filt = 8 ∧
    (sup fun v => { v with action := some (.retry 3), rails := [] }).sup.action = some (.retry 3) ∧
    ((sup fun v => { v with rails := [] }).sup.rail 3).en = false ∧
    (sup fun v => { v with action := some (.system 3) }).sup.sysPhase = 0 ∧
    (sup fun v => { v with action := some (.system 3), sysPhase := 1 }).sup.sysPhase = 1 := by decide
theorem witness_DomainsRailsAndActions_falls : (3 : RailId).val ≠ 0 ∧ (7 : Nat) < up.sup.filt ∧
    (sup fun v => { v with st := .standby }).sup.st = .standby ∧ (sup fun v => { v with st := .off }).sup.st = .off := by decide
theorem witness_DomainsRailsAndActions_more :
    (∀ y : RailId, y = 2 ∨ y = 3 ∨ y = 6 ∨ y = 7 → (up.sup.rail y).pg = true ∧ (up.sup.rail y).st = .on) ∧
    ((up.modSup fun v => { v with sysPhase := 1, drainSeen := up.seenTiles, drainTiles := up.seenTiles, clean := false }).signalDrain).sup.drained = false ∧
    (let s := { up with tiles := (List.range 8).map fun t => (t, { tileUp with ctl := { tileUp.ctl with st := .stopped } }) }
     ((s.modSup fun v => { v with sysPhase := 1, drainSeen := s.seenTiles, drainTiles := s.seenTiles, clean := false }).signalDrain).sup.drained = true) ∧
    (let s := sup fun v => { v with st := .poweringUp, passed := [3] }
     s.sup.passed.contains 3 = true ∧ (s.sup.rail 3).st = .on) := by decide +kernel
theorem witness_ColdResetNeedsFourClocks : up.powered = true ∧ up.held = false ∧ exec (.coldReset (.resetN 3)) up = .next up := ⟨rfl, rfl, rfl⟩
def warmAsked : State := { up with clk := { up.clk with warmReq := some 6 } }
theorem witness_NoSessionSurvivesAReset : warmAsked.powered = true ∧ warmAsked.clk.refHold = false ∧ warmAsked.clk.warmReq = some 6 ∧
    warmAsked.sup.st ≠ .poweringUp := by decide
/-- An SMBus access and an in-band access held pending. -/
def pend (due : Bool) : Pend := { dom := 2, addr := 0, write := false, vals := [], left := 1, due }
def held : State := { up with clk := { up.clk with smb := some (pend true), ib := some (pend false), refHold := false } }
theorem witness_ResetsAndClocks : up.reach 0x8 = true ∧ faultCause 1 = true ∧ faultCause 8 = true ∧ up.reach (tileAddr 7 0) = true ∧
    ({ up with clk := { up.clk with refHold := true } } : State).clk.refHold = true ∧ up.clk.refHold = false ∧
    (58 : GenId).val % 8 = 2 ∧ (58 : GenId).val / 8 < up.part.tiles ∧
    held.clk.ib = some (pend false) ∧ held.stoppedAt 0 = none ∧ held.clk.smb = some (pend true) ∧ (pend false).due = false ∧
    (blockOf 0).map Prod.fst = (blockOf 0).map Prod.fst ∧ (0 : TileId).val = (0 : GenId).val / 8 ∧ Tab.get 0 up.clk.lockAt 58 ≤ up.now ∧
    ({ warmAsked with clk := { warmAsked.clk with refHold := true } } : State).clk.refHold = true ∧
    (pend true).req = none ∧ ((pend true).dap || (pend true).write) = false ∧
    (({ pend true with dap := true } : Pend).dap || (pend true).write) = true ∧ up.reach 0x20004 = true := by decide
theorem witness_ResetsAndClocks_more : up.genDom (58 : GenId).val = .on ∧ up.genDom 0 = .on ∧ up.genDom 3 = .on ∧
    (tileUp.ctl.st = .inService) ∧ ((til fun T => { T with ctl := { T.ctl with st := .stopped } }).tile 0).ctl.st = .stopped ∧
    ((til fun T => { T with ctl := { T.ctl with st := .stopping, enable := false } }).tile 0).ctl.st = .stopping ∧
    (let d : Pend := { dom := 1, addr := 4, write := true, vals := [5], left := 1, due := false }
     let s := { up with clk := { up.clk with smb := some d } }
     s.stoppedAt 4 = none ∧ d.req = none ∧ (State.writeAll [] d.vals d.addr.toNat { s with clk := { s.clk with smb := none } }).1.stop = none) ∧
    (let j := ((pend false).dom - 2) % 29
     2 ≤ (pend false).dom ∧ j < 9 ∧ (0 : TileId).val = ((pend false).dom - 2) / 29 % 8) ∧
    (let d := 2 + 17
     let j := (d - 2) % 29
     9 ≤ j ∧ j < 27 ∧ (1 : PortId).val = 2 * ((d - 2) / 29 % 8) + (if j < 17 ∨ j = 25 then 0 else 1)) ∧ up.held = false := by decide
/-- Tile 0 before its start-up steps. -/
def starting (f : Tctl → Tctl) : State := til fun T => { T with ctl := f { T.ctl with st := .starting }, sch := {} }
theorem witness_StartUpSteps :
    State.reset.ldg.recalling = true ∧ (let s : State := { standby with boot := { vgpio := true }, cfg := {}, sup := up.sup }
     s.cfg.st = .idle ∧ s.bankUp = true ∧ s.sup.startsUp = true ∧ s.boot.config = false ∧ s.clk.refHold = false) ∧ standby.clk.warmReq = none ∧
    (let s : State := { up with cfg := { up.cfg with st := .tilePhase } }
     s.cfg.st = .tilePhase ∧ s.toLoad = [] ∧ s.phaseEnds = true ∧ s.bankUp = true ∧ s.clk.warmReq = none) ∧ up.meshOn = true ∧ up.boot.onProg = true ∧
    ({ up with boot := { config := true } } : State).boot.tables = false ∧
    ((starting fun c => { c with medInit := false }).tile 0).ctl.medInit = false ∧
    ((starting fun c => c).tile 0).ctl.loaded = true ∧ ((starting fun c => c).tile 0).sch.run = false ∧
    (starting fun c => c).recovered 0 = true ∧ (∀ r, (up.rgn r).resolving = none) ∧ up.boot.served = true := by decide
/-- Tile 0 with nothing to recover from. -/
def fresh : State := til fun T => { T with ctl := { T.ctl with st := .starting, recovery := 0 } }
theorem witness_StartUpSteps_recovery : (fresh.tile 0).ctl.st = .starting ∧ (fresh.tile 0).med.mapLost = none ∧
    (fresh.tile 0).ctl.recovery = 0 ∧ (fresh.tile 0).ctl.recRead = false ∧ fresh.recCws 0 (fresh.choice 0) = [] ∧
    fresh.reading 0 .recovery = false ∧ fresh.unreadable 0 (fresh.choice 0) = none ∧ ∀ r, ((fresh.performRecovery 0 (fresh.choice 0)).rgn r).st ≠ .zeroizing := by decide
/-- Tile 0 while it recovers by a reload, and with an item of the MAP stream lost. -/
def reloading (k : Nat) : State := til fun T => { T with ctl := { T.ctl with st := .starting, recovery := 2, lastCkpt := k } }
theorem witness_StartUpSteps_more : fresh.boot.tables = true ∧ fresh.unresolved = false ∧ (fresh.tile 0).sch.run = true ∧
    (let s := (fresh.modXlt 0 fun a => { a with ckptPages := [7] }).modCtl 0 fun c => { c with recRead := true, recBad := [0x75] }
     s.recCws 0 5 ≠ [] ∧ s.reading 0 .recovery = false ∧ s.unreadable 0 5 = some 7) ∧
    ((til fun T => { T with ctl := { T.ctl with st := .starting }, med := { T.med with mapLost := some 7 } }).tile 0).med.mapLost = some 7 ∧
    ((reloading 0).tile 0).ctl.recovery = 2 ∧ (reloading 0).packed 0 = true ∧ ((reloading 2).tile 0).ctl.lastCkpt = 2 ∧
    ((reloading 2).tile 0).ctl.consReq = false ∧ up.sup.goesDown = false ∧
    up.ldg.waits (fun d => match d with | .ikeySet _ => true | _ => false) = false ∧ up.ldg.waits (fun d => decide (d = .served)) = false ∧
    (({ up with boot := { up.boot with served := false } } : State).boot.served = false) := by decide +kernel
def committing : State := up.commit 0x70000 (.user [5]) []
theorem witness_LedgerAndConfiguration : committing.ldg.flight ≠ [] ∧ up.reach 0xF0000 = true ∧ up.reach 0xFEFFC = true ∧
    up.reach 0x80000 = true ∧ up.reach 0xEFFFC = true ∧ up.reach 0xFF060 = true ∧ up.ldg.keySet = false ∧
    ({ up with ldg := { up.ldg with keySet := true } } : State).ldg.keySet = true ∧ up.reach 0x50004 = true ∧
    ({ up with cfg := { st := .fail } } : State).cfg.st = .fail := by decide +kernel
def thermal (f : Thm → Thm) : State := up.modThm 0 f
theorem witness_ThermalStopsAndResume :
    ((thermal fun h => { h with st := .warm, valids := List.replicate 16 0 }).thmT 0).below up.cfg.fallRounds up.cfg.warmClr = true ∧
    ((thermal fun h => { h with st := .hot, valids := List.replicate 16 0 }).thmT 0).below up.cfg.fallRounds up.cfg.hotClr = true ∧
    up.thmLive 0 = true ∧ 2 ≤ ((thermal fun h => { h with hotRun := 2 }).thmT 0).hotRun ∧ (up.thmT 0).hold = false ∧
    (let h := (thermal fun h => { h with hold := true, st := .tooHot }).thmT 0
     h.hold = true ∧ h.last.length < up.cfg.fallRounds) ∧ 0 < ((thermal fun h => { h with badRun := 255 }).thmT 0).badRun ∧
    up.cfg.invalidRounds ≤ ((thermal fun h => { h with badRun := 255 }).thmT 0).badRun ∧ up.reach 0x30000 = true := by decide
def readSet : SmbWrite := { code := 0x21, count := 5, data := [0x04, 0x00, 0x01, 0x00, 8] }
def regWrite : SmbWrite := { code := 0x20, count := 8, data := [0x40, 0, 0, 0, 1, 0, 0, 0] }
theorem witness_ManagementBusAndRegisters : up.smbUp = true ∧ up.ldg.recalling = false ∧ readSet.data.length = 5 ∧
    ofLe (slice readSet.data 4 1) = 8 ∧ regWrite.count.toNat = 4 + 4 * 1 ∧ regWrite.data.length = regWrite.count.toNat ∧
    up.clk.smb = none ∧ up.smb.set = none ∧ up.alert = false ∧
    ({ up with evt := { up.evt with pend := [0], route := [(0, { smb := true })] } } : State).alert = true ∧
    up.reach 0x40004 = true ∧ (blockOf 0x40004).isSome = true := by decide
theorem witness_ManagementBusAndRegisters_accesses :
    verdict .smb true 4 1 = .ok ∧ (State.writeOn [] [1#32] 4 up).1.stop = none ∧
    verdict .smb false 4 1 = .ok ∧ (up.readOn 0 1 4 {}).1.stop = none := by decide
/-- An access of a register of tile 0 while its domains are off; a write of the user area; what the other clauses start from. -/
theorem witness_ManagementBusAndRegisters_more :
    (let s := sup fun v => { v with doms := [] }
     verdict .smb true (tileAddr 0 0x20014) 1 = .ok ∧ (State.writeAll [.smbAck] [1#32] (tileAddr 0 0x20014) s).1.stop ≠ none) ∧
    (let w := State.writeAll [.smbAck] [5#32] 0xF0000 up
     w.1.stop = none ∧ w.2.ldg.waits (fun d => decide (d = .smbAck)) = true) ∧
    (let w := State.writeAll [.smbAck] [5#32] 4 up
     w.1.stop = none ∧ w.2.ldg.waits (fun d => decide (d = .smbAck)) = false) ∧
    verdict .smb true 2 1 = .range ∧ verdict .smb false 2 1 = .range ∧ verdict .smb true (rgnAddr 0 0).toNat 1 = .denied ∧ ({ up with smb := { stretch := some 0 } } : State).smb.stretch = some 0 ∧
    ({ up with clk := { up.clk with smb := some { dom := 2, addr := 0, write := false, vals := [], left := 1 } } } : State).clk.smb =
      some { dom := 2, addr := 0, write := false, vals := [], left := 1 } ∧ State.reset.smbUp = false := by decide +kernel
def opened : State := { up with dbg := { en := true } }
theorem witness_DebugPortAndTestDma : up.tapUp = true ∧ tapCodes.contains 0x06 = false ∧ tapCodes.contains 0x22 = false ∧
    up.dbgOpen = false ∧ opened.dbgOpen = true ∧ opened.clk.smb = none ∧ verdict .dap true 0x60008 1 = .ok ∧
    (State.writeAll [] [1#32] 0x60008 opened).1.stop = none ∧ (opened.readOn 0 1 0x60008 {}).1.stop = none ∧ State.reset.tapUp = false ∧
    opened.hasTile 0 = true ∧ opened.coreOn 0 = true ∧ opened.mioOn 0 = true ∧ opened.clk.refHold = false ∧
    opened.dbg.words.find? (fun e => decide (e.1 = (0, 2, opened.dbg.maddr))) = none ∧
    ({ opened with dbg := { opened.dbg with words := [((0, 2, 0), 7)] } } : State).dbg.words.find?
      (fun e => decide (e.1 = (0, 2, 0))) = some ((0, 2, 0), 7) ∧
    (let e : Pend := { dom := 2, addr := 0, write := false, vals := [], left := 1, dap := true }
     ({ opened with clk := { opened.clk with smb := some e } } : State).clk.smb = some e) ∧
    (let s := { opened with dbg := { opened.dbg with dmaBusy := true } }
     s.dbg.dmaBusy = true ∧ (s.tile 0).sch.fetches = []) ∧ protectedStruct 2 = false ∧ opened.reach 0x60004 = true ∧
    opened.protectedStratum 0 (pageStratum 0) = false ∧
    (opened.modStratum 0 0 fun g => { g with st := .closed }).protectedStratum 0 (pageStratum 0) = true ∧
    opened.protectedStratum 0 524286 = true ∧ opened.dbg.dmaBusy = false ∧ protectedStruct 0xB = true ∧
    (opened.payload 0 (cwAddr 0 0)) = none ∧
    ({ opened with media := [(0, { cws := [(0, 1)] })] } : State).payload 0 (cwAddr 0 0) = some 1 := by decide +kernel
theorem witness_StoredCodewordsStandUnderTheOtherCommands : ∃ t, exec (.gapNakResend 3) up = .next t := ⟨_, rfl⟩

theorem witness_EveryStepKeepsPartQueueAndTime : ∃ t, step { up with pending := [.gapNakResend 3] } = .next t := ⟨_, rfl⟩
theorem witness_WellFormedCommandsComplete : (Instr.gapNakResend 3).wellFormed = true ∧ (Instr.bypass 0x22).wellFormed = true := by decide
theorem witness_OccurrencesArePendingAndRecorded : isFault 0 = true ∧ isFault 287 = false ∧ isFault 15 = false := by decide

/-! ### Facts of the spec, worked out by hand or from its worked examples -/

/-- 01, worked example: the two lines at 0x8123_4FC0 lie on tiles 4 and 5. -/
theorem test_address_finds_its_tiles :
    PartNo.tileOf .gx880 0x81234FC0 = 4 ∧ PartNo.tlaOf .gx880 0x81234FC0 = 0x10246FC0 ∧
    PartNo.tileOf .gx880 0x81235000 = 5 ∧ PartNo.tlaOf .gx880 0x81235000 = 0x10246000 := by decide
/-- 06, worked example: the codeword of the token. -/
theorem test_codeword_address : cwaDie 0x11D28D450 = 2 ∧ cwaSlab 0x11D28D450 = 0x3A51 ∧ cwaChan 0x11D28D450 = 5 ∧
    cwaPage 0x11D28D450 = 17 ∧ cwaPlane 0x11D28D450 = 1 ∧ cwaCw 0x11D28D450 = 0 := by decide
/-- 07, worked example: the parity channel of stratum 146,001, and of its narrow form without channel 5. -/
theorem test_parity_channel : cwaStratum 0x11D28D450 = 146001 ∧ parityChan 146001 = 3 ∧ parityChanNarrow 146001 5 = 0 := by decide
/-- 08, R224: the two words of the example frame. -/
theorem test_schedule_words :
    wDie 0x00012D41 = 0 ∧ wWin 0x00012D41 = 1 ∧ wXf 0x00012D41 = true ∧ wXfDie 0x00012D41 = 6 ∧ wStart 0x00012D41 = false ∧
    wTake 0x00012D41 = true ∧ wDie 0x00031545 = 0 ∧ wXfDie 0x00031545 = 2 ∧ wStart 0x00031545 = true := by decide
/-- 13, worked example: the clock domain of PORT_LCNT of port 9. -/
theorem test_domain_of_a_port_register : blockOf 0x01418100 = some (.port 9, 0x100) ∧ up.regDom (.port 9) 0x100 = 135 := by decide
set_option maxRecDepth 100000 in
/-- 16, worked example: READ_SET and REG_READ of SUP_STS over SMBus. -/
theorem test_smbus_reads_sup_sts :
    (let s := after (.readSet { code := 0x21, count := 5, data := [0x04, 0x00, 0x01, 0x00, 0x01] })
        (sup fun v => { v with pc := 0x16, mark := 4 })
     s.smb.acked = true ∧ (after .regRead s).smb.reply.take 6 = [0x05, 0x00, 0x02, 0x16, 0x04, 0x00] ∧
     (after .regRead s).smb.reply.length = 7) := by decide +kernel
/-- R55: a number precedes those 1 to 2^31 - 1 after it, across the wrap. -/
theorem test_precedes : precedes 0xFFFFFFFF 0 = true ∧ precedes 0 0x7FFFFFFF = true ∧ precedes 0 0x80000000 = false ∧
    precedes 5 5 = false := by decide
/-- R54, R58, R98: a WRITE of one line takes one number and one claim to tile 0. -/
theorem test_write_is_claimed : ((after (.write wr) up).ses 3).e = 101 ∧
    (after (.write wr) up).mesh.map (fun m => (m.src, m.dst)) = [(0, 0)] ∧ (after (.write wr) up).out = [] := by decide
/-- R98, R30, Table 1.6: a READ of a line never written is claimed, armed and answered with zeros at once. -/
theorem test_never_written_line : claimed.mesh.map (fun m => match m.body with
    | .completion _ _ seq _ r => (seq, r.neverWritten, r.lines)
    | .claimResult _ seq _ f => (seq, f.isSome, [])
    | _ => (0, true, [])) = [(100, false, []), (100, true, [0])] := by decide +kernel
/-- R22: a misaligned READ completes RANGE at once. -/
theorem test_misaligned_read : (after (.read { hdr := hdr opRead 100 0x41 }) up).out.map (fun o => (o.frame.hdr.status, o.frame.hdr.ref)) =
    [(stRange, 100)] := by decide +kernel
/-- R46: a frame of another epoch is counted and dropped. -/
theorem test_epoch_is_checked : (after (.write { wr with hdr := { wr.hdr with epoch := 6 } }) up).mesh = [] ∧
    ((after (.write { wr with hdr := { wr.hdr with epoch := 6 } }) up).ses 3).e = 100 := by decide +kernel
/-- R59: a frame two ahead opens a gap, and the NAK asks for both numbers. -/
theorem test_gap_is_asked_for : (after (.write (renum wr 102)) up).out.map
    (fun o => (o.frame.hdr.opcode, o.frame.hdr.status, o.frame.hdr.ref, o.frame.hdr.aux)) = [(opNak, stGap, 100, 101)] := by decide +kernel
/-- R314, R413: nothing happens while VAON is out. -/
theorem test_no_vaon : after .on { up with powered := false } = { up with powered := false } ∧ (after .lossOfVaon up).powered = false :=
  ⟨rfl, rfl⟩
/-- R309: the counter that passes its last value. -/
theorem test_counter_overflow : Tab.get 0 ((after (.pmcCounterOverflow 0 5) (counting 0xFFFFFFFFFFFF 0)).tile 0).pmc.cnt 5 = 0 ∧
    ((after (.pmcCounterOverflow 0 5) (counting 0xFFFFFFFFFFFF 0)).tile 0).pmc.ovf = 32 := by decide +kernel
set_option maxRecDepth 100000 in
/-- R324: a power-good fall of 7 clocks is a glitch, of 8 a fault. -/
theorem test_power_good_filter : ((after (.pgFall 3 7) up).sup.rail 3).glitch = 1 ∧ ((after (.pgFall 3 8) up).sup.rail 3).faults = 1 := by decide +kernel
set_option maxRecDepth 100000 in
/-- R408: a locked debug port denies. -/
theorem test_debug_denied : (after (.dapReg 0 0 false true) up).dbg.dapCode = smDenied := by decide +kernel

end Sys2Proof.Tests
end

section
/-! PROOFS. The step and its queue, with a command and without one: `StepRunsTheFront`, `EveryStepKeepsPartQueueAndTime`,
`EmptyQueueIsOneCoreCycle`. -/

namespace Sys2Proof.Machine

/-! ### Every command keeps what a step must keep -/

/-- Each command keeps the queue behind it, the part, the time and the media. -/
theorem exec_kept {i : Instr} {s t : State} (e : exec i s = .next t) : Kept True s t := by
  cases i with
  | receiveFrame _ _ _ => exact execReceiveFrame_kept trivial e
  | read _ => exact execRead_kept trivial e
  | write _ => exact execWrite_kept trivial e
  | writePartial _ => exact execWritePartial_kept trivial e
  | cas64 _ => exact execCas64_kept trivial e
  | fadd64 _ => exact execFadd64_kept trivial e
  | barrier _ => exact execBarrier_kept trivial e
  | lock _ => exact execLock_kept trivial e
  | unlock _ => exact execUnlock_kept trivial e
  | mgmtRead _ => exact execMgmtRead_kept trivial e
  | mgmtWrite _ => exact execMgmtWrite_kept trivial e
  | enroll _ _ _ => exact execEnroll_kept e
  | enrollFinish _ _ _ => exact execEnrollFinish_kept e
  | enrollQueueService => exact execEnrollQueueService_kept e
  | enrollmentComplete _ => exact execEnrollmentComplete_kept e
  | rolloverEnroll _ => exact execRolloverEnroll_kept trivial e
  | rolloverEnrollFinish _ => exact execRolloverEnrollFinish_kept trivial e
  | oldReceiveSaDelete _ => exact execOldReceiveSaDelete_kept e
  | pendingExchangeExpiry _ => exact execPendingExchangeExpiry_kept e
  | keepalive _ => exact execKeepalive_kept trivial e
  | hostGapNak _ => exact execHostGapNak_kept trivial e
  | gapNakResend _ => exact execGapNakResend_kept e
  | retransmissionTimeout _ => exact execRetransmissionTimeout_kept e
  | tailKeepaliveSend _ => exact execTailKeepaliveSend_kept e
  | kaLimitKeepaliveSend _ => exact execKaLimitKeepaliveSend_kept e
  | keepAliveLost _ => exact execKeepAliveLost_kept e
  | retentionRoomSend _ => exact execRetentionRoomSend_kept trivial e
  | sessionCloseComplete _ => exact execSessionCloseComplete_kept e
  | sesKill _ => exact execSesKill_kept e
  | sesStrgClr _ _ => exact execSesStrgClr_kept e
  | credentialDisable _ => exact execCredentialDisable_kept e
  | credentialEnable _ => exact execCredentialEnable_kept e
  | claim _ _ => exact execClaim_kept e
  | claimResult _ _ => exact execClaimResult_kept trivial e
  | arm _ _ => exact execArm_kept e
  | dropRemainder _ _ => exact execDropRemainder_kept e
  | rewind _ _ => exact execRewind_kept e
  | markerSealTimeout _ => exact execMarkerSealTimeout_kept e
  | partCompletion _ _ => exact execPartCompletion_kept trivial e
  | barrierAck _ => exact execBarrierAck_kept trivial e
  | frameStart _ => exact execFrameStart_kept e
  | galeLong _ => exact execGaleLong_kept e
  | slotDecision _ => exact execSlotDecision_kept e
  | stepOverdue _ _ _ _ => exact execStepOverdue_kept e
  | variantLatch _ => exact execVariantLatch_kept e
  | superframeStart => exact execSuperframeStart_kept e
  | codewordDecoded _ _ _ => exact execCodewordDecoded_kept trivial e
  | rebuildComplete _ _ => exact execRebuildComplete_kept trivial e
  | mapFetchComplete _ _ => exact execMapFetchComplete_kept e
  | counterFetchComplete _ _ => exact execCounterFetchComplete_kept e
  | mergeComplete _ _ => exact execMergeComplete_kept e
  | checkOutcome _ _ _ _ => exact execCheckOutcome_kept trivial e
  | checkTimeout _ _ => exact execCheckTimeout_kept trivial e
  | squall _ => exact execSquall_kept trivial e
  | tileFaultReplay _ => exact execTileFaultReplay_kept trivial e
  | programComplete _ _ _ => exact execProgramComplete_kept trivial e
  | programFail _ _ _ => exact execProgramFail_kept e
  | eraseFail _ _ _ => exact execEraseFail_kept e
  | eraseComplete _ _ => exact execEraseComplete_kept trivial e
  | eraseBegin _ _ => exact execEraseBegin_kept e
  | checkpoint _ => exact execCheckpoint_kept e
  | dieCommandTimeout _ _ _ => exact execDieCommandTimeout_kept e
  | housekeepingRound _ _ _ => exact execHousekeepingRound_kept e
  | stratumBucketEntry _ _ => exact execStratumBucketEntry_kept e
  | stratumPad _ _ => exact execStratumPad_kept trivial e
  | patrolFinding _ _ _ _ _ => exact execPatrolFinding_kept trivial e
  | surveyComplete _ => exact execSurveyComplete_kept e
  | rolloverImage _ _ => exact execRolloverImage_kept e
  | rekeyPassEnd _ => exact execRekeyPassEnd_kept e
  | rgnBaseWrite _ _ => exact execRgnBaseWrite_kept trivial e
  | rgnSizeWrite _ _ => exact execRgnSizeWrite_kept trivial e
  | modeWrite _ _ => exact execModeWrite_kept trivial e
  | enable _ => exact execEnable_kept trivial e
  | online _ => exact execOnline_kept trivial e
  | readOnly _ => exact execReadOnly_kept trivial e
  | offline _ => exact execOffline_kept trivial e
  | zeroize _ => exact execZeroize_kept trivial e
  | disable _ => exact execDisable_kept trivial e
  | rekey _ => exact execRekey_kept trivial e
  | lostZeroize _ => exact execLostZeroize_kept trivial e
  | lostRekey _ => exact execLostRekey_kept trivial e
  | regionShutdownComplete _ => exact execRegionShutdownComplete_kept trivial e
  | leaseExpiry _ => exact execLeaseExpiry_kept e
  | leaseBreakResolution _ => exact execLeaseBreakResolution_kept trivial e
  | sramUncorrectable _ => exact execSramUncorrectable_kept trivial e
  | evtPendClear _ _ => exact execEvtPendClear_kept e
  | evtTrbClear _ _ _ => exact execEvtTrbClear_kept e
  | pmcCounterOverflow _ _ => exact execPmcCounterOverflow_kept e
  | pmcSample _ _ => exact execPmcSample_kept e
  | clrAll _ => exact execClrAll_kept e
  | pmcCfgClr _ _ => exact execPmcCfgClr_kept e
  | pop _ => exact execPop_kept e
  | portCntClr _ _ => exact execPortCntClr_kept e
  | admCntClr _ => exact execAdmCntClr_kept e
  | xltCntClr _ => exact execXltCntClr_kept e
  | medCcntClr _ _ => exact execMedCcntClr_kept e
  | medTcntClr _ => exact execMedTcntClr_kept e
  | schCntClr _ => exact execSchCntClr_kept e
  | secCntClr _ => exact execSecCntClr_kept e
  | secEccClr _ => exact execSecEccClr_kept e
  | cntClr => exact execCntClr_kept e
  | tokenRoll _ => exact execTokenRoll_kept e
  | maxClr _ => exact execMaxClr_kept e
  | portEnable _ _ => exact execPortEnable_kept e
  | portDisable _ _ => exact execPortDisable_kept e
  | portStopComplete _ => exact execPortStopComplete_kept e
  | portReset _ => exact execPortReset_kept e
  | linkUp _ _ => exact execLinkUp_kept e
  | linkLoss _ _ => exact execLinkLoss_kept e
  | pwrfailFall _ => exact execPwrfailFall_kept trivial e
  | drainRecordCommit _ => exact execDrainRecordCommit_kept e
  | finalRecord => exact execFinalRecord_kept e
  | vaonWarning => exact execVaonWarning_kept e
  | pwrfailRise => exact execPwrfailRise_kept e
  | autoOn => exact execAutoOn_kept e
  | seqEnd => exact execSeqEnd_kept trivial e
  | seqEnable => exact execSeqEnable_kept e
  | seqDisable => exact execSeqDisable_kept trivial e
  | wait => exact execWait_kept e
  | check => exact execCheck_kept e
  | jump => exact execJump_kept e
  | mark => exact execMark_kept e
  | waitExpiry => exact execWaitExpiry_kept e
  | checkPass _ => exact execCheckPass_kept trivial e
  | checkTimeoutRailFail _ => exact execCheckTimeoutRailFail_kept trivial e
  | domainOn _ => exact execDomainOn_kept trivial e
  | domainStartTimeout _ => exact execDomainStartTimeout_kept trivial e
  | domainOff _ => exact execDomainOff_kept trivial e
  | pgFall _ _ => exact execPgFall_kept trivial e
  | runningFault _ => exact execRunningFault_kept trivial e
  | retryOffExpiry _ => exact execRetryOffExpiry_kept trivial e
  | systemAction => exact execSystemAction_kept trivial e
  | systemDrainTimeout => exact execSystemDrainTimeout_kept e
  | off => exact execOff_kept trivial e
  | on => exact execOn_kept e
  | cleanStopTimeout _ => exact execCleanStopTimeout_kept trivial e
  | minimumOffTimeExpiry => exact execMinimumOffTimeExpiry_kept e
  | vgpioPrelude _ => exact execVgpioPrelude_kept e
  | preludeRepeat => exact execPreludeRepeat_kept e
  | coldReset _ => exact execColdReset_kept trivial e
  | warmReset => exact execWarmReset_kept trivial e
  | tileFaultReset _ _ => exact execTileFaultReset_kept trivial e
  | watchdog _ => exact execWatchdog_kept trivial e
  | warm => exact execWarm_kept e
  | refclkLoss => exact execRefclkLoss_kept trivial e
  | refclkRestored => exact execRefclkRestored_kept e
  | pllLockLoss _ => exact execPllLockLoss_kept trivial e
  | pendingAccessComplete _ => exact execPendingAccessComplete_kept trivial e
  | pendingAccessRelease _ => exact execPendingAccessRelease_kept trivial e
  | resetPend _ => exact execResetPend_kept trivial e
  | tileStop _ => exact execTileStop_kept e
  | tileStart _ => exact execTileStart_kept e
  | faultReset _ => exact execFaultReset_kept trivial e
  | ledgerRecall => exact execLedgerRecall_kept e
  | configurationRead _ => exact execConfigurationRead_kept e
  | tilePhaseLoad _ _ => exact execTilePhaseLoad_kept trivial e
  | meshTableLoad => exact execMeshTableLoad_kept trivial e
  | mediumInitialisation _ _ => exact execMediumInitialisation_kept e
  | engineStart _ => exact execEngineStart_kept e
  | tileRecovery _ => exact execTileRecovery_kept trivial e
  | admissionOpen _ => exact execAdmissionOpen_kept e
  | ledgerCommitComplete => exact execLedgerCommitComplete_kept trivial e
  | ledgerWindowWrite _ _ => exact execLedgerWindowWrite_kept e
  | commit => exact execCommit_kept e
  | retry => exact execRetry_kept e
  | thermalStateFall _ => exact execThermalStateFall_kept e
  | thermalStop _ => exact execThermalStop_kept trivial e
  | sensorStop _ => exact execSensorStop_kept trivial e
  | resume _ => exact execResume_kept e
  | regWrite _ => exact execRegWrite_kept trivial e
  | readSet _ => exact execReadSet_kept trivial e
  | regRead => exact execRegRead_kept e
  | xstatus => exact execXstatus_kept e
  | alertResponse => exact execAlertResponse_kept e
  | smbusStretchTimeout => exact execSmbusStretchTimeout_kept e
  | smbusClockHeldLow => exact execSmbusClockHeldLow_kept e
  | idcode => exact execIdcode_kept e
  | samplePreload => exact execSamplePreload_kept e
  | extest => exact execExtest_kept e
  | clamp => exact execClamp_kept e
  | highz => exact execHighz_kept e
  | dapReg _ _ _ _ => exact execDapReg_kept trivial e
  | dapMem _ _ _ _ => exact execDapMem_kept e
  | bypass _ => exact execBypass_kept e
  | tapReset => exact execTapReset_kept e
  | lockDebug => exact execLockDebug_kept e
  | dmaStart _ => exact execDmaStart_kept e
  | dmaComplete => exact execDmaComplete_kept e
  | registerWrite _ _ => exact execRegisterWrite_kept trivial e
  | lossOfVaon => exact execLossOfVaon_kept trivial e
  | microsequencerInternalFault _ _ _ => exact execMicrosequencerInternalFault_kept e
  | onProgrammeBegins => exact execOnProgrammeBegins_kept e

theorem step_nil {s : State} (h : s.pending = []) : step s = .next s.idle := by simp only [step, h]

theorem step_cons {s : State} {c : Instr} {rest : List Instr} (h : s.pending = c :: rest) :
    step s = exec c { s with pending := rest } := by simp only [step, h]

/-- A step keeps what a command must keep, of the state with the front of its queue taken away. -/
theorem step_kept {s t : State} (e : step s = .next t) : Kept True { s with pending := s.pending.tail } t := by
  cases h : s.pending with
  | nil =>
    rw [step_nil h] at e
    obtain rfl : s.idle = t := Host.Outcome.next.inj e
    have hs : ({ s with pending := [] } : State) = s := by rw [← h]
    exact State.idle_kept (hs.symm ▸ Kept.refl s)
  | cons c rest => exact exec_kept ((step_cons h).symm.trans e)

/-- Settles O1: the step is that equation. -/
theorem stepRunsTheFront : Obligations.StepRunsTheFront := fun _ _ _ => step_cons rfl

/-- Settles O6, by what every command keeps (`exec_kept`). -/
theorem everyStepKeepsPartQueueAndTime : Obligations.EveryStepKeepsPartQueueAndTime := by
  intro s t e
  have h := step_kept e
  exact ⟨h.part, h.stepping, h.pending, h.now, h.free⟩

/-! ### A core cycle of the performance counters -/

/-- PMC_OVF is an event, not a fault (Table 11.4). -/
theorem isFault_pmcOvf (t : TileId) : isFault (tsrc t 25) = false := by revert t; decide

/-- What a core cycle without a command may change: free values are drawn, frames wait at or leave the sessions, events become
pending, the tiles' counters move; and every frame that leaves is an EVENT. -/
structure CountsAndEvents (s t : State) : Prop where
  frame : { t with free := s.free, sess := s.sess, evt := s.evt, tiles := s.tiles, out := s.out } = s
  sent : ∃ l, t.out = l ++ s.out ∧ ∀ o ∈ l, o.frame.hdr.opcode = opEvent

namespace CountsAndEvents

variable {s0 s : State}

theorem refl (s : State) : CountsAndEvents s s := ⟨rfl, [], rfl, by simp⟩

theorem update (h : CountsAndEvents s0 s) {free : Nat} {sess : Tab Sess} {evt : Evt} {tiles : Tab Tile} :
    CountsAndEvents s0 { s with free, sess, evt, tiles } := ⟨h.frame, h.sent⟩

theorem foldl {α : Type} {f : State → α → State} {l : List α} (hf : ∀ s a, CountsAndEvents s0 s → CountsAndEvents s0 (f s a))
    (h : CountsAndEvents s0 s) : CountsAndEvents s0 (l.foldl f s) := by
  induction l generalizing s with
  | nil => exact h
  | cons a l ih => exact ih (hf s a h)

theorem ite {a b : State} {c : Prop} [Decidable c] (ha : CountsAndEvents s0 a) (hb : CountsAndEvents s0 b) :
    CountsAndEvents s0 (if c then a else b) := by
  split <;> assumption

theorem modSes (h : CountsAndEvents s0 s) (x : SessId) (f : Sess → Sess) : CountsAndEvents s0 (s.modSes x f) := h.update

theorem modEvt (h : CountsAndEvents s0 s) (f : Evt → Evt) : CountsAndEvents s0 (s.modEvt f) := h.update

theorem modPmc (h : CountsAndEvents s0 s) (t : TileId) (f : Pmc → Pmc) : CountsAndEvents s0 (s.modPmc t f) := h.update

theorem emit (h : CountsAndEvents s0 s) (x : SessId) {f : Frame} (hf : f.hdr.opcode = opEvent) :
    CountsAndEvents s0 (s.emit x f) := by
  obtain ⟨l, e, hl⟩ := h.sent
  unfold State.emit
  dsimp only
  split
  · exact h
  · split
    · exact h
    · exact ⟨h.frame, _ :: l, congrArg (List.cons _) e, List.forall_mem_cons.2 ⟨hf, hl⟩⟩

/-- An EVENT frame completes no request, carries no key change and answers no lease, so its sending is its emission. -/
theorem sendFirst_event (h : CountsAndEvents s0 s) (x : SessId) (n : Nat) (payload : List Byte) (rest : List Waiting) :
    CountsAndEvents s0 (s.sendFirst x { hdr := eventHdr n, payload, src := some n } rest) :=
  ((h.modSes x _).emit x rfl).modSes x _

theorem sendOrWait_event (h : CountsAndEvents s0 s) (x : SessId) (n : Nat) (payload : List Byte) :
    CountsAndEvents s0 (s.sendOrWait x { hdr := eventHdr n, payload, src := some n }) :=
  (h.sendFirst_event x n payload []).ite (h.modSes x _)

theorem eventFrames (h : CountsAndEvents s0 s) (n : Nat) (sf : BitVec 40) (d : BitVec 64) (k : Nat) :
    CountsAndEvents s0 (s.eventFrames n sf d k) :=
  foldl (fun _ x g => ((g.modSes x _).ite (g.sendOrWait_event x n _)).ite g) h

/-- A source that is no fault leaves the ledger alone (R302). -/
theorem occur (h : CountsAndEvents s0 s) {n : Nat} (hn : isFault n = false) (d : BitVec 64) :
    CountsAndEvents s0 (s.occur n d) := by
  simp only [State.occur, hn, Bool.false_and, Bool.false_eq_true, if_false]
  exact (h.modEvt _).eventFrames n _ d 1

theorem raise (h : CountsAndEvents s0 s) {n : Nat} (hn : isFault n = false) (d : BitVec 64) :
    CountsAndEvents s0 (s.raise n d) :=
  (h.modEvt _).ite ((h.modEvt _).ite (h.occur hn d))

theorem sample (h : CountsAndEvents s0 s) (t : TileId) (i : Fin 64) (c : Option Nat) : CountsAndEvents s0 (s.sample t i c) := h.update

theorem sampleN (h : CountsAndEvents s0 s) (t : TileId) (i : Fin 64) (c : Option Nat) (n : Nat) :
    CountsAndEvents s0 (s.sampleN t i c n) :=
  h.ite ((foldl (fun _ _ g => g.sample t i c) h).modPmc t _)

theorem pmcAdvance (h : CountsAndEvents s0 s) (t : TileId) (i : Fin 64) (n : Nat) (c : Option Nat) :
    CountsAndEvents s0 (s.pmcAdvance t i n c) :=
  sampleN (((h.modPmc t _).raise (isFault_pmcOvf t) _).ite (h.modPmc t _)) t i c _

theorem pmc (h : CountsAndEvents s0 s) (t : TileId) (ev : Nat) (c : Option Nat) (n : Nat) :
    CountsAndEvents s0 (s.pmc t ev c n) :=
  h.ite (foldl (fun _ i g =>
    ((g.ite ((g.modPmc t _).pmcAdvance t i 1 c)).ite (g.pmcAdvance t i n c)).ite g) (h.modPmc t _))

theorem pmcCycle (h : CountsAndEvents s0 s) (t : TileId) : CountsAndEvents s0 (s.pmcCycle t) := by
  have hdue : CountsAndEvents s0 (if (s.tile t).pmc.due = 0 then s else
      (List.finRange 64).foldl (fun v i => if (s.tile t).pmc.due.getLsbD i.val then v.raise (tsrc t 25) (1#64 <<< i.val) else v)
        (s.modPmc t fun p => { p with due := 0 })) :=
    h.ite (foldl (fun _ _ g => (g.raise (isFault_pmcOvf t) _).ite g) (h.modPmc t _))
  exact (foldl (fun _ e g => g.pmc t e none 1) hdue).ite hdue

end CountsAndEvents

/-- A core cycle without a command is the passing of the time, then counts and events. -/
theorem State.idle_countsAndEvents (s : State) : CountsAndEvents { s with now := s.now + 1 } s.idle :=
  CountsAndEvents.foldl (fun _ t g => g.pmcCycle t) (CountsAndEvents.refl _)

/-- A tile whose counters stand still, with no overflow to report, is left as it is. -/
theorem State.pmcCycle_of_stopped {s : State} {t : TileId} (hrun : (s.tile t).pmc.run = false) (hdue : (s.tile t).pmc.due = 0) :
    s.pmcCycle t = s := by
  simp [State.pmcCycle, hdue, State.pmcOn, hrun]

theorem State.foldl_pmcCycle_of_stopped {s : State} (h : ∀ u, (s.tile u).pmc.run = false ∧ (s.tile u).pmc.due = 0)
    (l : List TileId) : l.foldl State.pmcCycle s = s := by
  induction l with
  | nil => rfl
  | cons t l ih => rwa [List.foldl_cons, State.pmcCycle_of_stopped (h t).1 (h t).2]

theorem State.idle_of_stopped {s : State} (h : ∀ u, (s.tile u).pmc.run = false ∧ (s.tile u).pmc.due = 0) :
    s.idle = { s with now := s.now + 1 } :=
  State.foldl_pmcCycle_of_stopped (s := { s with now := s.now + 1 }) h _

/-- Settles O2: what a core cycle changes is `CountsAndEvents`, tile by tile. -/
theorem emptyQueueIsOneCoreCycle : Obligations.EmptyQueueIsOneCoreCycle := by
  intro s hq
  have h := State.idle_countsAndEvents s
  have same : ∀ {α : Type} (f : State → α), f { s.idle with
      free := s.free, sess := s.sess, evt := s.evt, tiles := s.tiles, out := s.out } = f { s with now := s.now + 1 } :=
    fun f => congrArg f h.frame
  exact ⟨s.idle, step_nil hq, same State.now, (same State.pending).trans hq, same State.media, same State.rgns, same State.creds,
    same State.ports, same State.sup, same State.clk, same State.cfg, same State.boot, same State.dbg, same State.smb,
    same State.mesh, same State.sf, h.sent, State.idle_of_stopped⟩

end Sys2Proof.Machine
end

section
/-! PROOFS. Commands that act where their register answers: sessions and credentials (`StewardEndsSessionsAndCredentials`), pending
bits and the trouble record (`PendingAndTroubleClears`), performance counters (`PerformanceCountersAndSamples`). -/

namespace Sys2Proof.Machine

/-! ### A command that is enabled -/

theorem State.doIf_enabled {s : State} {b : Bool} {f : State → State} (hp : s.powered = true) (hb : b = true) :
    s.doIf b f = .next (f s) := by
  simp only [State.doIf, hp, hb, Bool.and_self, if_true]

theorem State.doAll_enabled {s : State} {b : Bool} {f : State → State} (hp : s.powered = true) (hb : b = true) :
    s.doAll b f = .next (s.after (f s)) :=
  State.doIf_enabled hp hb

section
variable {s : State} (hp : s.powered = true)
include hp

theorem exec_sesKill {x : SessId} (hr : s.reach 0x100004 = true) : exec (.sesKill x) s = .next (s.killSession x 4) :=
  (State.doIf_enabled hp hr : execSesKill x s = _)

theorem exec_sesStrgClr {p : PortId} {l : LinkId} (hr : s.reach 0x100008 = true) :
    exec (.sesStrgClr p l) s = .next (s.strangerClear p l) :=
  (State.doIf_enabled hp hr : execSesStrgClr p l s = _)

theorem exec_credentialDisable {x : SessId} (hr : s.reach (0x101000 + 0x40 * x.val) = true) :
    exec (.credentialDisable x) s = .next (s.credDisable x) :=
  (State.doIf_enabled hp hr : execCredentialDisable x s = _)

theorem exec_credentialEnable {x : SessId} (hr : s.reach (0x101000 + 0x40 * x.val) = true) :
    exec (.credentialEnable x) s = .next (s.credEnable x) :=
  (State.doIf_enabled hp hr : execCredentialEnable x s = _)

theorem exec_evtPendClear {k : Fin 9} {m : Word} (hr : s.reach (0x40100 + 4 * k.val) = true) :
    exec (.evtPendClear k m) s = .next (s.clearPend k.val m) :=
  (State.doIf_enabled hp hr : execEvtPendClear k m s = _)

theorem exec_evtTrbClear {src : BitVec 9} {clr all : Bool} (hr : s.reach 0x40004 = true) :
    exec (.evtTrbClear src clr all) s = .next (s.clearTrouble src.toNat clr all) :=
  (State.doIf_enabled hp hr : execEvtTrbClear src clr all s = _)

/-- The occurrence of PMC_SAMPLE: a running counter that samples, at the last value before a multiple of PERIOD. -/
theorem exec_pmcSample {t : TileId} {i : Fin 64} (hrun : s.pmcRuns t i = true)
    (hs : pmcSample (Tab.get 0 (s.tile t).pmc.cfg i.val) = true) (hper : (s.tile t).pmc.period ≠ 0)
    (hm : ((Tab.get 0 (s.tile t).pmc.cnt i.val).toNat + 1) % (s.tile t).pmc.period.toNat = 0) :
    exec (.pmcSample t i) s = .next (s.pmcOnce t i) :=
  (State.doIf_enabled hp (by simpa [hrun] using ⟨hs, hper, hm⟩) : execPmcSample t i s = _)

theorem exec_clrAll {t : TileId} (hr : s.reach (tileAddr t 0x70000) = true) : exec (.clrAll t) s = .next (s.pmcClear t) :=
  (State.doIf_enabled hp hr : execClrAll t s = _)

theorem exec_pmcCfgClr {t : TileId} {i : Fin 64} (hr : s.reach (tileAddr t (0x70100 + 4 * i.val)) = true) :
    exec (.pmcCfgClr t i) s = .next (s.pmcClear1 t i.val) :=
  (State.doIf_enabled hp hr : execPmcCfgClr t i s = _)

theorem exec_pop {t : TileId} (hr : s.reach (tileAddr t 0x70014) = true) : exec (.pop t) s = .next (s.pmcPop t) :=
  (State.doIf_enabled hp hr : execPop t s = _)

end

/-! ### Sessions and credentials (R78, R91) -/

theorem State.killSession_enrolling {s : State} {x : SessId} (c : BitVec 3) (h : (s.ses x).st = .enrolling) :
    s.killSession x c = s.modSes x fun S => { S with st := .idle, exch := none, fin := none } := by
  simp only [State.killSession, h]

theorem State.killSession_live {s : State} {x : SessId} (c : BitVec 3) (h : (s.ses x).st = .live) :
    s.killSession x c = s.endSession x c := by
  simp only [State.killSession, h]

theorem State.killSession_over {s : State} {x : SessId} (c : BitVec 3) (h : (s.ses x).st = .idle ∨ (s.ses x).st = .closing) :
    s.killSession x c = s := by
  obtain h | h := h <;> simp only [State.killSession, h]

theorem State.credDisable_acts {s : State} {x : SessId} (hi : (s.cred x).fromImage = false) (hw : (s.cred x).will = true) :
    s.credDisable x = (s.modCred x fun c => { c with want := some false }).commit (baseCred x.val)
      ({ s.cred x with enable := false } : Cred).body [.credOff x] :=
  if_pos ⟨hi, hw⟩

/-- An entry of the image, and one that is or will be disabled, stands (R78). -/
theorem State.credDisable_stands {s : State} {x : SessId} (h : (s.cred x).fromImage = true ∨ (s.cred x).will = false) :
    s.credDisable x = s :=
  if_neg (by rintro ⟨hi, hw⟩; simp_all)

theorem State.credEnable_acts {s : State} {x : SessId} (hi : (s.cred x).fromImage = false) (hw : (s.cred x).will = false) :
    s.credEnable x = (s.modCred x fun c => { c with want := some true }).commit (baseCred x.val)
      ({ s.cred x with enable := true } : Cred).body [.credSet x] :=
  if_pos ⟨hi, hw⟩

/-- An entry of the image, and one that is or will be enabled, stands (R78). -/
theorem State.credEnable_stands {s : State} {x : SessId} (h : (s.cred x).fromImage = true ∨ (s.cred x).will = true) :
    s.credEnable x = s :=
  if_neg (by rintro ⟨hi, hw⟩; simp_all)

/-- Settles O24, command by command, from what each action makes of the session's state and of the entry. -/
theorem stewardEndsSessionsAndCredentials : Obligations.StewardEndsSessionsAndCredentials := by
  intro x p l s hp
  refine ⟨fun hr => ?_, exec_sesStrgClr hp, fun hr => ?_⟩
  · rw [exec_sesKill hp hr]
    exact ⟨fun h => congrArg _ (State.killSession_enrolling 4 h), fun h => congrArg _ (State.killSession_live 4 h),
      fun h => congrArg _ (State.killSession_over 4 h)⟩
  · rw [exec_credentialDisable hp hr, exec_credentialEnable hp hr]
    exact ⟨fun hi on => ⟨congrArg _ (State.credDisable_acts hi on), congrArg _ (State.credEnable_stands (.inr on))⟩,
      fun hi off => ⟨congrArg _ (State.credEnable_acts hi off), congrArg _ (State.credDisable_stands (.inr off))⟩,
      fun hi => ⟨congrArg _ (State.credDisable_stands (.inl hi)), congrArg _ (State.credEnable_stands (.inl hi))⟩⟩

/-! ### Pending bits and the trouble record (R14, R303) -/

theorem State.clearTrouble_one (s : State) {src : Nat} (h : src < 288) : s.clearTrouble src true false = s.askClear [src] := by
  simp [State.clearTrouble, h]

/-- Settles O40: a write of EVT_TRB_CLR with ALL, with CLR of a source, and with neither. -/
theorem pendingAndTroubleClears : Obligations.PendingAndTroubleClears := fun _ _ _ s hp =>
  ⟨exec_evtPendClear hp, fun hr =>
    ⟨fun _ => exec_evtTrbClear hp hr, fun h => (exec_evtTrbClear hp hr).trans (congrArg _ (s.clearTrouble_one h)),
      exec_evtTrbClear hp hr⟩⟩

/-! ### Performance counters (R308, R311) -/

/-- Settles O42: each command is enabled, and its action is the occurrence or the clear it names. -/
theorem performanceCountersAndSamples : Obligations.PerformanceCountersAndSamples := fun _ _ _ hp =>
  ⟨exec_pmcSample hp, exec_clrAll hp, exec_pmcCfgClr hp, exec_pop hp⟩

end Sys2Proof.Machine
end

section
/-! PROOFS. The SMBus target and REGISTER_WRITE: `ManagementBusAndRegisters` (chapter 16). -/

namespace Sys2Proof

/-- A REG_WRITE that has its form: an address and `k` values, 1 to 8 of them (Table 16.4). -/
structure SmbWrite.IsRegWrite (w : SmbWrite) (k : Nat) : Prop where
  count : w.count.toNat = 4 + 4 * k
  one_le : 1 ≤ k
  le_eight : k ≤ 8
  length : w.data.length = w.count.toNat

/-- A READ_SET that has its form: an address and a count of 1 to 8 registers (Table 16.4). -/
structure SmbWrite.IsReadSet (w : SmbWrite) : Prop where
  count : w.count = 5
  length : w.data.length = 5
  one_le : 1 ≤ Machine.ofLe (Machine.slice w.data 4 1)
  le_eight : Machine.ofLe (Machine.slice w.data 4 1) ≤ 8

/-- The values a REG_WRITE carries behind its address, each little-endian (R9). -/
def SmbWrite.values (w : SmbWrite) (k : Nat) : List Word :=
  (List.range k).map fun i => BitVec.ofNat 32 (Machine.ofLe (Machine.slice w.data (4 + 4 * i) 4))

variable {w : SmbWrite}

theorem SmbWrite.IsRegWrite.form {k : Nat} (h : w.IsRegWrite k) :
    ¬(w.count.toNat % 4 ≠ 0 ∨ w.count.toNat < 8 ∨ 36 < w.count.toNat ∨ w.data.length ≠ w.count.toNat) := by
  obtain ⟨hc, h1, h8, hl⟩ := h
  omega

theorem SmbWrite.IsRegWrite.number {k : Nat} (h : w.IsRegWrite k) : (w.count.toNat - 4) / 4 = k := by
  rw [h.count, Nat.add_sub_cancel_left, Nat.mul_div_cancel_left k (by decide)]

theorem SmbWrite.IsReadSet.form (h : w.IsReadSet) :
    ¬(w.count ≠ 5 ∨ w.data.length ≠ 5 ∨ Machine.ofLe (Machine.slice w.data 4 1) = 0 ∨
      8 < Machine.ofLe (Machine.slice w.data 4 1)) := by
  obtain ⟨hc, hl, h1, h8⟩ := h
  rintro (h | h | h | h)
  · exact h hc
  · exact h hl
  · omega
  · omega

namespace Machine

/-- The target answers and the ledger has been recalled: the transactions of Table 16.4 are taken (R401). -/
structure State.SmbTakes (s : State) : Prop where
  up : s.smbUp = true
  recalled : s.ldg.recalling = false

/-- The end of a transaction that is not acknowledged, with its status. -/
def State.smbRefused (s : State) (c : Byte) : State := { s with smb := { s.smb with status := c, acked := false, reply := [] } }

variable {s : State}

theorem State.SmbTakes.not_silent (h : s.SmbTakes) : ¬(s.smbUp = false ∨ s.ldg.recalling = true) := by
  simp [h.up, h.recalled]

/-- A bridge without a pending access takes an access to any address (R351). -/
theorem State.bridge_free (a : Nat) (hb : s.clk.smb = none) : ¬(s.clk.smb.isSome ∧ inClk a = false) := by
  simp [hb]

/-! ### The Block Writes (R398) -/

/-- Either row of a Block Write answers what its command code makes of it. -/
theorem exec_blockWrite {v : State} (hp : s.powered = true) (hv : s.blockWrite w = v) :
    exec (.regWrite w) s = .next (s.after v) ∧ exec (.readSet w) s = .next (s.after v) := by
  show execRegWrite w s = _ ∧ execReadSet w s = _
  rw [← hv]
  exact ⟨State.doAll_enabled hp rfl, State.doAll_enabled hp rfl⟩

theorem State.blockWrite_otherCode (h : s.SmbTakes) (h0 : w.code ≠ 0x20) (h1 : w.code ≠ 0x21) :
    s.blockWrite w = s.smbRefused smFormat := by
  rw [State.blockWrite, if_neg h0, if_neg h1, if_neg h.not_silent]
  rfl

theorem State.blockWrite_regWrite (hc : w.code = 0x20) : s.blockWrite w = s.regWrite w := if_pos hc

theorem State.blockWrite_readSet (hc : w.code = 0x21) : s.blockWrite w = s.readSet w := by
  rw [State.blockWrite, if_neg (by rw [hc]; decide), if_pos hc]

/-! ### READ_SET -/

theorem State.readSet_badForm (h : s.SmbTakes)
    (hf : w.count ≠ 5 ∨ w.data.length ≠ 5 ∨ ofLe (slice w.data 4 1) = 0 ∨ 8 < ofLe (slice w.data 4 1)) :
    s.readSet w = s.smbRefused smFormat := by
  rw [State.readSet, if_neg h.not_silent, if_pos hf]
  rfl

theorem State.readSet_badPec (h : s.SmbTakes) (hf : w.IsReadSet) (hp : w.pec = some false) :
    s.readSet w = s.smbRefused smPec := by
  rw [State.readSet, if_neg h.not_silent, if_neg hf.form, if_pos hp]
  rfl

theorem State.readSet_taken (h : s.SmbTakes) (hf : w.IsReadSet) (hp : w.pec ≠ some false) :
    s.readSet w = { s with smb := { s.smb with
      set := some (BitVec.ofNat 32 (ofLe (slice w.data 0 4)), ofLe (slice w.data 4 1)), acked := true, reply := [] } } := by
  rw [State.readSet, if_neg h.not_silent, if_neg hf.form, if_neg hp]
  rfl

/-! ### REG_WRITE (R381, R396, R400) -/

theorem State.regWrite_badForm (h : s.SmbTakes)
    (hf : w.count.toNat % 4 ≠ 0 ∨ w.count.toNat < 8 ∨ 36 < w.count.toNat ∨ w.data.length ≠ w.count.toNat) :
    s.regWrite w = s.smbRefused smFormat := by
  rw [State.regWrite, if_neg h.not_silent, if_pos hf]
  rfl

theorem State.regWrite_badPec {k : Nat} (h : s.SmbTakes) (hf : w.IsRegWrite k) (hp : w.pec = some false) :
    s.regWrite w = s.smbRefused smPec := by
  rw [State.regWrite, if_neg h.not_silent, if_neg hf.form, if_pos hp]
  rfl

/-- A write of the target stops at a register without its clock: it is kept, and the clock stretched (R351, R396). -/
def State.smbKept (t : State) (acc : Acc) : State :=
  let s := (t.hold false acc true none false).smbSay true []
  { s with smb := { s.smb with stretch := some s.now } }

/-- What a REG_WRITE that was let through has come to. -/
def State.regWritten (t : State) (acc : Acc) : State :=
  if acc.stop.isSome then t.smbKept acc
  else if t.ldg.waits fun d => decide (d = .smbAck) then { t with smb := { t.smb with stretch := some t.now } }
  else t.smbDone true smOk []

/-- A REG_WRITE in form at a free bridge goes by the verdict of R400 and R393. -/
theorem State.regWrite_checked {k : Nat} (h : s.SmbTakes) (hf : w.IsRegWrite k) (hp : w.pec ≠ some false)
    (hb : s.clk.smb = none) : s.regWrite w = match verdict .smb true (ofLe (slice w.data 0 4)) k with
      | .range => s.smbDone true smRange []
      | .denied => s.smbDone true smDenied []
      | .ok =>
        let r := State.writeAll [.smbAck] (w.values k) (ofLe (slice w.data 0 4)) s
        r.2.regWritten r.1 := by
  rw [State.regWrite, if_neg h.not_silent, if_neg hf.form, if_neg hp, if_neg (s.bridge_free _ hb), hf.number]
  rfl

section
variable {k : Nat} {t : State} {acc : Acc}

theorem State.regWrite_range (h : s.SmbTakes) (hf : w.IsRegWrite k) (hp : w.pec ≠ some false) (hb : s.clk.smb = none)
    (hv : verdict .smb true (ofLe (slice w.data 0 4)) k = .range) : s.regWrite w = s.smbDone true smRange [] := by
  rw [State.regWrite_checked h hf hp hb, hv]

theorem State.regWrite_denied (h : s.SmbTakes) (hf : w.IsRegWrite k) (hp : w.pec ≠ some false) (hb : s.clk.smb = none)
    (hv : verdict .smb true (ofLe (slice w.data 0 4)) k = .denied) : s.regWrite w = s.smbDone true smDenied [] := by
  rw [State.regWrite_checked h hf hp hb, hv]

theorem State.regWrite_ran (h : s.SmbTakes) (hf : w.IsRegWrite k) (hp : w.pec ≠ some false) (hb : s.clk.smb = none)
    (hv : verdict .smb true (ofLe (slice w.data 0 4)) k = .ok)
    (hr : State.writeAll [.smbAck] (w.values k) (ofLe (slice w.data 0 4)) s = (acc, t)) : s.regWrite w = t.regWritten acc := by
  rw [State.regWrite_checked h hf hp hb, hv]
  dsimp only
  rw [hr]

theorem State.regWritten_done (hs : acc.stop = none) (hw : t.ldg.waits (fun d => decide (d = .smbAck)) = false) :
    t.regWritten acc = { t with smb := { t.smb with status := smOk, acked := true, reply := [] } } := by
  rw [State.regWritten, if_neg (by simp [hs]), if_neg (by simp [hw])]
  rfl

theorem State.regWritten_waits (hs : acc.stop = none) (hw : t.ldg.waits (fun d => decide (d = .smbAck)) = true) :
    t.regWritten acc = { t with smb := { t.smb with stretch := some t.now } } := by
  rw [State.regWritten, if_neg (by simp [hs]), if_pos hw]

theorem State.regWritten_stopped (hs : acc.stop ≠ none) : t.regWritten acc = t.smbKept acc :=
  if_pos (Option.isSome_iff_ne_none.2 hs)

end

/-! ### REG_READ and XSTATUS (R398 to R400) -/

theorem State.regRead_unset (h : s.SmbTakes) (hs : s.smb.set = none) : s.regRead = s.smbRefused smFormat := by
  rw [State.regRead, if_neg h.not_silent, hs]
  rfl

theorem State.regRead_read {x : Word} {k : Nat} {acc : Acc} {t : State} (h : s.SmbTakes) (hs : s.smb.set = some (x, k))
    (hb : s.clk.smb = none) (hv : verdict .smb false x.toNat k = .ok) (hr : s.readOn 0 k x.toNat {} = (acc, t))
    (ha : acc.stop = none) : s.regRead = t.smbDone false (readStatus acc.uns) acc.got := by
  rw [State.regRead, if_neg h.not_silent, hs]
  dsimp only
  rw [if_neg (s.bridge_free _ hb), hv, hr]
  exact if_neg (by simp [ha])

theorem State.regRead_barred {x : Word} {k : Nat} (h : s.SmbTakes) (hs : s.smb.set = some (x, k)) (hb : s.clk.smb = none)
    (hv : verdict .smb false x.toNat k ≠ .ok) :
    s.regRead = (State.drawWords k s).2.smbDone false smRange (State.drawWords k s).1 := by
  rw [State.regRead, if_neg h.not_silent, hs]
  dsimp only
  rw [if_neg (s.bridge_free _ hb)]
  cases hc : verdict .smb false x.toNat k with
  | ok => exact absurd hc hv
  | range => rfl
  | denied => rfl

theorem State.xstatus_taken (h : s.SmbTakes) : s.xstatus = s.smbSay true (s.withPec 0x23 [s.smb.status]) :=
  if_neg h.not_silent

/-! ### The alert response and the ends of a transaction (R402, R403, R422) -/

theorem State.alertAnswer_asserted (hu : s.smbUp = true) (ha : s.alert = true) :
    s.alertAnswer = s.smbSay true [s.smbAddress] :=
  if_pos (by simp [hu, ha])

theorem State.alertAnswer_silent (h : s.smbUp = false ∨ s.alert = false) : s.alertAnswer = s.smbSay false [] :=
  if_neg (by obtain h | h := h <;> simp [h])

theorem State.stretchEnds_stretched {n : Nat} (h : s.smb.stretch = some n) :
    s.stretchEnds = (s.till (n + ms 25)).smbTimedOut := by
  rw [State.stretchEnds, h]

theorem State.smbTimedOut_free (h : s.clk.smb = none) :
    s.smbTimedOut = { s with smb := { s.smb with stretch := none, acked := false, reply := [] } } := by
  rw [State.smbTimedOut, h]
  rfl

theorem State.smbTimedOut_pending {d : Pend} (h : s.clk.smb = some d) (hd : d.dap = false) (ht : d.timedOut = false) :
    s.smbTimedOut = { s with
      clk := { s.clk with smb := some { d with timedOut := true } }
      smb := { s.smb with status := smTimedOut, stretch := none, acked := false, reply := [] } } := by
  rw [State.smbTimedOut, h]
  simp only [hd, ht, Bool.or_self, Bool.false_eq_true, if_false]
  rfl

theorem State.writeAt_register {a : Nat} {b : Block} {o : Nat} (h : blockOf a = some (b, o)) (v : Word) :
    s.writeAt a v = s.writeReg b o v := by
  rw [State.writeAt, h]

section
variable (hp : s.powered = true)
include hp

theorem exec_regRead : exec .regRead s = .next s.regRead :=
  (State.doIf_enabled hp rfl : execRegRead s = _)

theorem exec_xstatus : exec .xstatus s = .next s.xstatus :=
  (State.doIf_enabled hp rfl : execXstatus s = _)

theorem exec_alertResponse : exec .alertResponse s = .next s.alertAnswer :=
  (State.doIf_enabled hp rfl : execAlertResponse s = _)

theorem exec_smbusStretchTimeout : exec .smbusStretchTimeout s = .next s.stretchEnds :=
  (State.doIf_enabled hp rfl : execSmbusStretchTimeout s = _)

theorem exec_smbusClockHeldLow : exec .smbusClockHeldLow s = .next s.smbTimedOut :=
  (State.doIf_enabled hp rfl : execSmbusClockHeldLow s = _)

theorem exec_registerWrite {a v : Word} (hr : s.reach a.toNat = true) :
    exec (.registerWrite a v) s = .next (s.after (s.writeAt a.toNat v)) :=
  (State.doAll_enabled hp hr : execRegisterWrite a v s = _)

end

/-- Settles O58, transaction by transaction, from what each operation of the target answers. -/
theorem managementBusAndRegisters : Obligations.ManagementBusAndRegisters := by
  intro w a v s hp no ans
  have block : ∀ {v : State}, s.blockWrite w = v → ans v := exec_blockWrite hp
  have regWrite (hc : w.code = 0x20) {v : State} (hv : s.regWrite w = v) : ans v := block ((State.blockWrite_regWrite hc).trans hv)
  have readSet (hc : w.code = 0x21) {v : State} (hv : s.readSet w = v) : ans v := block ((State.blockWrite_readSet hc).trans hv)
  refine ⟨fun hu hl => ?_, fun _ _ => rfl, fun hu ha => ?_, fun h => ?_, fun n h => ?_, fun h => ?_, fun d h hd ht => ?_,
    fun b o hr hb => ?_⟩
  · have h : s.SmbTakes := ⟨hu, hl⟩
    refine ⟨fun h0 h1 => block (State.blockWrite_otherCode h h0 h1), fun hc hn hl h1 h8 => ?_, fun hc hf => ?_, fun hc hf => ?_,
      fun k hc hn h1 h8 hl => ?_, fun hs => ?_, fun x k hs hb => ⟨fun acc t hv hr ha => ?_, fun hv => ?_⟩, ?_⟩
    · have hf : w.IsReadSet := ⟨hn, hl, h1, h8⟩
      exact ⟨fun hpec => readSet hc (State.readSet_taken h hf hpec), fun hpec => readSet hc (State.readSet_badPec h hf hpec)⟩
    · exact readSet hc (State.readSet_badForm h hf)
    · exact regWrite hc (State.regWrite_badForm h hf)
    · have hf : w.IsRegWrite k := ⟨hn, h1, h8, hl⟩
      refine ⟨fun hpec => regWrite hc (State.regWrite_badPec h hf hpec), fun hpec hb => ⟨fun hv => ?_, fun hv => ?_,
        fun acc t hv hr => ?_⟩⟩
      · exact regWrite hc (State.regWrite_range h hf hpec hb hv)
      · exact regWrite hc (State.regWrite_denied h hf hpec hb hv)
      · have ran : s.regWrite w = t.regWritten acc := State.regWrite_ran h hf hpec hb hv hr
        exact ⟨fun hs hw => regWrite hc (ran.trans (State.regWritten_done hs hw)),
          fun hs hw => regWrite hc (ran.trans (State.regWritten_waits hs hw)),
          fun hs => ⟨_, regWrite hc (ran.trans (State.regWritten_stopped hs)), rfl⟩⟩
    · exact (exec_regRead hp).trans (congrArg _ (State.regRead_unset h hs))
    · exact (exec_regRead hp).trans (congrArg _ (State.regRead_read h hs hb hv hr ha))
    · exact (exec_regRead hp).trans (congrArg _ (State.regRead_barred h hs hb hv))
    · exact (exec_xstatus hp).trans (congrArg _ (State.xstatus_taken h))
  · exact (exec_alertResponse hp).trans (congrArg _ (State.alertAnswer_asserted hu ha))
  · exact (exec_alertResponse hp).trans (congrArg _ (State.alertAnswer_silent h))
  · exact (exec_smbusStretchTimeout hp).trans (congrArg _ (State.stretchEnds_stretched h))
  · exact (exec_smbusClockHeldLow hp).trans (congrArg _ (State.smbTimedOut_free h))
  · exact (exec_smbusClockHeldLow hp).trans (congrArg _ (State.smbTimedOut_pending h hd ht))
  · rw [exec_registerWrite hp hr, State.writeAt_register hb]

end Machine
end Sys2Proof
end

section
/-! PROOFS. A device without power: `UnpoweredDeviceDoesNothing` (R32, R375, R413). -/

namespace Sys2Proof.Machine

section
variable {s : State} (hp : s.powered = false)
include hp

/-- An event that needs power does not happen without it, wherever it is enabled. -/
theorem State.doIf_unpowered {b : Bool} {f : State → State} : s.doIf b f = .next s := by
  simp [State.doIf, hp]

theorem State.doAll_unpowered {b : Bool} {f : State → State} : s.doAll b f = .next s :=
  State.doIf_unpowered hp

theorem State.regionStep_unpowered {r : RegionId} {o : Nat} {w : Writes} : s.regionStep r o w = .next s :=
  State.doIf_unpowered hp

/-- One that names a stratum, page or group may still fault for its place. -/
theorem State.doPlace_unpowered {n limit : Nat} {b : Bool} {f : State → State} :
    s.doPlace n limit b f = .next s ∨ ∃ m, s.doPlace n limit b f = .fault (.noSuchPlace m) := by
  by_cases h : limit ≤ n
  · exact .inr ⟨n, if_pos h⟩
  · exact .inl ((if_neg h).trans (State.doIf_unpowered hp))

theorem State.loseVaon_unpowered (hh : s.held = false) : s.loseVaon = s :=
  if_neg (by simp [hp, hh])

theorem State.cold_resetLow_unpowered : s.cold .resetLow = s :=
  if_neg (by simp [hp])

theorem State.cold_resetN_unpowered (hh : s.held = false) (n : Nat) : s.cold (.resetN n) = s := by
  simp [State.cold, hp, hh]

/-- Every command but COLD_RESET and LOSS_OF_VAON is of one of the four forms above. -/
theorem exec_unpowered {i : Instr} (hc : ∀ c, i ≠ .coldReset c) (hv : i = .lossOfVaon → s.held = false) :
    exec i s = .next s ∨ ∃ n, exec i s = .fault (.noSuchPlace n) := by
  cases i with
  | coldReset c => exact absurd rfl (hc c)
  | lossOfVaon => exact .inl (congrArg _ (State.loseVaon_unpowered hp (hv rfl)))
  | mapFetchComplete | counterFetchComplete | eraseComplete | eraseBegin | stratumBucketEntry | stratumPad | rolloverImage =>
    unfold exec
    exact State.doPlace_unpowered hp
  | mgmtWrite | codewordDecoded | rebuildComplete | patrolFinding | sramUncorrectable | pwrfailFall | seqDisable |
    checkTimeoutRailFail | domainOn | domainStartTimeout | domainOff | pgFall | runningFault | retryOffExpiry | systemAction | off
    | cleanStopTimeout | pendingAccessComplete | pendingAccessRelease | tileRecovery | ledgerCommitComplete | thermalStop |
    sensorStop | regWrite | readSet | dapReg | registerWrite =>
    unfold exec
    exact .inl (State.doAll_unpowered hp)
  | rgnBaseWrite | rgnSizeWrite | modeWrite | enable | online | readOnly | offline | zeroize | disable | rekey | lostZeroize | lostRekey =>
    unfold exec
    exact .inl (State.regionStep_unpowered hp)
  | _ =>
    unfold exec
    exact .inl (State.doIf_unpowered hp)

end

/-- Settles O9: every other command asks for power before it acts, and the pin RESET_N is watched by a device that has power or is held. -/
theorem unpoweredDeviceDoesNothing : Obligations.UnpoweredDeviceDoesNothing := by
  intro i s hp
  refine ⟨exec_unpowered hp, fun hh => ⟨?_, fun n => ?_⟩⟩
  · exact congrArg _ (State.cold_resetLow_unpowered hp)
  · exact congrArg _ (State.cold_resetN_unpowered hp hh n)

end Sys2Proof.Machine
end

section
/-! PROOFS. The state after reset: `ResetLeavesTheDeviceDark` (R21, R314, R355). -/

namespace Sys2Proof.Machine

/-- Settles O3: the supervisor's rails and domains number by number, every other entry of a table not listed. -/
theorem resetLeavesTheDeviceDark : Obligations.ResetLeavesTheDeviceDark := by
  have doms : ∀ d : DomainId, (State.reset.sup.dom d).st = if d.val = 0 then .on else .off := by decide
  have rails : ∀ x : RailId, x.val ≠ 0 → (State.reset.sup.rail x).st = .off ∧ (State.reset.sup.rail x).en = false := by decide
  exact ⟨rfl, doms, rails, fun _ => ⟨rfl, rfl, rfl, rfl⟩, fun _ _ => rfl, rfl, fun _ => rfl, fun _ => ⟨rfl, rfl⟩, rfl, rfl, rfl, rfl,
    rfl, rfl⟩

end Sys2Proof.Machine
end

section
/-! PROOFS. The checks of a request's address: `MisalignedAddressesCompleteRange` (R22, R98). -/

namespace Sys2Proof

/-- A request whose address is no multiple of its access: 64 bytes for a read or write of lines, 8 for an atomic (R22). -/
def Rq.Misaligned (r : Rq) : Prop :=
  ((r.hdr.opcode = Machine.opRead ∨ r.hdr.opcode = Machine.opWrite ∨ r.hdr.opcode = Machine.opPartial) ∧ r.addr % 64 ≠ 0) ∨
    ((r.hdr.opcode = Machine.opCas ∨ r.hdr.opcode = Machine.opFadd) ∧ r.addr % 8 ≠ 0)

theorem Rq.Misaligned.isMemory {r : Rq} (h : r.Misaligned) : Machine.isMemory r.hdr.opcode = true := by
  obtain ⟨(h | h | h), _⟩ | ⟨(h | h), _⟩ := h <;> rw [h] <;> rfl

namespace Machine

variable {s : State} {x : SessId} {r : Rq}

/-! ### A check that fails -/

theorem State.screenMem_misaligned (h : r.Misaligned) : s.screenMem x r = some stRange := by
  refine if_pos (.inl ?_)
  obtain ⟨(h | h | h), ha⟩ | ⟨(h | h), ha⟩ := h <;> rw [h] <;> exact ha

theorem State.screen_memory (h : isMemory r.hdr.opcode = true) :
    s.screen x r = if s.formBad x r then some stRange else s.screenMem x r := by
  simp only [State.screen, h, if_true]

/-- RANGE answers a bad form and a misaligned address alike (R22, R48). -/
theorem State.screen_misaligned (h : r.Misaligned) : s.screen x r = some stRange := by
  rw [State.screen_memory h.isMemory, State.screenMem_misaligned h, ite_self]

/-! ### What becomes of the request -/

/-- A request that fails a check is accepted without parts. -/
theorem State.accept_failed {st : Byte} (h : s.screen x r = some st) :
    ∃ q : Req, ((s.accept x r).ses x).reqs = (s.ses x).reqs ++ [q] ∧ q.rq = r ∧ q.parts = [] ∧ q.fail = some st := by
  refine ⟨{ rq := r, fail := some st }, ?_, rfl, rfl, rfl⟩
  simp [State.accept, h, Sess.seen]

theorem Req.flags_first {q : Req} (h : q.replay = false) : q.flags = 0 := by
  rw [Req.flags, h]
  rfl

/-- The form is checked against the session's version alone. -/
theorem State.formBad_modSes {f : Sess → Sess} (hf : (f (s.ses x)).v1 = (s.ses x).v1) :
    (s.modSes x f).formBad x r = s.formBad x r := by
  simp only [State.formBad, State.ses_modSes, if_true, hf]

/-- The first request not resolved, once it has failed a check, is refused with that status (R98). -/
theorem State.advance1_failed {q : Req} {st : Byte} (hq : (s.ses x).reqs.find? (fun q => decide (q.st = .claiming)) = some q)
    (hf : q.fail = some st) (hr : q.replay = false) (hx : (s.ses x).st = .live) (ho : q.rq.hdr.opcode ≠ opMgmtRead) :
    s.advance1 x = some ((s.modSes x fun S => { S with
      reqs := S.reqs.map fun o => if o = q then { q with st := .armed, parts := [] } else o }).refuse x q.rq st (s.formBad x q.rq)) := by
  have now : ¬((s.ses x).st ≠ .live ∨ (s.ses x).afterChecks q = true) := by simp [hx, Sess.afterChecks, hr]
  simp only [State.advance1, hq]
  rw [if_neg now, hf]
  simp only [ho, false_and, if_false, Req.flags_first hr]
  rw [State.formBad_modSes rfl]

/-- Settles O12: a misaligned address fails the checks with RANGE, and a request that has failed them takes no part. -/
theorem misalignedAddressesCompleteRange : Obligations.MisalignedAddressesCompleteRange := by
  intro s x r h
  have h : r.Misaligned := h
  refine ⟨State.screen_misaligned h, State.accept_failed (State.screen_misaligned h), fun q hq hrq hf hr hx => ?_⟩
  subst hrq
  exact State.advance1_failed hq hf hr hx fun ho => absurd h.isMemory (by rw [ho]; decide)

end Machine
end Sys2Proof
end

section
/-! PROOFS. The messages between home and owning tiles: `MeshMessagesAreTakenInOrder` (R20, R97 to R103, R152). -/

namespace Sys2Proof.Machine

variable {s : State} {src dst : TileId}

/-! ### A tile that does not hear the mesh takes nothing (R20) -/

section
variable (hh : s.hears dst = false)
include hh

theorem State.msgClaim_deaf : s.msgClaim src dst = s := by
  unfold State.msgClaim
  split <;> simp [hh]

theorem State.msgResult_deaf : s.msgResult src dst = s := by
  unfold State.msgResult
  split <;> simp [hh]

theorem State.msgArm_deaf : s.msgArm src dst = s := by
  unfold State.msgArm
  split <;> simp [hh]

theorem State.msgDrop_deaf : s.msgDrop src dst = s := by
  unfold State.msgDrop
  split <;> simp [hh]

theorem State.msgRewind_deaf : s.msgRewind src dst = s := by
  unfold State.msgRewind
  split <;> simp [hh]

theorem State.msgDone_deaf : s.msgDone src dst = s := by
  unfold State.msgDone
  split <;> simp [hh]

end

/-! ### What the oldest message does where it is heard -/

section
variable {m : Msg} (hh : s.hears dst = true) (hm : s.firstMsg src dst = some m)
include hh hm

/-- CLAIM: the part is taken in and its result goes back; a part alone is armed, its region checked once more (R99; log 123). -/
theorem State.msgClaim_heard {x : SessId} {rq : Rq} {part first n : Nat} {tla : BitVec 42} {mark armNow : Bool}
    (hb : m.body = .claim x rq part first n tla mark armNow) :
    s.msgClaim src dst = if (s.ses x).st = .live then
        let c := (s.takeMsg src dst).claim dst src x rq first n tla mark
        let s2 := c.1.send dst src (.claimResult x rq.hdr.seq part c.2)
        let id := freeId (s.tile dst).adm.cells
        if armNow = true ∧ c.2 = none then
          (match s2.barsNow rq with
          | some st => (s2.modCell dst id fun c => { c with res := { c.res with status := st } }).armPart dst id
          | none => s2.armPart dst id)
        else s2
      else s.takeMsg src dst := by
  obtain ⟨_, _, _, _⟩ := m
  cases hb
  rw [State.msgClaim, hm]
  exact if_pos hh

/-- CLAIM_RESULT of a session that has ended, and one that is not awaited any more (R104). -/
theorem State.msgResult_ended {x : SessId} {seq : Word} {part : Nat} {f : Option Short} (hb : m.body = .claimResult x seq part f)
    (hx : (s.ses x).st ≠ .live) : s.msgResult src dst = s.takeMsg src dst := by
  obtain ⟨_, _, _, _⟩ := m
  cases hb
  rw [State.msgResult, hm]
  exact (if_pos hh).trans (if_pos hx)

theorem State.msgResult_stale {x : SessId} {seq : Word} {part : Nat} {f : Option Short} (hb : m.body = .claimResult x seq part f)
    (hx : (s.ses x).st = .live) (hs : Tab.get 0 (s.ses x).stale src.val ≠ 0) :
    s.msgResult src dst =
      (s.takeMsg src dst).modSes x fun S => { S with stale := Tab.upd 0 S.stale src.val fun n => n - 1 } := by
  obtain ⟨_, _, _, _⟩ := m
  cases hb
  rw [State.msgResult, hm]
  exact (if_pos hh).trans ((if_neg (not_not_intro hx)).trans (if_pos hs))

/-- ARM: of a LIVE session, and of one that has ended (R92, R111; log 149). -/
theorem State.msgArm_heard {x : SessId} {seq : Word} {part : Nat} (hb : m.body = .arm x seq part) :
    s.msgArm src dst = match (s.takeMsg src dst).cellOf dst x seq with
      | some id =>
        if (s.ses x).st = .live then (s.takeMsg src dst).armPart dst id
        else if part = 0 then ((s.takeMsg src dst).armPart dst id).endCell dst id
        else s.takeMsg src dst
      | none => s.takeMsg src dst := by
  obtain ⟨_, _, _, _⟩ := m
  cases hb
  rw [State.msgArm, hm]
  exact if_pos hh

theorem State.msgDrop_heard {x : SessId} {seq : Word} (hb : m.body = .drop x seq) :
    s.msgDrop src dst = (s.takeMsg src dst).dropPart dst x seq := by
  obtain ⟨_, _, _, _⟩ := m
  cases hb
  rw [State.msgDrop, hm]
  exact if_pos hh

theorem State.msgRewind_heard {x : SessId} (hb : m.body = .rewind x) :
    s.msgRewind src dst = (s.takeMsg src dst).rewind dst x := by
  obtain ⟨_, _, _, _⟩ := m
  cases hb
  rw [State.msgRewind, hm]
  exact if_pos hh

/-- PART_COMPLETION: of the session's epoch, while it is LIVE (R30). -/
theorem State.msgDone_heard {x : SessId} {epoch : BitVec 16} {seq : Word} {part : Nat} {r : PartRes}
    (hb : m.body = .completion x epoch seq part r) :
    s.msgDone src dst = if (s.ses x).st = .live ∧ (s.ses x).epoch = epoch then
      ((s.takeMsg src dst).partDone x seq part r).settle x else s.takeMsg src dst := by
  obtain ⟨_, _, _, _⟩ := m
  cases hb
  rw [State.msgDone, hm]
  exact if_pos hh

end

/-! ### The commands -/

section
variable (hp : s.powered = true)
include hp

theorem exec_claim : exec (.claim src dst) s = .next (s.msgClaim src dst) :=
  (State.doIf_enabled hp rfl : execClaim src dst s = _)

theorem exec_claimResult : exec (.claimResult src dst) s = .next (s.msgResult src dst) :=
  (State.doIf_enabled hp rfl : execClaimResult src dst s = _)

theorem exec_arm : exec (.arm src dst) s = .next (s.msgArm src dst) :=
  (State.doIf_enabled hp rfl : execArm src dst s = _)

theorem exec_dropRemainder : exec (.dropRemainder src dst) s = .next (s.msgDrop src dst) :=
  (State.doIf_enabled hp rfl : execDropRemainder src dst s = _)

theorem exec_rewind : exec (.rewind src dst) s = .next (s.msgRewind src dst) :=
  (State.doIf_enabled hp rfl : execRewind src dst s = _)

theorem exec_partCompletion : exec (.partCompletion src dst) s = .next (s.msgDone src dst) :=
  (State.doIf_enabled hp rfl : execPartCompletion src dst s = _)

end

/-- Settles O25, message by message, from what each kind does where it is heard. -/
theorem meshMessagesAreTakenInOrder : Obligations.MeshMessagesAreTakenInOrder := by
  intro src dst s hp
  rw [exec_claim hp, exec_claimResult hp, exec_arm hp, exec_dropRemainder hp, exec_rewind hp, exec_partCompletion hp]
  refine ⟨fun m hh hm => ⟨fun x rq part first n tla mark armNow hb => ?_, fun x seq part f hb => ⟨fun hx => ?_, fun n hx hs => ?_⟩,
    fun x seq part hb => ?_, fun x seq hb => ?_, fun x hb => ?_, fun x epoch seq part r hb => ?_⟩, fun hh => ?_⟩
  · rw [State.msgClaim_heard hh hm hb]
    refine ⟨fun hx ha => ?_, fun hx ha hc => ⟨fun hbars => ?_, fun st hbars => ?_⟩, fun hx => congrArg _ (if_neg hx)⟩
    · rw [if_pos hx]
      exact congrArg _ (if_neg fun ⟨h1, h2⟩ => ha.elim (by simp [h1]) (· h2))
    · rw [if_pos hx]
      refine congrArg _ ((if_pos ⟨ha, hc⟩).trans ?_)
      rw [hbars]
    · rw [if_pos hx]
      refine congrArg _ ((if_pos ⟨ha, hc⟩).trans ?_)
      rw [hbars]
  · exact congrArg _ (State.msgResult_ended hh hm hb hx)
  · exact congrArg _ (State.msgResult_stale hh hm hb hx (by omega))
  · rw [State.msgArm_heard hh hm hb]
    refine ⟨fun id hid => ?_, fun hid => by rw [hid]⟩
    rw [hid]
    exact ⟨fun hx => congrArg _ (if_pos hx), fun hx h0 => congrArg _ ((if_neg hx).trans (if_pos h0)),
      fun hx h0 => congrArg _ ((if_neg hx).trans (if_neg h0))⟩
  · exact congrArg _ (State.msgDrop_heard hh hm hb)
  · exact congrArg _ (State.msgRewind_heard hh hm hb)
  · rw [State.msgDone_heard hh hm hb]
    exact ⟨fun hx he => congrArg _ (if_pos ⟨hx, he⟩), fun h => congrArg _ (if_neg fun ⟨hx, he⟩ => h.elim (· hx) (· he))⟩
  · rw [State.msgClaim_deaf hh, State.msgResult_deaf hh, State.msgArm_deaf hh, State.msgDrop_deaf hh, State.msgRewind_deaf hh,
      State.msgDone_deaf hh]
    exact ⟨rfl, rfl, rfl, rfl, rfl, rfl⟩

end Sys2Proof.Machine
end

section
/-! PROOFS. What work on a tile leaves alone (`State.outside`): the operations of the access path, the medium and the journal. -/

namespace Sys2Proof.Machine

/-- A state without what the work of its tiles and sessions changes: sessions, leases, ledger, events, tiles, media, mesh, the frames
sent and the numbers drawn. Work on a tile leaves this much alone. -/
def State.outside (s : State) : State :=
  { s with free := 0, sess := [], rgns := [], ldg := {}, evt := {}, tiles := [], media := [], mesh := [], out := [] }

/-! ### Conditionals, folds and numbers drawn -/

@[simp] theorem State.ite_outside {c : Prop} [Decidable c] (a b : State) :
    (if c then a else b).outside = if c then a.outside else b.outside := apply_ite State.outside c a b

theorem State.ite_outside_of {s a b : State} {c : Prop} [Decidable c] (ha : a.outside = s.outside) (hb : b.outside = s.outside) :
    (if c then a else b).outside = s.outside := by
  split <;> assumption

@[simp] theorem State.foldl_outside {α : Type} {f : State → α → State} (hf : ∀ s a, (f s a).outside = s.outside) (l : List α) (s : State) :
    (l.foldl f s).outside = s.outside := by
  induction l generalizing s with
  | nil => rfl
  | cons a l ih => exact (ih _).trans (hf s a)

theorem State.foldl_fst_outside {α β : Type} {f : State × β → α → State × β} (hf : ∀ e a, (f e a).1.outside = e.1.outside)
    (l : List α) (e : State × β) : (l.foldl f e).1.outside = e.1.outside := by
  induction l generalizing e with
  | nil => rfl
  | cons a l ih => exact (ih _).trans (hf e a)

@[simp] theorem State.draw_outside (s : State) (w : Nat) : (s.draw w).2.outside = s.outside := (rfl)

variable (s : State)

/-! ### Updates of one part -/

@[simp] theorem State.modMedium_outside (t : TileId) (f : Medium → Medium) : (s.modMedium t f).outside = s.outside := (rfl)
@[simp] theorem State.modSes_outside (x : SessId) (f : Sess → Sess) : (s.modSes x f).outside = s.outside := (rfl)
@[simp] theorem State.modRgn_outside (r : RegionId) (f : Region → Region) : (s.modRgn r f).outside = s.outside := (rfl)
@[simp] theorem State.modTile_outside (t : TileId) (f : Tile → Tile) : (s.modTile t f).outside = s.outside := (rfl)
@[simp] theorem State.modLdg_outside (f : Ledger → Ledger) : (s.modLdg f).outside = s.outside := (rfl)
@[simp] theorem State.modEvt_outside (f : Evt → Evt) : (s.modEvt f).outside = s.outside := (rfl)
@[simp] theorem State.modCtl_outside (t : TileId) (f : Tctl → Tctl) : (s.modCtl t f).outside = s.outside := by simp [State.modCtl]
@[simp] theorem State.modAdm_outside (t : TileId) (f : Adm → Adm) : (s.modAdm t f).outside = s.outside := by simp [State.modAdm]
@[simp] theorem State.modXlt_outside (t : TileId) (f : Xlt → Xlt) : (s.modXlt t f).outside = s.outside := by simp [State.modXlt]
@[simp] theorem State.modMed_outside (t : TileId) (f : Med → Med) : (s.modMed t f).outside = s.outside := by simp [State.modMed]
@[simp] theorem State.modSch_outside (t : TileId) (f : Sch → Sch) : (s.modSch t f).outside = s.outside := by simp [State.modSch]
@[simp] theorem State.modSec_outside (t : TileId) (f : Sec → Sec) : (s.modSec t f).outside = s.outside := by simp [State.modSec]
@[simp] theorem State.modPmc_outside (t : TileId) (f : Pmc → Pmc) : (s.modPmc t f).outside = s.outside := by simp [State.modPmc]
@[simp] theorem State.admCnt_outside (t : TileId) (i : Nat) : (s.admCnt t i).outside = s.outside := by simp [State.admCnt]
@[simp] theorem State.xltCnt_outside (t : TileId) (i : Nat) : (s.xltCnt t i).outside = s.outside := by simp [State.xltCnt]
@[simp] theorem State.secCnt_outside (t : TileId) (i : Nat) : (s.secCnt t i).outside = s.outside := by simp [State.secCnt]
@[simp] theorem State.medTcnt_outside (t : TileId) (i : Nat) (n : Nat) :
    (s.medTcnt t i n).outside = s.outside := by simp [State.medTcnt]
@[simp] theorem State.medCcnt_outside (t : TileId) (c i : Nat) (n : Nat) :
    (s.medCcnt t c i n).outside = s.outside := by simp [State.medCcnt]

/-! ### Frames, responses and events -/

@[simp] theorem State.commit_outside (base : Nat) (b : Body) (post : List Deferred) :
    (s.commit base b post).outside = s.outside := by simp [State.commit]
@[simp] theorem State.rgnCommit_outside (r : RegionId) (us : List RgnUpd) (post : List Deferred) :
    (s.rgnCommit r us post).outside = s.outside := by simp [State.rgnCommit]
@[simp] theorem State.wait_outside (x : SessId) (w : Waiting) : (s.wait x w).outside = s.outside := by simp [State.wait]

@[simp] theorem State.emit_outside (x : SessId) (f : Frame) : (s.emit x f).outside = s.outside := by
  unfold State.emit
  dsimp only
  split
  · rfl
  · split <;> rfl

@[simp] theorem State.freeCell_outside (t : TileId) (x : SessId) (id : Nat) :
    (s.freeCell t x id).outside = s.outside := by simp [State.freeCell]

@[simp] theorem State.uncell_outside (x : SessId) (seq : Option Word) : (s.uncell x seq).outside = s.outside := by
  unfold State.uncell
  repeat' split
  all_goals simp

@[simp] theorem State.retired_outside (x : SessId) (w : Waiting) : (s.retired x w).outside = s.outside := by
  unfold State.retired
  repeat' split
  all_goals simp

@[simp] theorem State.sendFirst_outside (x : SessId) (w : Waiting) (rest : List Waiting) :
    (s.sendFirst x w rest).outside = s.outside := by
  unfold State.sendFirst
  repeat' split
  all_goals simp

@[simp] theorem State.flushN_outside (n : Nat) (x : SessId) : (State.flushN n x s).outside = s.outside := by
  induction n generalizing s with
  | zero => rfl
  | succ n ih =>
    unfold State.flushN
    split
    · rfl
    · split
      · simp [ih]
      · rfl

@[simp] theorem State.flush_outside (x : SessId) : (s.flush x).outside = s.outside := by simp [State.flush]
@[simp] theorem State.sendOrWait_outside (x : SessId) (w : Waiting) :
    (s.sendOrWait x w).outside = s.outside := by simp [State.sendOrWait]
@[simp] theorem State.eventFrames_outside (n : Nat) (sf : BitVec 40) (detail : BitVec 64) (count : Nat) :
    (s.eventFrames n sf detail count).outside = s.outside := by simp [State.eventFrames]

@[simp] theorem State.occur_outside (n : Nat) (detail : BitVec 64) (bit : Bool) : (s.occur n detail bit).outside = s.outside := by
  unfold State.occur
  dsimp only
  repeat' split
  all_goals simp

@[simp] theorem State.raise_outside (n : Nat) (detail : BitVec 64) (bit : Bool) (f : BitVec 64 → BitVec 64) :
    (s.raise n detail bit f).outside = s.outside := by simp [State.raise]

/-! ### Performance counters -/

@[simp] theorem State.sample_outside (t : TileId) (i : Fin 64) (c : Option Nat) :
    (s.sample t i c).outside = s.outside := by simp [State.sample]
@[simp] theorem State.sampleN_outside (t : TileId) (i : Fin 64) (c : Option Nat) (n : Nat) :
    (s.sampleN t i c n).outside = s.outside := by simp [State.sampleN]
@[simp] theorem State.pmcAdvance_outside (t : TileId) (i : Fin 64) (n : Nat) (c : Option Nat) :
    (s.pmcAdvance t i n c).outside = s.outside := by simp [State.pmcAdvance]
@[simp] theorem State.pmc_outside (t : TileId) (ev : Nat) (c : Option Nat) (n : Nat) :
    (s.pmc t ev c n).outside = s.outside := by simp [State.pmc]

/-! ### Cells, reads and lines -/

@[simp] theorem State.modCell_outside (t : TileId) (id : Nat) (f : Cell → Cell) :
    (s.modCell t id f).outside = s.outside := by simp [State.modCell]
@[simp] theorem State.touchPage_outside (t : TileId) (page : Nat) :
    (s.touchPage t page).outside = s.outside := by simp [State.touchPage]
@[simp] theorem State.modDie_outside (t : TileId) (c d : Nat) (f : Die → Die) :
    (s.modDie t c d f).outside = s.outside := by simp [State.modDie]
@[simp] theorem State.modStratum_outside (t : TileId) (n : Nat) (f : Stratum → Stratum) :
    (s.modStratum t n f).outside = s.outside := by simp [State.modStratum]
@[simp] theorem State.newFetch_outside (t : TileId) (f : Fetch) : (s.newFetch t f).outside = s.outside := by simp [State.newFetch]
@[simp] theorem State.setFetch_outside (t : TileId) (id : Nat) (f : Option Fetch) :
    (s.setFetch t id f).outside = s.outside := by simp [State.setFetch]
@[simp] theorem State.startRebuild_outside (t : TileId) (id : Nat) (f : Fetch) :
    (s.startRebuild t id f).outside = s.outside := by simp [State.startRebuild]
@[simp] theorem State.bgFetch_outside (t : TileId) (cwa : BitVec 34) (o : Owner) :
    (s.bgFetch t cwa o).outside = s.outside := by simp [State.bgFetch]
@[simp] theorem State.fetchPage_outside (t : TileId) (page : Nat) :
    (s.fetchPage t page).outside = s.outside := by simp [State.fetchPage]
@[simp] theorem State.wantNode_outside (t : TileId) (key : Nat) : (s.wantNode t key).outside = s.outside := by simp [State.wantNode]
@[simp] theorem State.wantCtr_outside (t : TileId) (slot : Nat) : (s.wantCtr t slot).outside = s.outside := by simp [State.wantCtr]

@[simp] theorem State.linkRead_outside (t : TileId) (id i : Nat) (cwa : BitVec 34) (sub : Nat) (token : Option Word) :
    (s.linkRead t id i cwa sub token).outside = s.outside := by
  unfold State.linkRead
  dsimp only
  repeat' split
  all_goals simp

@[simp] theorem State.send_outside (src dst : TileId) (b : MsgBody) : (s.send src dst b).outside = s.outside := (rfl)

@[simp] theorem State.release_outside (t : TileId) (id : Nat) : (s.release t id).outside = s.outside := by
  unfold State.release
  split <;> simp

@[simp] theorem State.finish_outside (t : TileId) (id : Nat) : (s.finish t id).outside = s.outside := by
  unfold State.finish
  split <;> simp

@[simp] theorem State.give_outside (t : TileId) (id i : Nat) (data : Line) (poison : Nat) (never pending retry : Bool) :
    (s.give t id i data poison never pending retry).outside = s.outside := by simp [State.give]
@[simp] theorem State.pinOlder_outside (t : TileId) (id line : Nat) :
    (s.pinOlder t id line).outside = s.outside := by simp [State.pinOlder]
@[simp] theorem State.stage_outside (t : TileId) (id i : Nat) (line : Nat) (data : Line) :
    (s.stage t id i line data).outside = s.outside := by simp [State.stage]
@[simp] theorem State.giveBack_outside (t : TileId) (id i : Nat) :
    (s.giveBack t id i).outside = s.outside := by simp [State.giveBack]

@[simp] theorem State.execOne_outside (t : TileId) (id i : Nat) (cur : Line) (poison : Nat) (retry : Bool) :
    (s.execOne t id i cur poison retry).outside = s.outside := by
  unfold State.execOne
  split <;> simp

@[simp] theorem State.execLine_outside (t : TileId) (id i : Nat) (cur : Line) (poison : Nat) (retry : Bool) :
    (s.execLine t id i cur poison retry).outside = s.outside := by
  unfold State.execLine
  split
  · rfl
  · refine (State.foldl_fst_outside (fun e q => ?_) _ _).trans (s.execOne_outside ..)
    split
    · rfl
    · split <;> simp

@[simp] theorem State.supersede_outside (t : TileId) (line : Nat) (m : Nat × Nat) (self : Nat) :
    (s.supersede t line m self).outside = s.outside := by
  unfold State.supersede
  refine State.foldl_outside (fun s a => ?_) _ _
  split <;> simp

@[simp] theorem State.setSpan_outside (t : TileId) (line : Nat) : (s.setSpan t line).outside = s.outside := by simp [State.setSpan]

@[simp] theorem State.lookup_outside (t : TileId) (line : Nat) (tok : BitVec 64) (old again : Bool) :
    (s.lookup t line tok old again).2.2.outside = s.outside := by
  unfold State.lookup
  dsimp only
  repeat' split
  all_goals simp

@[simp] theorem State.serveLine_outside (t : TileId) (id i : Nat) : (s.serveLine t id i).outside = s.outside := by
  unfold State.serveLine
  split
  · rfl
  · refine State.ite_outside_of rfl (State.ite_outside_of ?_ ?_)
    · rw [State.give_outside, State.stage_outside, State.setSpan_outside]
      split <;> simp
    · split
      · simp
      · dsimp only
        split
        · rfl
        · refine State.ite_outside_of (by simp) ?_
          split <;> simp

@[simp] theorem State.serveCell_outside (t : TileId) (id : Nat) : (s.serveCell t id).outside = s.outside := by
  unfold State.serveCell
  split <;> simp

@[simp] theorem State.serveWaiting_outside (t : TileId) : (s.serveWaiting t).outside = s.outside := by simp [State.serveWaiting]
@[simp] theorem State.dropFetches_outside (t : TileId) (p : Fetch → Bool) :
    (s.dropFetches t p).outside = s.outside := by simp [State.dropFetches]

/-! ### The journal and its records -/

@[simp] theorem State.addValid_outside (t : TileId) (n k : Nat) : (s.addValid t n k).outside = s.outside := by simp [State.addValid]
@[simp] theorem State.subValid_outside (t : TileId) (n k : Nat) : (s.subValid t n k).outside = s.outside := by simp [State.subValid]
@[simp] theorem State.cacheIn_outside (t : TileId) (page : Nat) (dirty : Bool) :
    (s.cacheIn t page dirty).outside = s.outside := by simp [State.cacheIn]
@[simp] theorem State.dirtyPage_outside (t : TileId) (page : Nat) :
    (s.dirtyPage t page).outside = s.outside := by simp [State.dirtyPage]
@[simp] theorem State.setTe_outside (t : TileId) (tract : Nat) (e : Te) :
    (s.setTe t tract e).outside = s.outside := by simp [State.setTe]

@[simp] theorem State.setOvl_outside (t : TileId) (line : Nat) (v : Option (Option Nat)) :
    (s.setOvl t line v).outside = s.outside := by
  unfold State.setOvl
  dsimp only
  repeat' split
  all_goals simp

@[simp] theorem State.moveTe_outside (t : TileId) (tract : Nat) (e : Te) :
    (s.moveTe t tract e).outside = s.outside := by simp [State.moveTe]
@[simp] theorem State.freeFrame_outside (t : TileId) (line ord : Nat) :
    (s.freeFrame t line ord).outside = s.outside := by simp [State.freeFrame]
@[simp] theorem State.unpack_outside (t : TileId) (l : List (Nat × Nat)) :
    (s.unpack t l).outside = s.outside := by simp [State.unpack]
@[simp] theorem State.startFold_outside (t : TileId) (tract : Nat) :
    (s.startFold t tract).outside = s.outside := by simp [State.startFold]

@[simp] theorem State.displace_outside (t : TileId) (line : Nat) (w : Nat × Option Nat ⊕ PoisonFrom) :
    (s.displace t line w).outside = s.outside := by
  unfold State.displace
  dsimp only
  split <;> simp

@[simp] theorem State.foldCount_outside (t : TileId) (tract : Nat) :
    (s.foldCount t tract).outside = s.outside := by simp [State.foldCount]

@[simp] theorem State.placeEntry_outside (t : TileId) (line la : Nat) (ord : Option Nat) :
    (s.placeEntry t line la ord).outside = s.outside := by
  unfold State.placeEntry
  repeat' split
  all_goals simp

@[simp] theorem State.placePoison_outside (t : TileId) (line : Nat) (w : PoisonFrom) :
    (s.placePoison t line w).outside = s.outside := by
  unfold State.placePoison
  repeat' split
  all_goals simp

@[simp] theorem State.placeDisplaced_outside (t : TileId) :
    (s.placeDisplaced t).outside = s.outside := by simp [State.placeDisplaced]

@[simp] theorem State.rolled_outside (t : TileId) (slot : Nat) : (s.rolled t slot).outside = s.outside := by
  unfold State.rolled
  dsimp only
  repeat' split
  all_goals simp

@[simp] theorem State.rollAgain_outside (t : TileId) (slot : Nat) :
    (s.rollAgain t slot).outside = s.outside := by simp [State.rollAgain]
@[simp] theorem State.writeBack_outside (t : TileId) (key : Nat) (b : BitVec 512) :
    (s.writeBack t key b).outside = s.outside := by simp [State.writeBack]
@[simp] theorem State.countPacks_outside (t : TileId) (lines : List Nat) :
    (s.countPacks t lines).outside = s.outside := by simp [State.countPacks]
@[simp] theorem State.uncorr_outside (t : TileId) (cwa : BitVec 34) (lines by_ : Nat) :
    (s.uncorr t cwa lines by_).outside = s.outside := by simp [State.uncorr]
@[simp] theorem State.evacEnds_outside (t : TileId) : (s.evacEnds t).outside = s.outside := by simp [State.evacEnds]

@[simp] theorem State.ckptDone_outside (t : TileId) (page : BitVec 30) : (s.ckptDone t page).outside = s.outside := by
  unfold State.ckptDone
  split <;> simp

@[simp] theorem State.dropFolds_outside (t : TileId) (inR : Nat → Bool) :
    (s.dropFolds t inR).outside = s.outside := by simp [State.dropFolds]

@[simp] theorem State.zeroCtrs_outside (t : TileId) (a b level : Nat) : (s.zeroCtrs t a b level).outside = s.outside := by
  unfold State.zeroCtrs
  refine (State.foldl_outside (fun s e => ?_) _ _).trans (s.modSec_outside ..)
  obtain ⟨p, d⟩ := e
  exact State.ite_outside_of rfl (State.ite_outside_of (by simp) (State.foldl_outside (by simp) _ _))

@[simp] theorem State.lostHandled_outside (t : TileId) (first n : Nat) : (s.lostHandled t first n).outside = s.outside := by
  unfold State.lostHandled
  refine State.foldl_outside (fun s e => ?_) _ _
  split
  · rfl
  · refine State.foldl_outside (fun s r => ?_) _ _
    dsimp only
    split <;> simp

@[simp] theorem State.applyRec_outside (t : TileId) (r : JRec) : (s.applyRec t r).outside = s.outside := by
  unfold State.applyRec
  repeat' split
  all_goals simp

@[simp] theorem State.journal_outside (t : TileId) (r : List JRec) : (s.journal t r).outside = s.outside := by simp [State.journal]

/-! ### Reads that end -/

@[simp] theorem State.poisonCw_outside (t : TileId) (cwa : BitVec 34) (by_ : Nat) :
    (s.poisonCw t cwa by_).outside = s.outside := by simp [State.poisonCw]
@[simp] theorem State.fix_outside (t : TileId) (cwa : BitVec 34) (p : BitVec 2304) :
    (s.fix t cwa p).outside = s.outside := by simp [State.fix]
@[simp] theorem State.addLost_outside (t : TileId) (first level : Nat) (cause : BitVec 4) :
    (s.addLost t first level cause).outside = s.outside := by simp [State.addLost]

@[simp] theorem State.settleData_outside (x : SessId) : (s.settleData x).outside = s.outside := by
  unfold State.settleData
  split <;> simp

@[simp] theorem State.outcome_outside (x : SessId) (seq : Word) (ix : Nat) (ok : Bool) :
    (s.outcome x seq ix ok).outside = s.outside := (State.settleData_outside _ _).trans (by cases ok <;> rfl)

@[simp] theorem State.deliverLine_outside (t : TileId) (id i : Nat) (y : BitVec 2304) (sub : Nat) (retry : Bool) :
    (s.deliverLine t id i y sub retry).outside = s.outside := by
  unfold State.deliverLine
  split <;> simp

@[simp] theorem State.arriveLine_outside (t : TileId) (id i : Nat) (cwa : BitVec 34) (sub : Nat) (token : Option Word) (p : BitVec 2304)
    (retry : Bool) :
    (s.arriveLine t id i cwa sub token p retry).outside = s.outside := by
  unfold State.arriveLine
  split <;> simp

@[simp] theorem State.ctrVerified_outside (t : TileId) (slot : Nat) :
    (s.ctrVerified t slot).outside = s.outside := by simp [State.ctrVerified]
@[simp] theorem State.rebuildNow_outside (t : TileId) (cwa : BitVec 34) (o : Owner) :
    (s.rebuildNow t cwa o).outside = s.outside := by simp [State.rebuildNow]

@[simp] theorem State.lineOutcome_outside (t : TileId) (pl : PartLine) (ok : Bool) :
    (s.lineOutcome t pl ok).outside = s.outside := by
  unfold State.lineOutcome
  dsimp only
  repeat' split
  all_goals simp

@[simp] theorem State.failLine_outside (t : TileId) (pl : PartLine) (how : Nat) : (s.failLine t pl how).outside = s.outside := by
  unfold State.failLine
  repeat' split
  all_goals simp

@[simp] theorem State.loseObject_outside (t : TileId) (key : Nat) (cause : BitVec 4) :
    (s.loseObject t key cause).outside = s.outside := by simp [State.loseObject]
@[simp] theorem State.treeFails_outside (t : TileId) (key : Nat) :
    (s.treeFails t key).outside = s.outside := by simp [State.treeFails]

@[simp] theorem State.repaired_outside (t : TileId) (key : Nat) (cwa : BitVec 34) (p : Option (BitVec 2304)) :
    (s.repaired t key cwa p).outside = s.outside := by
  unfold State.repaired
  split <;> simp

@[simp] theorem State.readAgain_outside (t : TileId) (id : Nat) (ix : List Nat) :
    (s.readAgain t id ix).outside = s.outside := by simp [State.readAgain]

@[simp] theorem State.ctrFetched_outside (t : TileId) (slot : Nat) : (s.ctrFetched t slot).outside = s.outside := by
  unfold State.ctrFetched
  dsimp only
  split
  · refine (State.foldl_outside (fun s e => State.foldl_outside (fun s p => ?_) _ _) _ _).trans (by simp)
    repeat' split
    all_goals simp
  · simp

@[simp] theorem State.ctrLost_outside (t : TileId) (slot : Nat) (cause : BitVec 4) :
    (s.ctrLost t slot cause).outside = s.outside := by
  unfold State.ctrLost
  refine (State.foldl_outside (fun s e => State.foldl_outside (fun s p => ?_) _ _) _ _).trans (by simp)
  split <;> simp

@[simp] theorem State.mapFetched_outside (t : TileId) (page : Nat) :
    (s.mapFetched t page).outside = s.outside := by simp [State.mapFetched]
@[simp] theorem State.mapLost_outside (t : TileId) (page : BitVec 30) :
    (s.mapLost t page).outside = s.outside := by simp [State.mapLost]

@[simp] theorem State.mapUnreadable_outside (t : TileId) (cwa : BitVec 34) : (s.mapUnreadable t cwa).outside = s.outside := by
  unfold State.mapUnreadable
  dsimp only
  split <;> simp

@[simp] theorem State.pulled_outside (t : TileId) (slot : Nat) (cwa : BitVec 34) (ok : Bool) :
    (s.pulled t slot cwa ok).outside = s.outside := by
  unfold State.pulled
  split <;> simp

@[simp] theorem State.bgRead_outside (t : TileId) (o : Owner) (cwa : BitVec 34) (ok : Bool) :
    (s.bgRead t o cwa ok).outside = s.outside := by
  unfold State.bgRead
  split <;> simp

@[simp] theorem State.endRead_outside (t : TileId) (fid : Nat) (f : Fetch) (p : Option (BitVec 2304)) :
    (s.endRead t fid f p).outside = s.outside := by
  unfold State.endRead
  dsimp only
  repeat' split
  all_goals simp

/-! ### Programs and their pages -/

@[simp] theorem State.rollProgrammed_outside (t : TileId) (slot tract : Nat) (addr : BitVec 30) (ords : List (Nat × Nat)) :
    (s.rollProgrammed t slot tract addr ords).outside = s.outside := by simp [State.rollProgrammed]
@[simp] theorem State.applyAll_outside (t : TileId) (rs : List JRec) :
    (s.applyAll t rs).outside = s.outside := by simp [State.applyAll]
@[simp] theorem State.sealStratum_outside (t : TileId) (n : Nat) :
    (s.sealStratum t n).outside = s.outside := by simp [State.sealStratum]
@[simp] theorem State.sealIfFull_outside (t : TileId) (n : Nat) :
    (s.sealIfFull t n).outside = s.outside := by simp [State.sealIfFull]

@[simp] theorem State.pageDone_outside (t : TileId) (addr : BitVec 30) (j : PageJob) :
    (s.pageDone t addr j).outside = s.outside := by
  unfold State.pageDone
  dsimp only
  repeat' split
  all_goals simp

@[simp] theorem State.progDone_outside (t : TileId) (c d : Nat) (g : Prog) : (s.progDone t c d g).outside = s.outside := by
  unfold State.progDone
  dsimp only
  split
  · simp
  · rw [State.sealIfFull_outside]
    refine (State.foldl_outside (fun s pl => ?_) _ _).trans (by simp)
    split <;> simp

@[simp] theorem State.requeue_outside (t : TileId) (j : PageJob) : (s.requeue t j).outside = s.outside := by
  obtain ⟨_, content, _, _, _, _⟩ := j
  cases content with
  | log => exact s.unpack_outside ..
  | image _ _ roll =>
    cases roll with
    | none => exact s.unpack_outside ..
    | some => exact s.modXlt_outside ..
  | mapItem => exact State.ite_outside_of (s.modXlt_outside ..) rfl
  | carry | filler | parity => rfl
  | _ => exact s.modXlt_outside ..

@[simp] theorem State.carryAgain_outside (t : TileId) (c : Nat) (g : Prog) :
    (s.carryAgain t c g).outside = s.outside := by simp [State.carryAgain]
@[simp] theorem State.unbind_outside (t : TileId) (c : Nat) (g : Prog) :
    (s.unbind t c g).outside = s.outside := by simp [State.unbind]
@[simp] theorem State.abandon_outside (t : TileId) (c : Nat) (g : Prog) :
    (s.abandon t c g).outside = s.outside := by simp [State.abandon]

@[simp] theorem State.endErase_outside (t : TileId) (c d : Nat) : (s.endErase t c d).outside = s.outside := by
  unfold State.endErase
  split <;> simp

/-! ### Dies and their records -/

@[simp] theorem State.change_outside (t : TileId) (c d : Nat) (f : DieRec → DieRec) (failed : Option Prog) :
    (s.change t c d f failed).outside = s.outside := by simp [State.change]
@[simp] theorem State.mark_outside (t : TileId) (c d : Nat) (f : DieRec → DieRec) :
    (s.mark t c d f).outside = s.outside := by simp [State.mark]
@[simp] theorem State.readOnlyTile_outside (t : TileId) (cause : BitVec 2) :
    (s.readOnlyTile t cause).outside = s.outside := by simp [State.readOnlyTile]
@[simp] theorem State.poolCheck_outside (t : TileId) (c d : Nat) :
    (s.poolCheck t c d).outside = s.outside := by simp [State.poolCheck]

@[simp] theorem State.dropDie_outside (t : TileId) (c d : Nat) : (s.dropDie t c d).outside = s.outside := by
  unfold State.dropDie
  dsimp only
  repeat' split
  all_goals simp

@[simp] theorem State.redirect_outside (t : TileId) (c d : Nat) : (s.redirect t c d).outside = s.outside := by
  unfold State.redirect
  refine State.foldl_outside (fun s a => ?_) _ _
  repeat' split
  all_goals simp

@[simp] theorem State.poisonIndex_outside (t : TileId) (d : Nat) :
    (s.poisonIndex t d).outside = s.outside := by simp [State.poisonIndex]
@[simp] theorem State.loseDie_outside (t : TileId) (c d : Nat) (cause : Nat) :
    (s.loseDie t c d cause).outside = s.outside := by simp [State.loseDie]

@[simp] theorem State.levelling_outside (t : TileId) (c d : Nat) : (s.levelling t c d).outside = s.outside := by
  unfold State.levelling
  dsimp only
  repeat' split
  all_goals simp

@[simp] theorem State.countRetired_outside (t : TileId) (c d : Nat) :
    (s.countRetired t c d).outside = s.outside := by simp [State.countRetired]
@[simp] theorem State.retireEnds_outside (t : TileId) (c d : Nat) :
    (s.retireEnds t c d).outside = s.outside := by simp [State.retireEnds]

@[simp] theorem State.retire_outside (t : TileId) (c d slab : Nat) (dest : Option Nat) (failed : Option Prog) :
    (s.retire t c d slab dest failed).outside = s.outside := by
  unfold State.retire
  split <;> simp

@[simp] theorem State.applyChange_outside (t : TileId) (c d : Nat) : (s.applyChange t c d).outside = s.outside := by
  unfold State.applyChange
  repeat' split
  all_goals simp

@[simp] theorem State.cairnProgram_outside (t : TileId) (c d : Nat) (ok : Bool) :
    (s.cairnProgram t c d ok).outside = s.outside := by simp [State.cairnProgram]

/-! ### A tile whose work ends -/

@[simp] theorem State.programmed_outside (t : TileId) (c d : Nat) : (s.programmed t c d).outside = s.outside := by
  unfold State.programmed
  dsimp only
  repeat' split
  all_goals simp

@[simp] theorem State.quiesce_outside (t : TileId) : (s.quiesce t).outside = s.outside := by
  unfold State.quiesce
  dsimp only
  rw [State.modSch_outside]
  refine (State.foldl_outside (fun s c => ?_) _ _).trans (State.foldl_outside (fun s i => ?_) _ _)
  · repeat' split
    all_goals simp
  · rw [State.modDie_outside, State.endErase_outside]
    repeat' split
    all_goals simp

@[simp] theorem State.settleTile_outside (t : TileId) : (s.settleTile t).outside = s.outside := by simp [State.settleTile]
@[simp] theorem State.gatherCounts_outside : s.gatherCounts.outside = s.outside := by simp [State.gatherCounts]
@[simp] theorem State.rollToken_outside (t : TileId) : (s.rollToken t).outside = s.outside := by
  simp [State.rollToken]

/-! ### What follows for a field -/

variable {s}

theorem State.part_eq_of_outside {t : State} (h : s.outside = t.outside) : s.part = t.part := (congrArg State.part h :)

theorem State.sf_eq_of_outside {t : State} (h : s.outside = t.outside) : s.sf = t.sf := (congrArg State.sf h :)

end Sys2Proof.Machine
end

section
/-! PROOFS. A warm reset that was asked for: `NoSessionSurvivesAReset` (R34, R76, R353, R354). -/

namespace Sys2Proof.Machine

/-! ### What a warm reset leaves -/

/-- What every warm reset with cause `c` makes of a state: the tables of sessions, credentials and regions, the mesh and the enrollment
queue empty, the cause recorded, the EVT block to be loaded again; the part and the SF stand. -/
structure WarmCleared (c : BitVec 4) (s t : State) : Prop where
  sess : t.sess = []
  creds : t.creds = []
  rgns : t.rgns = []
  mesh : t.mesh = []
  enrQ : t.enrQ = []
  scratch : t.scratch = 0
  warmCause : t.clk.warmCause = c
  lastWarm : t.clk.lastWarm = true
  warmReq : t.clk.warmReq = none
  part : t.part = s.part
  sf : t.sf = s.sf
  loaded : t.evt.loaded = false

namespace WarmCleared

variable {c : BitVec 4} {s t : State} (h : WarmCleared c s t)
include h

/-- Tiles, temperatures and the events that wait for the EVT block's load may go on. -/
theorem update {tiles : Tab Tile} {thm : Tab Thm} {evt : Evt} (he : evt.loaded = t.evt.loaded) :
    WarmCleared c s { t with tiles, thm, evt } :=
  ⟨h.sess, h.creds, h.rgns, h.mesh, h.enrQ, h.scratch, h.warmCause, h.lastWarm, h.warmReq, h.part, h.sf, he.trans h.loaded⟩

/-- An event before the EVT block is loaded only waits (R32). -/
theorem raise (n : Nat) (d : BitVec 64) (bit : Bool) (f : BitVec 64 → BitVec 64) : WarmCleared c s (t.raise n d bit f) := by
  unfold State.raise
  split
  · exact h.update rfl
  · rw [if_pos (by simp [h.loaded])]
    exact h.update rfl

theorem modXlt (u : TileId) (f : Xlt → Xlt) : WarmCleared c s (t.modXlt u f) := h.update rfl

theorem modMed (u : TileId) (f : Med → Med) : WarmCleared c s (t.modMed u f) := h.update rfl

theorem modThm (u : TileId) (f : Thm → Thm) : WarmCleared c s (t.modThm u f) := h.update rfl

theorem enterUnknown (u : TileId) : WarmCleared c s (t.enterUnknown u) := by
  unfold State.enterUnknown
  exact ((h.modXlt u _).modMed u _).raise ..

theorem ageLost (u : TileId) : WarmCleared c s (t.ageLost u) := by
  unfold State.ageLost
  split
  · exact (h.enterUnknown u).modThm u _
  · exact h

theorem foldl {f : State → TileId → State} (hf : ∀ t u, WarmCleared c s t → WarmCleared c s (f t u)) (l : List TileId) :
    WarmCleared c s (l.foldl f t) := by
  induction l generalizing t with
  | nil => exact h
  | cons u l ih => exact ih (hf t u h)

theorem ses_default (x : SessId) : t.ses x = {} := by
  rw [State.ses, h.sess]
  rfl

theorem cred_default (x : SessId) : t.cred x = {} := by
  rw [State.cred, h.creds]
  rfl

theorem rgn_default (r : RegionId) : t.rgn r = {} := by
  rw [State.rgn, h.rgns]
  rfl

end WarmCleared

/-! ### The reset -/

theorem State.warmClear_cleared (s : State) (c : BitVec 4) : WarmCleared c s (s.warmClear c) := by
  unfold State.warmClear
  extract_lets ret s1 s2 s3 s4 goesOn early sup opens ldg evt clk cfg boot made
  have work : s4.outside = s.outside := by simp [s4, s3, s2, s1]
  have part : s4.part = s.part := State.part_eq_of_outside work
  have sf : s4.sf = s.sf := State.sf_eq_of_outside work
  have cleared : WarmCleared c s made :=
    ⟨rfl, rfl, rfl, rfl, rfl, rfl, rfl, rfl, rfl, part, sf, rfl⟩
  refine cleared.foldl (fun t u h => ?_) _
  split
  · exact h
  · exact h.ageLost u

/-- DEV_WARM waits for the EVT block's load (R32, R307). -/
theorem WarmCleared.raise_devWarm {c : BitVec 4} {s t : State} (h : WarmCleared c s t) (d : BitVec 64) :
    (12, d, true) ∈ (t.raise 12 d).evt.early := by
  have early : t.raise 12 d = t.modEvt fun e => { e with early := e.early ++ [(12, d, true)] } :=
    (if_neg (by decide)).trans (if_pos (by simp [h.loaded]))
  simp [early]

/-- A request of a session that is not LIVE changes nothing. -/
theorem State.request_notLive {s : State} {op : BitVec 8} {r : Rq} (h : (s.ses r.hdr.session).st ≠ .live) : s.request op r = s :=
  if_neg h

theorem State.doIf_unchanged {s : State} {b : Bool} {f : State → State} (h : f s = s) : s.doIf b f = .next s := by
  rw [State.doIf, h, ite_self]

theorem exec_warmReset {s : State} {c : BitVec 4} (hp : s.powered = true) (hw : s.clk.warmReq = some c) (hh : s.clk.refHold = false)
    (hu : s.sup.st ≠ .poweringUp) : exec .warmReset s = .next (s.warmEffects c) := by
  refine (State.doIf_enabled hp rfl : execWarmReset s = _).trans ?_
  simp [State.warmReset, hw, hh, hu]

/-- Settles O53: what the reset clears, and that DEV_WARM finds the EVT block not loaded. -/
theorem noSessionSurvivesAReset : Obligations.NoSessionSurvivesAReset := by
  intro c s hp hw hh hu
  have cleared := s.warmClear_cleared c
  have h : WarmCleared c s (s.warmEffects c) := cleared.raise ..
  have idle (r : Rq) : ((s.warmEffects c).ses r.hdr.session).st ≠ .live := by
    rw [h.ses_default]
    decide
  refine ⟨s.warmEffects c, exec_warmReset hp hw hh hu, fun x => ?_, fun r => ?_, h.mesh, h.enrQ, h.scratch, h.warmCause, h.lastWarm,
    h.warmReq, h.part, h.sf, cleared.raise_devWarm _, fun r => ⟨?_, ?_⟩⟩
  · rw [h.ses_default, h.cred_default]
    exact ⟨rfl, rfl, rfl⟩
  · rw [h.rgn_default]
    exact ⟨rfl, rfl⟩
  · exact (State.doIf_unchanged (State.request_notLive (idle r)) : execRead r _ = _)
  · exact (State.doIf_unchanged (State.request_notLive (idle r)) : execWrite r _ = _)

end Sys2Proof.Machine
end

section
/-! PROOFS. Frames of a LIVE session: `AcceptanceTakesOneSequenceNumber`, `InOrderRequestsAreAccepted`, `RequestsOutOfOrderAreClassed`,
`PrecedesIsModular`, `UnsequencedHostFrames` (R46, R54 to R58, R61, R66). -/

namespace Sys2Proof

/-- A request with the opcode of its command. -/
abbrev Rq.withOp (r : Rq) (op : BitVec 8) : Rq := { r with hdr := { r.hdr with opcode := op } }

namespace Machine

variable {s : State} {x : SessId} {r : Rq}

/-! ### Sequence numbers (R55) -/

/-- Settles O14: the difference of two numbers is the one of their values, modulo 2^32. -/
theorem precedesIsModular : Obligations.PrecedesIsModular := by
  intro a b
  have diff : (b - a).toNat = (b.toNat + (2 ^ 32 - a.toNat)) % 2 ^ 32 := by rw [BitVec.toNat_sub, Nat.add_comm]
  rw [precedes, decide_eq_true_eq, diff]
  omega

/-! ### Acceptance (R54, R58) -/

/-- The request as it joins its session: unresolved, with the outcome of its checks, and parts where it passes them. -/
def State.newReq (s : State) (x : SessId) (r : Rq) : Req :=
  { rq := r, fail := s.screen x r, parts := if isMemory r.hdr.opcode && (s.screen x r).isNone then r.parts s.part else [] }

theorem State.accept_ses (y : SessId) : (s.accept x r).ses y = if y = x then
    { (s.ses x).seen r.hdr.seq with e := (s.ses x).e + 1, gap := none, reqs := (s.ses x).reqs ++ [s.newReq x r] } else s.ses y :=
  State.ses_modSes ..

/-- Settles O11, field by field of the session; an update of a session is all that acceptance does. -/
theorem acceptanceTakesOneSequenceNumber : Obligations.AcceptanceTakesOneSequenceNumber := by
  intro s x r
  have own := (State.accept_ses x).trans (if_pos rfl : _ = { (s.ses x).seen r.hdr.seq with
    e := (s.ses x).e + 1, gap := none, reqs := (s.ses x).reqs ++ [s.newReq x r] })
  rw [own]
  exact ⟨rfl, rfl, ⟨s.newReq x r, rfl, rfl, rfl, rfl⟩, rfl, rfl, fun y hy => (State.accept_ses y).trans (if_neg hy), rfl⟩

/-! ### A sequenced request by the distance of its number (R58, R66) -/

/-- A number that no request of the session has is not being performed again. -/
theorem Sess.not_rerun {S : Sess} {n : Word} (h : S.reqs.any (fun q => decide (q.rq.hdr.seq = n)) = false) :
    S.reqs.any (fun q => decide (q.rq.hdr.seq = n) && q.replay) = false := by
  rw [List.any_eq_false] at h ⊢
  exact fun q hq hn => h q hq (Bool.and_eq_true_iff.1 hn).1

section
variable {s1 : State} (hs : s.readAck x r.hdr.ack = s1)
include hs

theorem State.arrive_next (he : (s1.ses x).e = r.hdr.seq) : s.arrive x r = (s1.accept x r).settle x := by
  subst hs
  rw [State.arrive, if_pos (by simp [he])]

theorem State.arrive_ahead (h1 : 1 ≤ (r.hdr.seq - (s1.ses x).e).toNat) (h2 : (r.hdr.seq - (s1.ses x).e).toNat < 4096) :
    s.arrive x r =
      (((s1.lcnt (s1.ses x).port (s1.ses x).link 6).modSes x fun S => S.seen r.hdr.seq).ahead x r.hdr.seq).settle x := by
  subst hs
  rw [State.arrive, if_neg (by omega), if_pos h2]

theorem State.arrive_outOfWindow (h1 : 4096 ≤ (r.hdr.seq - (s1.ses x).e).toNat)
    (h2 : (r.hdr.seq - (s1.ses x).e).toNat < 2 ^ 32 - 4096) :
    s.arrive x r = (s1.lcnt (s1.ses x).port (s1.ses x).link 6).settle x := by
  subst hs
  rw [State.arrive, if_neg (by omega), if_neg (by omega), if_neg (by omega)]

section
variable (hd : 2 ^ 32 - 4096 ≤ (r.hdr.seq - (s1.ses x).e).toNat)
include hd

/-- A repeat of a number that is being performed again waits. -/
theorem State.arrive_rerun (h : (s1.ses x).reqs.any (fun q => decide (q.rq.hdr.seq = r.hdr.seq) && q.replay) = true) :
    s.arrive x r = (s1.modSes x fun S => { S with repeats := S.repeats ++ [r] }).settle x := by
  subst hs
  rw [State.arrive, if_neg (by omega), if_neg (by omega), if_pos hd, if_pos h]

theorem State.arrive_inProgress (h : (s1.ses x).reqs.any (fun q => decide (q.rq.hdr.seq = r.hdr.seq) && q.replay) = false)
    (h' : (s1.ses x).reqs.any (fun q => decide (q.rq.hdr.seq = r.hdr.seq)) = true) :
    s.arrive x r = (s1.lcnt (s1.ses x).port (s1.ses x).link 6).settle x := by
  subst hs
  rw [State.arrive, if_neg (by omega), if_neg (by omega), if_pos hd, if_neg (Bool.eq_false_iff.1 h), if_pos h']

/-- A repeat of a number that no request of the session has goes by the completion cache. -/
theorem State.arrive_uncached (h : (s1.ses x).reqs.any (fun q => decide (q.rq.hdr.seq = r.hdr.seq)) = false)
    (hc : Tab.find (s1.ses x).cache r.hdr.seq.toNat = none) :
    s.arrive x r = (s1.lcnt (s1.ses x).port (s1.ses x).link 6).settle x := by
  subst hs
  rw [State.arrive, if_neg (by omega), if_neg (by omega), if_pos hd, if_neg (Bool.eq_false_iff.1 (Sess.not_rerun h)),
    if_neg (Bool.eq_false_iff.1 h), hc]

theorem State.arrive_cached {c : Cached} (h : (s1.ses x).reqs.any (fun q => decide (q.rq.hdr.seq = r.hdr.seq)) = false)
    (hc : Tab.find (s1.ses x).cache r.hdr.seq.toNat = some c) : s.arrive x r = (s1.again x r c).settle x := by
  subst hs
  rw [State.arrive, if_neg (by omega), if_neg (by omega), if_pos hd, if_neg (Bool.eq_false_iff.1 (Sess.not_rerun h)),
    if_neg (Bool.eq_false_iff.1 h), hc]

end
end

/-! ### The frame of a command (R46, R90) -/

/-- The state in which a frame of the session has been noted as received now (R90). -/
def State.heardNow (s : State) (x : SessId) : State := s.modSes x fun S => { S with rxAt := s.now }

/-- The opcodes of frames that take no number (R54). -/
abbrev Unsequenced (op : BitVec 8) : Prop := op = opNak ∨ op = opKeepalive

theorem State.r46_heardNow (op : BitVec 8) : (s.heardNow x).r46 x (r.withOp op) = s.r46 x r := by
  simp [State.r46, State.heardNow, Sess.version]

section
variable {op : BitVec 8} (hx : (s.ses r.hdr.session).st = .live)
include hx

/-- A frame of another version, epoch or session number is counted (R46). -/
theorem State.request_dropped (h : s.r46 r.hdr.session r = false) : s.request op r =
    (s.heardNow r.hdr.session).lcnt (s.ses r.hdr.session).port (s.ses r.hdr.session).link 6 := by
  have h' := (State.r46_heardNow op).trans h
  have place : ((s.heardNow r.hdr.session).ses r.hdr.session).port = (s.ses r.hdr.session).port ∧
      ((s.heardNow r.hdr.session).ses r.hdr.session).link = (s.ses r.hdr.session).link := by simp [State.heardNow]
  rw [State.request, if_pos hx]
  refine (if_pos h' : State.protectedFrame (s.heardNow _) _ _ = _).trans ?_
  rw [place.1, place.2]

theorem State.request_sequenced (h : s.r46 r.hdr.session r = true) (ho : ¬Unsequenced op) :
    s.request op r = (s.heardNow r.hdr.session).arrive r.hdr.session (r.withOp op) := by
  have h' := (State.r46_heardNow op).trans h
  rw [State.request, if_pos hx]
  exact (if_neg (by simpa using h') : State.protectedFrame (s.heardNow _) _ _ = _).trans (if_neg ho)

theorem State.request_unsequenced (h : s.r46 r.hdr.session r = true) (ho : Unsequenced op) : s.request op r =
    ((s.heardNow r.hdr.session).unseq r.hdr.session (r.withOp op)).settle r.hdr.session := by
  have h' := (State.r46_heardNow op).trans h
  rw [State.request, if_pos hx]
  exact (if_neg (by simpa using h') : State.protectedFrame (s.heardNow _) _ _ = _).trans (if_pos ho)

end

/-- Each of the twelve request commands answers what `f` makes of its opcode; MGMT_WRITE may take tiles out of service besides. -/
def State.RequestsAnswer (s : State) (r : Rq) (f : BitVec 8 → State) : Prop :=
  exec (.read r) s = .next (f opRead) ∧
    exec (.write r) s = .next (f opWrite) ∧
    exec (.writePartial r) s = .next (f opPartial) ∧
    exec (.cas64 r) s = .next (f opCas) ∧
    exec (.fadd64 r) s = .next (f opFadd) ∧
    exec (.barrier r) s = .next (f opBarrier) ∧
    exec (.lock r) s = .next (f opLock) ∧
    exec (.unlock r) s = .next (f opUnlock) ∧
    exec (.mgmtRead r) s = .next (f opMgmtRead) ∧
    exec (.rolloverEnroll r) s = .next (f opEnroll) ∧
    exec (.rolloverEnrollFinish r) s = .next (f opFinish) ∧
    exec (.mgmtWrite r) s = .next (s.after (f opMgmtWrite))

section
variable (hp : s.powered = true)
include hp

/-- The twelve commands are one request under their twelve opcodes, each of them sequenced. -/
theorem State.requestsAnswer {f : BitVec 8 → State} (h : ∀ op, ¬Unsequenced op → s.request op r = f op) : s.RequestsAnswer r f := by
  have plain (op : BitVec 8) (ho : ¬Unsequenced op) : s.doIf true (fun s => s.request op r) = .next (f op) :=
    (State.doIf_enabled hp rfl).trans (congrArg _ (h op ho))
  have write : s.doAll true (fun s => s.request opMgmtWrite r) = .next (s.after (f opMgmtWrite)) :=
    (State.doAll_enabled hp rfl).trans (by rw [h opMgmtWrite (by decide)])
  exact ⟨plain opRead (by decide), plain opWrite (by decide), plain opPartial (by decide), plain opCas (by decide),
    plain opFadd (by decide), plain opBarrier (by decide), plain opLock (by decide), plain opUnlock (by decide),
    plain opMgmtRead (by decide), plain opEnroll (by decide), plain opFinish (by decide), write⟩

theorem exec_keepalive : exec (.keepalive r) s = .next (s.request opKeepalive r) :=
  (State.doIf_enabled hp rfl : execKeepalive r s = _)

theorem exec_hostGapNak : exec (.hostGapNak r) s = .next (s.request opNak { r with hdr := { r.hdr with status := stGap } }) :=
  (State.doIf_enabled hp rfl : execHostGapNak r s = _)

end

/-- Settles O10: a request whose number is the next one expected is accepted. -/
theorem inOrderRequestsAreAccepted : Obligations.InOrderRequestsAreAccepted := by
  intro r s hp hx h46 x s1 he done
  refine State.requestsAnswer (f := done) hp fun op ho => ?_
  exact (State.request_sequenced hx h46 ho).trans (State.arrive_next rfl he)

/-- Settles O13, by the distance of the request's number and, behind the next one expected, by what the session has of that number. -/
theorem requestsOutOfOrderAreClassed : Obligations.RequestsOutOfOrderAreClassed := by
  intro r s hp hx x s1 d rq counted all
  have answer {f : BitVec 8 → State} (h : ∀ op, ¬Unsequenced op → s.request op r = f op) : all f := State.requestsAnswer hp h
  clear_value all
  refine ⟨fun h46 => answer fun _ _ => State.request_dropped hx h46, fun h46 => ?_⟩
  have arrives {f : BitVec 8 → State} (h : ∀ op, (s.heardNow x).arrive x (rq op) = f op) : all f :=
    answer fun op ho => (State.request_sequenced hx h46 ho).trans (h op)
  refine ⟨fun h => arrives ?_, fun h => arrives ?_, fun hd => ⟨fun h => arrives ?_, fun h h' => arrives ?_,
    fun h => ⟨fun hc => arrives ?_, fun c hc => arrives ?_⟩⟩⟩ <;> intro op
  · exact State.arrive_ahead rfl h.1 h.2
  · exact State.arrive_outOfWindow rfl h.1 h.2
  · exact State.arrive_rerun rfl hd h
  · exact State.arrive_inProgress rfl hd h h'
  · exact State.arrive_uncached rfl hd h hc
  · exact State.arrive_cached (r := rq op) rfl hd h hc

/-! ### Unsequenced frames (R54, R61) -/

section
variable {s1 : State} (hs : s.readAck x r.hdr.ack = s1) (he : (s1.ses x).e = r.hdr.seq)
include hs he

/-- A frame that shows the next expected number opens no gap; a GAP NAK has the frames of its range that are held sent again. -/
theorem State.unseq_next : s.unseq x r = if r.hdr.opcode = opNak ∧ r.hdr.status = stGap then
    ((s1.ses x).retain.filter fun f =>
      decide ((f.hdr.seq - r.hdr.ref).toNat ≤ (r.hdr.aux - r.hdr.ref).toNat)).foldl (fun s f => s.resend x f) s1 else s1 := by
  have noGap : ¬(1 ≤ (r.hdr.seq - (s1.ses x).e).toNat ∧ (r.hdr.seq - (s1.ses x).e).toNat < 4096) := by simp [he]
  subst hs
  simp only [State.unseq, if_neg noGap]

end

/-- Settles O15: either frame is unsequenced, and only the GAP NAK names frames to be sent again. -/
theorem unsequencedHostFrames : Obligations.UnsequencedHostFrames := by
  intro r s hp hx h46 x s1 he
  let nak : Rq := { r with hdr := { r.hdr with status := stGap } }
  refine ⟨(exec_keepalive hp).trans (congrArg _ ?_), (exec_hostGapNak hp).trans (congrArg _ ?_)⟩
  · refine (State.request_unsequenced hx h46 (.inr rfl)).trans (congrArg (State.settle · x) ?_)
    exact (State.unseq_next (r := r.withOp opKeepalive) rfl he).trans (if_neg fun h => absurd h.1 (by decide : opKeepalive ≠ opNak))
  · refine (State.request_unsequenced (r := nak) hx h46 (.inl rfl)).trans (congrArg (State.settle · x) ?_)
    exact (State.unseq_next (r := nak.withOp opNak) rfl he).trans (if_pos ⟨rfl, rfl⟩)

end Machine
end Sys2Proof
end

section
/-! PROOFS. The timers of a LIVE session: `TimersOfASession`, `TailKeepaliveShowsTheNextNumber` (R59, R63 to R65, R90; log 12). -/

namespace Sys2Proof.Machine

variable {s : State} {x : SessId}

@[simp] theorem State.till_ses (n : Nat) (y : SessId) : (s.till n).ses y = s.ses y := rfl

/-! ### The commands -/

section
variable (hp : s.powered = true)
include hp

theorem exec_retransmissionTimeout : exec (.retransmissionTimeout x) s = .next (s.rtoExpires x) :=
  (State.doIf_enabled hp rfl : execRetransmissionTimeout x s = _)

theorem exec_retentionRoomSend : exec (.retentionRoomSend x) s = .next (s.settle x) :=
  (State.doIf_enabled hp rfl : execRetentionRoomSend x s = _)

section
variable (hx : (s.ses x).st = .live)
include hx

theorem exec_gapNakResend {n : Nat} {aux : Word} (hg : (s.ses x).gap = some (n, aux)) :
    exec (.gapNakResend x) s = .next ((s.till (n + us 20)).gapNak x (s.ses x).e aux) := by
  refine (State.doIf_enabled hp (decide_eq_true hx) : execGapNakResend x s = _).trans ?_
  rw [hg]

theorem exec_tailKeepaliveSend (hr : (s.ses x).retain ≠ []) :
    exec (.tailKeepaliveSend x) s = .next ((s.till ((s.ses x).txAt + us 10)).keepAlive x) :=
  (State.doIf_enabled hp (decide_eq_true ⟨hx, hr⟩) : execTailKeepaliveSend x s = _)

theorem exec_kaLimitKeepaliveSend :
    exec (.kaLimitKeepaliveSend x) s = .next ((s.till ((s.ses x).txAt + 500000 * (s.ses x).ka)).keepAlive x) :=
  (State.doIf_enabled hp (decide_eq_true hx) : execKaLimitKeepaliveSend x s = _)

theorem exec_keepAliveLost :
    exec (.keepAliveLost x) s = .next ((s.till ((s.ses x).rxAt + ms (s.ses x).ka)).endSession x 1) :=
  (State.doIf_enabled hp (decide_eq_true hx) : execKeepAliveLost x s = _)

end
end

/-! ### The retransmission timeout (R64) -/

section
variable {f : Frame} {l : List Frame} (hx : (s.ses x).st = .live) (hr : (s.ses x).retain = f :: l)
include hx hr

theorem State.rtoExpires_again (h : (s.ses x).tries < 16) : s.rtoExpires x =
    ((s.till ((s.ses x).rtoAt + s.rtoOf x)).modSes x fun S =>
      { S with tries := S.tries + 1, rtoAt := (s.till ((s.ses x).rtoAt + s.rtoOf x)).now }).resend x f := by
  rw [State.rtoExpires, if_pos hx, hr]
  exact if_neg (by omega)

theorem State.rtoExpires_over (h : 16 ≤ (s.ses x).tries) :
    s.rtoExpires x = (s.till ((s.ses x).rtoAt + s.rtoOf x)).endSession x 2 := by
  rw [State.rtoExpires, if_pos hx, hr]
  exact if_pos h

end

/-- Settles O16, timer by timer. -/
theorem timersOfASession : Obligations.TimersOfASession := by
  intro x s hp hx
  refine ⟨fun n aux hg => exec_gapNakResend hp hx hg, fun f l hr => ⟨fun h => ?_, fun h => ?_, ?_⟩,
    exec_kaLimitKeepaliveSend hp hx, exec_keepAliveLost hp hx, exec_retentionRoomSend hp⟩
  · exact (exec_retransmissionTimeout hp).trans (congrArg _ (State.rtoExpires_again hx hr h))
  · exact (exec_retransmissionTimeout hp).trans (congrArg _ (State.rtoExpires_over hx hr h))
  · exact exec_tailKeepaliveSend hp hx (by simp [hr])

/-! ### A KEEPALIVE of the device (R54, R65) -/

/-- The state with a packet number of association `a` used up now (R86). -/
def State.spend (s : State) (x : SessId) (a : Sa) : State :=
  s.modSes x fun S => { S with tx := some { a with pn := a.pn + 1 }, txAt := s.now }

theorem State.spend_ses (a : Sa) :
    (s.spend x a).ses x = { s.ses x with tx := some { a with pn := a.pn + 1 }, txAt := s.now } :=
  (State.ses_modSes ..).trans (if_pos rfl)

/-- What leaves with frame `f` of session `x` under association `a`. -/
def State.sent (s : State) (x : SessId) (a : Sa) (f : Frame) : Sent :=
  { port := (s.ses x).port, link := (s.ses x).link, mac := (s.ses x).mac, sec := some (a.an, a.pn), pcp := (s.ses x).pcp, frame := f
    wire := (s.spend x a).protect x a f }

/-- The KEEPALIVE of a session shows the number that it takes next. -/
def State.keepAliveFrame (s : State) (x : SessId) : Frame := { hdr := (s.ses x).stamp x { opcode := opKeepalive } (s.ses x).dseq }

section
variable {a : Sa} (ht : (s.ses x).tx = some a) (hn : a.pn ≠ 0)
include ht hn

theorem State.emit_numbered (f : Frame) : s.emit x f = { s.spend x a with out := s.sent x a f :: s.out } := by
  rw [State.emit, ht]
  exact if_neg hn

theorem State.keepAlive_numbered (hx : (s.ses x).st = .live) :
    s.keepAlive x = { s.spend x a with out := s.sent x a (s.keepAliveFrame x) :: s.out } :=
  (if_pos hx).trans (State.emit_numbered ht hn _)

end

/-- Settles O17: the KEEPALIVE leaves once the time has passed, and of its session only the association and the time sent change. -/
theorem tailKeepaliveShowsTheNextNumber : Obligations.TailKeepaliveShowsTheNextNumber := by
  intro x s a hp hx hr ht hn
  let u := s.till ((s.ses x).txAt + us 10)
  let t : State := { u.spend x a with out := u.sent x a (u.keepAliveFrame x) :: u.out }
  have leaves : u.keepAlive x = t := State.keepAlive_numbered (s := u) ht hn hx
  have own : t.ses x = _ := u.spend_ses a
  refine ⟨t, _, (exec_tailKeepaliveSend hp hx hr).trans (congrArg _ leaves), rfl, rfl, rfl, rfl, rfl, rfl, rfl, ?_⟩
  rw [own]
  exact ⟨rfl, rfl, rfl, le_max_right ..⟩

end Sys2Proof.Machine
end

section
/-! PROOFS. Frames at a link: `FramesAtALink`, `EnrollmentFramesAreQueued` (R39 to R44, R82, R85, R93, R94, R428). -/

namespace Sys2Proof.Machine

variable {s : State} {p : PortId} {l : LinkId}

/-! ### The checks of the MAC (R39, R40) -/

/-- What becomes of a frame for the link that the MAC has taken (R42, R43). -/
def State.addressed (s : State) (p : PortId) (l : LinkId) (b : List Byte) : State :=
  if (s.port p).tagOk (frameTag b) = false then s.lcnt p l 5
  else if s.meshOn = false then s
  else match frameSec b with
    | some c => s.macsec p l b c
    | none => s.clear p l b

theorem State.receive_linkNotUp {f : RxFrame} (h : s.link p l ≠ .up) : s.receive p l f = s := if_pos h

section
variable {f : RxFrame} {s1 : State} (hu : s.link p l = .up) (hs : s.macCounts p l f = s1)
include hu hs

theorem State.receive_badMac (hm : macOk f = false) : s.receive p l f = s1 := by
  rw [State.receive, if_neg (not_not_intro hu), hs]
  exact if_pos hm

variable (hm : macOk f = true)
include hm

theorem State.receive_pause (h : frameDa f.bytes = pauseMac ∧ beAt f.bytes 12 2 = pauseType) : s.receive p l f = s1.lcnt p l 4 := by
  rw [State.receive, if_neg (not_not_intro hu), hs]
  exact (if_neg (by simp [hm])).trans (if_pos h)

variable (hn : ¬(frameDa f.bytes = pauseMac ∧ beAt f.bytes 12 2 = pauseType))
include hn

theorem State.receive_otherAddress (h : frameDa f.bytes ≠ s1.linkMac p l) : s.receive p l f = s1 := by
  rw [State.receive, if_neg (not_not_intro hu), hs]
  exact (if_neg (by simp [hm])).trans ((if_neg hn).trans (if_pos h))

theorem State.receive_addressed (h : frameDa f.bytes = s1.linkMac p l) : s.receive p l f = s1.addressed p l f.bytes := by
  rw [State.receive, if_neg (not_not_intro hu), hs]
  exact (if_neg (by simp [hm])).trans ((if_neg hn).trans (if_neg (not_not_intro h)))

end

/-! ### The C-tag, and the mesh (R42) -/

section
variable {b : List Byte}

theorem State.addressed_badTag (h : (s.port p).tagOk (frameTag b) = false) : s.addressed p l b = s.lcnt p l 5 := if_pos h

variable (ht : (s.port p).tagOk (frameTag b) = true)
include ht

theorem State.addressed_meshOff (h : s.meshOn = false) : s.addressed p l b = s :=
  (if_neg (by simp [ht])).trans (if_pos h)

variable (hm : s.meshOn = true)
include hm

theorem State.addressed_secTag {c : SecTag} (h : frameSec b = some c) : s.addressed p l b = s.macsec p l b c := by
  rw [State.addressed, if_neg (by simp [ht]), if_neg (by simp [hm]), h]

theorem State.addressed_clear (h : frameSec b = none) : s.addressed p l b = s.clear p l b := by
  rw [State.addressed, if_neg (by simp [ht]), if_neg (by simp [hm]), h]

end

/-! ### Protected frames (R43, R85, R93, R94) -/

section
variable {b : List Byte} {c : SecTag}

theorem State.macsec_unbound (h : c.tci ≠ tciGood ∨ slGood b c = false ∨ s.bound p l c = none) :
    s.macsec p l b c = s.stranger p l 1 (frameSa b) := by
  rw [State.macsec]
  split
  · rfl
  · next hg =>
    obtain h | h | h := h
    · exact absurd (.inl h) hg
    · exact absurd (.inr h) hg
    · rw [h]

section
variable {x : SessId} {a : Sa} (hc : c.tci = tciGood) (hl : slGood b c = true) (hb : s.bound p l c = some x)
  (ha : (s.ses x).rx.find? (fun a => decide (a.an = c.an)) = some a)
include hc hl hb ha

/-- A frame of an association goes by its ICV, then by the replay check. -/
theorem State.macsec_bound {o : Option (List Byte)} (hi : unprotect a (BitVec.ofNat 64 (a.recover s.replayWin c.pn)) b = o) :
    s.macsec p l b c = o.elim (s.stranger p l 2 (frameSa b)) fun plain =>
      if a.recover s.replayWin c.pn < a.lowest s.replayWin then s.modStrg p l fun g => { g with cnt := Tab.bump g.cnt 4 }
      else (s.heard x c.an (a.recover s.replayWin c.pn) (frameTag b)).inner x plain := by
  rw [State.macsec, if_neg (by simp [hc, hl]), hb]
  dsimp only
  rw [ha]
  dsimp only
  rw [hi]
  cases o with
  | none => rw [Option.elim_none]
  | some plain => rw [Option.elim_some]

theorem State.macsec_badIcv (h : unprotect a (BitVec.ofNat 64 (a.recover s.replayWin c.pn)) b = none) :
    s.macsec p l b c = s.stranger p l 2 (frameSa b) := by
  rw [State.macsec_bound hc hl hb ha h, Option.elim_none]

variable {plain : List Byte} (hi : unprotect a (BitVec.ofNat 64 (a.recover s.replayWin c.pn)) b = some plain)
include hi

theorem State.macsec_replayed (h : a.recover s.replayWin c.pn < a.lowest s.replayWin) :
    s.macsec p l b c = s.modStrg p l fun g => { g with cnt := Tab.bump g.cnt 4 } := by
  rw [State.macsec_bound hc hl hb ha hi, Option.elim_some, if_pos h]

theorem State.macsec_heard (h : a.lowest s.replayWin ≤ a.recover s.replayWin c.pn) :
    s.macsec p l b c = (s.heard x c.an (a.recover s.replayWin c.pn) (frameTag b)).inner x plain := by
  rw [State.macsec_bound hc hl hb ha hi, Option.elim_some, if_neg (Nat.not_lt.2 h)]

end

section
variable {x : SessId} {plain : List Byte}

theorem State.inner_jilum {r : Rq} (h : beAt plain 0 2 = s.cfg.etherType.toNat) (hr : Rq.ofBytes (plain.drop 2) = some r) :
    s.inner x plain = s.protectedFrame x r := by
  rw [State.inner, if_pos h, hr]

theorem State.inner_otherType (h : beAt plain 0 2 ≠ s.cfg.etherType.toNat) : s.inner x plain = s := if_neg h

end

/-! ### Unprotected frames (R44) -/

theorem State.clear_otherType (h : frameType b ≠ s.cfg.etherType.toNat) : s.clear p l b = s.stranger p l 0 (frameSa b) := by
  rw [State.clear]
  split
  · exact if_neg h
  · rfl

theorem State.clear_jilum {r : Rq} (h : frameType b = s.cfg.etherType.toNat) (hr : frameClear b = some r) :
    s.clear p l b = s.clearFrame p l { sa := frameSa b, ctag := frameTag b, rq := r } := by
  rw [State.clear, hr]
  exact if_pos h

end

section
variable {e : EnrFrame}

theorem State.clearFrame_enroll (h : e.rq.hdr.opcode = opEnroll) : s.clearFrame p l e = s.enrollArrives p l e := if_pos h

theorem State.clearFrame_finish (h : e.rq.hdr.opcode = opFinish) : s.clearFrame p l e = s.finishArrives p l e :=
  (if_neg (by rw [h]; decide)).trans (if_pos h)

theorem State.clearFrame_other (h : e.rq.hdr.opcode ≠ opEnroll) (h' : e.rq.hdr.opcode ≠ opFinish) :
    s.clearFrame p l e = s.stranger p l 0 e.sa :=
  (if_neg h).trans (if_neg h')

end

theorem exec_receiveFrame (hp : s.powered = true) (f : RxFrame) : exec (.receiveFrame p l f) s = .next (s.receive p l f) :=
  (State.doIf_enabled hp rfl : execReceiveFrame p l f s = _)

/-- Settles O18, check by check in the order in which a frame meets them. -/
theorem framesAtALink : Obligations.FramesAtALink := by
  intro p l f s hp b s1 ans
  have answer {t : State} (h : s.receive p l f = t) : ans t := (exec_receiveFrame hp f).trans (congrArg _ h)
  refine ⟨fun h => answer (State.receive_linkNotUp h), fun hu => ⟨fun hm => answer (State.receive_badMac hu rfl hm),
    fun hm hd ht => answer (State.receive_pause hu rfl hm ⟨hd, ht⟩), fun hm hn =>
    ⟨fun h => answer (State.receive_otherAddress hu rfl hm hn h), fun hd h => ?_, fun hd ht h => ?_, fun hd ht ho => ?_⟩⟩⟩
  · exact answer ((State.receive_addressed hu rfl hm hn hd).trans (State.addressed_badTag h))
  · exact answer ((State.receive_addressed hu rfl hm hn hd).trans (State.addressed_meshOff ht h))
  have addressed : s.receive p l f = s1.addressed p l b := State.receive_addressed hu rfl hm hn hd
  refine ⟨fun c h => ?_, fun h => ?_⟩
  · have secured {t : State} (e : s1.macsec p l b c = t) : ans t := answer (addressed.trans ((State.addressed_secTag ht ho h).trans e))
    refine ⟨fun hb => secured (State.macsec_unbound hb), fun x a hc hl hb ha =>
      ⟨fun hi => secured (State.macsec_badIcv hc hl hb ha hi), fun plain hi =>
        ⟨fun hr => secured (State.macsec_replayed hc hl hb ha hi hr), fun hw => ?_⟩⟩⟩
    have heard := State.macsec_heard hc hl hb ha hi hw
    exact ⟨fun r ht hr => secured (heard.trans (State.inner_jilum ht hr)), fun ht => secured (heard.trans (State.inner_otherType ht))⟩
  · have cleared {t : State} (e : s1.clear p l b = t) : ans t := answer (addressed.trans ((State.addressed_clear ht ho h).trans e))
    refine ⟨fun ht => cleared (State.clear_otherType ht), fun r ht hr => ?_⟩
    have jilum := State.clear_jilum (s := s1) (p := p) (l := l) ht hr
    exact ⟨fun h => cleared (jilum.trans (State.clearFrame_enroll h)), fun h => cleared (jilum.trans (State.clearFrame_finish h)),
      fun h h' => cleared (jilum.trans (State.clearFrame_other h h'))⟩

/-! ### Enrollment frames join the queue (R82, R428) -/

/-- An ENROLL that waits for the session of an enrollment frame. -/
def Queued.olderOf (q o : Queued) : Bool :=
  decide (o.frame.rq.hdr.opcode = opEnroll ∧ o.frame.rq.hdr.session = q.frame.rq.hdr.session)

theorem State.enqueueEnr_enroll {q : Queued} (h : q.frame.rq.hdr.opcode = opEnroll) : s.enqueueEnr q =
    if s.enrQ.any q.olderOf then { s with enrQ := s.enrQ.map fun o => if q.olderOf o then q else o }
    else if s.enrQ.length < 256 then { s with enrQ := s.enrQ ++ [q] }
    else s.stranger q.port q.link 3 q.frame.sa := by
  simp only [State.enqueueEnr, h, true_and]
  rfl

/-- An ENROLL_FINISH takes no frame's place. -/
theorem State.enqueueEnr_finish {q : Queued} (h : q.frame.rq.hdr.opcode = opFinish) : s.enqueueEnr q =
    if s.enrQ.length < 256 then { s with enrQ := s.enrQ ++ [q] } else s.stranger q.port q.link 3 q.frame.sa := by
  have other : opFinish ≠ opEnroll := by decide
  simp [State.enqueueEnr, h, other]

section
variable {f : EnrFrame}

theorem State.enrollArrives_taken (hl : f.rq.payload.length = 56) (ho : s.enrollOk p l f.rq = true) :
    s.enrollArrives p l f = s.enqueueEnr { port := p, link := l, frame := f } :=
  if_neg (by simp [hl, ho])

theorem State.enrollArrives_dropped (h : f.rq.payload.length ≠ 56 ∨ s.enrollOk p l f.rq = false) :
    s.enrollArrives p l f = s.stranger p l 3 f.sa :=
  if_pos h

theorem State.finishArrives_taken (hl : f.rq.payload.length = 64) (h : (s.ses f.rq.hdr.session).finishMatches p l f.rq = true ∨
    (s.ses f.rq.hdr.session).finishRepeats f.rq = true) :
    s.finishArrives p l f = s.enqueueEnr { port := p, link := l, frame := f } :=
  if_neg (by obtain h | h := h <;> simp [hl, h])

theorem State.finishArrives_dropped (h : f.rq.payload.length ≠ 64 ∨ ((s.ses f.rq.hdr.session).finishMatches p l f.rq = false ∧
    (s.ses f.rq.hdr.session).finishRepeats f.rq = false)) :
    s.finishArrives p l f = s.stranger p l 3 f.sa :=
  if_pos h

theorem State.enrFrame_badTag (h : (s.port p).tagOk f.ctag = false) : s.enrFrame p l f = s.lcnt p l 5 := if_pos h

variable (ht : (s.port p).tagOk f.ctag = true)
include ht

theorem State.enrFrame_meshOff (h : s.meshOn = false) : s.enrFrame p l f = s :=
  (if_neg (by simp [ht])).trans (if_neg (by simp [h]))

theorem State.enrFrame_meshOn (h : s.meshOn = true) : s.enrFrame p l f = s.clearFrame p l f :=
  (if_neg (by simp [ht])).trans (if_pos h)

end

section
variable (hp : s.powered = true) (hu : s.link p l = .up) (f : EnrFrame)
include hp hu

theorem exec_enroll : exec (.enroll p l f) s = .next (s.enrFrame p l (EnrFrameOf f opEnroll)) :=
  (State.doIf_enabled hp (decide_eq_true hu) : execEnroll p l f s = _)

theorem exec_enrollFinish : exec (.enrollFinish p l f) s = .next (s.enrFrame p l (EnrFrameOf f opFinish)) :=
  (State.doIf_enabled hp (decide_eq_true hu) : execEnrollFinish p l f s = _)

end

/-- Settles O19: the C-tag and the mesh first, then each of the two frames by its form and by the queue. -/
theorem enrollmentFramesAreQueued : Obligations.EnrollmentFramesAreQueued := by
  intro p l f s hp hu a b x older drop
  rw [exec_enroll hp hu, exec_enrollFinish hp hu]
  refine ⟨fun ht => ⟨?_, ?_⟩, fun ht hm => ⟨?_, ?_⟩, fun ht hm => ?_⟩
  · exact congrArg _ (State.enrFrame_badTag ht)
  · exact congrArg _ (State.enrFrame_badTag ht)
  · exact congrArg _ (State.enrFrame_meshOff ht hm)
  · exact congrArg _ (State.enrFrame_meshOff ht hm)
  have enroll : s.enrFrame p l a = s.enrollArrives p l a := (State.enrFrame_meshOn (f := a) ht hm).trans (State.clearFrame_enroll rfl)
  have finish : s.enrFrame p l b = s.finishArrives p l b := (State.enrFrame_meshOn (f := b) ht hm).trans (State.clearFrame_finish rfl)
  rw [enroll, finish]
  refine ⟨fun hl ho => ?_, fun h => congrArg _ (State.enrollArrives_dropped h), fun hl h => ?_,
    fun h => congrArg _ (State.finishArrives_dropped h)⟩
  · rw [State.enrollArrives_taken (f := a) hl ho, State.enqueueEnr_enroll rfl]
    exact ⟨fun h => congrArg _ (if_pos h), fun h hn => congrArg _ ((if_neg (Bool.eq_false_iff.1 h)).trans (if_pos hn)),
      fun h hn => congrArg _ ((if_neg (Bool.eq_false_iff.1 h)).trans (if_neg (Nat.not_lt.2 hn)))⟩
  · rw [State.finishArrives_taken (f := b) hl h, State.enqueueEnr_finish rfl]
    exact ⟨fun hn => congrArg _ (if_pos hn), fun hn => congrArg _ (if_neg (Nat.not_lt.2 hn))⟩

end Sys2Proof.Machine
end

section
/-! PROOFS. Ports and their links: `PortsAndLinks` (R36, R74, R356, R427). -/

namespace Sys2Proof.Machine

/-! ### The end of a session leaves the ports alone -/

section
variable (s : State)

@[simp] theorem State.unclaim_outside (t : TileId) (id : Nat) : (s.unclaim t id).outside = s.outside := by
  unfold State.unclaim
  repeat' split
  all_goals simp

@[simp] theorem State.rechain_outside (t : TileId) (m : Nat × Nat) : (s.rechain t m).outside = s.outside := by
  unfold State.rechain
  refine State.foldl_fst_outside (fun e q => ?_) _ _
  repeat' split
  all_goals simp

@[simp] theorem State.abortCell_outside (t : TileId) (id : Nat) (c : Cell) : (s.abortCell t id c).outside = s.outside := by
  unfold State.abortCell
  rw [State.dropFetches_outside]
  refine State.foldl_outside (fun s i => ?_) _ _
  split <;> simp

@[simp] theorem State.endCell_outside (t : TileId) (id : Nat) : (s.endCell t id).outside = s.outside := by
  unfold State.endCell State.endPart
  rw [State.serveWaiting_outside]
  repeat' split
  all_goals simp

@[simp] theorem State.voidArms_outside (x : SessId) : (s.voidArms x).outside = s.outside := (rfl)

@[simp] theorem State.breakLease_outside (r : RegionId) (cause : BitVec 2) : (s.breakLease r cause).outside = s.outside := (rfl)

@[simp] theorem State.endSession_outside (x : SessId) (cause : BitVec 3) : (s.endSession x cause).outside = s.outside := by
  simp [State.endSession]

@[simp] theorem State.endLink_outside (p : PortId) (j : LinkId) : (s.endLink p j).outside = s.outside := by
  simp [State.endLink]

end

variable {s : State} {p : PortId}

theorem State.port_eq_of_outside {t : State} (h : s.outside = t.outside) (q : PortId) : s.port q = t.port q :=
  (congrArg (State.port · q) h :)

/-! ### The links of a port -/

/-- The links are read from the port alone. -/
theorem State.link_eq_of_port {t : State} {q : PortId} (h : (s.port q).links = (t.port q).links) (k : LinkId) :
    s.link q k = t.link q k := by
  rw [State.link, h, State.link]

/-- A change of a port that keeps its links. -/
theorem State.link_modPort {f : Port → Port} (hf : (f (s.port p)).links = (s.port p).links) (q : PortId) (k : LinkId) :
    (s.modPort p f).link q k = s.link q k := by
  refine State.link_eq_of_port ?_ k
  rw [State.port_modPort]
  split
  · next h => rw [hf, h]
  · rfl

theorem State.portStopping_modPort {f : Port → Port} (hf : (f (s.port p)).links = (s.port p).links) :
    (s.modPort p f).portStopping p = s.portStopping p := by
  simp only [State.portStopping, State.link_modPort hf]

/-- A link that changes its state (R427): the port's table of links is written, whatever ends with the link. -/
theorem State.setLink_port {j : LinkId} {st : LinkSt} (h : s.link p j ≠ st) (q : PortId) : (s.setLink p j st).port q =
    (s.modPort p fun a => { a with links := Tab.put .down a.links j.val st }).port q := by
  rw [State.setLink, if_neg h]
  refine State.port_eq_of_outside ?_ q
  rw [State.ite_outside, State.endLink_outside, ite_self, State.raise_outside]

theorem State.setLink_link (s : State) (p : PortId) (j : LinkId) (st : LinkSt) (k : LinkId) :
    (s.setLink p j st).link p k = if k = j then st else s.link p k := by
  by_cases h : s.link p j = st
  · rw [State.setLink, if_pos h]
    split
    · next hk => rw [hk, h]
    · rfl
  · rw [State.link, State.setLink_port h, State.port_modPort, if_pos rfl]
    exact (Tab.get_put ..).trans (by simp only [Fin.ext_iff]; rfl)

section
variable {α : Type} {f : Port → α} (hf : ∀ a links, f { a with links } = f a)
include hf

/-- Nothing of a port but its links changes with the state of a link. -/
theorem State.setLink_rest (s : State) (p : PortId) (j : LinkId) (st : LinkSt) (q : PortId) :
    f ((s.setLink p j st).port q) = f (s.port q) := by
  by_cases h : s.link p j = st
  · rw [State.setLink, if_pos h]
  · rw [State.setLink_port h, State.port_modPort]
    split
    · next hq => rw [hf, hq]
    · rfl

theorem State.foldl_setLink_rest {g : LinkId → LinkSt} (l : List LinkId) (q : PortId) :
    f ((l.foldl (fun s j => s.setLink p j (g j)) s).port q) = f (s.port q) := by
  induction l generalizing s with
  | nil => rfl
  | cons j l ih => rw [List.foldl_cons, ih, State.setLink_rest hf]

end

/-- Links that each go to a state of their own. -/
theorem State.foldl_setLink_link {g : LinkId → LinkSt} (l : List LinkId) (k : LinkId) :
    (l.foldl (fun s j => s.setLink p j (g j)) s).link p k = if k ∈ l then g k else s.link p k := by
  induction l generalizing s with
  | nil => simp
  | cons j l ih =>
    rw [List.foldl_cons, ih, State.setLink_link]
    by_cases hk : k = j <;> simp [hk]

/-- Links that stop where they are not down. -/
theorem State.foldl_stop_link (l : List LinkId) (k : LinkId) :
    (l.foldl (fun s j => if s.link p j = .down then s else s.setLink p j .stopping) s).link p k =
      if k ∈ l ∧ s.link p k ≠ .down then .stopping else s.link p k := by
  induction l generalizing s with
  | nil => simp
  | cons j l ih =>
    rw [List.foldl_cons, ih]
    by_cases hj : s.link p j = .down
    · rw [if_pos hj]
      by_cases hk : k = j <;> simp [hk, hj]
    · rw [if_neg hj, State.setLink_link]
      by_cases hk : k = j <;> simp [hk, hj]

/-! ### Start and stop of a port (R36, R74) -/

theorem State.portStop_link (l : LinkId) : (s.portStop p).link p l = if s.link p l = .down then .down else .stopping := by
  unfold State.portStop
  split
  · next h =>
    have down : s.link p l = .down := of_decide_eq_true (List.all_eq_true.1 h l (List.mem_finRange l))
    rw [State.link_modPort (by rfl), down, if_pos rfl]
  · rw [State.foldl_stop_link]
    by_cases h : s.link p l = .down <;> simp [h]

theorem State.portStart_link (hm : s.portMay p = true) (he : (s.port p).enable = true) (hd : s.portDown p = true) (l : LinkId) :
    (s.portStart p).link p l = if l.val < modeLinks (s.port p).mode then .training else .down := by
  have run : ((s.modPort p fun q => { q with run := q.mode, rxOff := false }).port p).run = (s.port p).mode := by
    rw [State.port_modPort, if_pos rfl]
  rw [State.portStart, if_pos (by simp [hm, he, hd])]
  dsimp only
  rw [run, State.foldl_setLink_link, if_pos (List.mem_finRange l)]

/-- A port all of whose links have gone down. -/
def State.linksDown (s : State) (p : PortId) : State := (List.finRange 4).foldl (fun s j => s.setLink p j .down) s

theorem State.linksDown_rstPend (s : State) (p : PortId) : ((s.linksDown p).port p).rstPend = (s.port p).rstPend :=
  State.foldl_setLink_rest (f := Port.rstPend) (fun _ _ => rfl) (List.finRange 4) p

/-- A port whose stop has ended: its links are down and its receivers off. -/
def State.stopEnded (s : State) (p : PortId) : State := (s.linksDown p).modPort p fun q => { q with rxOff := true }

/-- A stop that completes: a reset that waited is taken, then the port starts. -/
theorem State.portStopped_stopping (h : s.portStopping p = true) : s.portStopped p =
    ((if (s.port p).rstPend then (s.stopEnded p).portClear p else s.stopEnded p).modPort p fun q => q.setPend false).portStart p := by
  have rst : ((s.stopEnded p).port p).rstPend = (s.port p).rstPend := by
    rw [State.stopEnded, State.port_modPort, if_pos rfl, ← s.linksDown_rstPend p]
  rw [State.portStopped, if_pos h, ← rst]
  rfl

/-! ### A write of PORT_CTL (R74, R356) -/

/-- The port with its fields written and ENABLE 1. -/
def State.portWritten (s : State) (p : PortId) (v : Word) : State :=
  s.modPort p fun q => { (q.writeFields v).setEnable true with rxOff := q.rxOff && (s.port p).enable }

theorem State.portStopping_portWritten (v : Word) : (s.portWritten p v).portStopping p = s.portStopping p :=
  State.portStopping_modPort rfl

section
variable {v : Word}

theorem State.portOn1_stopping (h : s.portStopping p = true) :
    s.portOn1 p v = (s.portWritten p v).modPort p fun q => q.setPend true :=
  if_pos ((State.portStopping_portWritten v).trans h)

theorem State.portOn1_running (h : s.portStopping p = false) :
    s.portOn1 p v = if (s.port p).enable then s.portWritten p v else (s.portWritten p v).portStart p :=
  if_neg (by rw [← State.portStopping_portWritten v] at h; exact Bool.eq_false_iff.1 h)

theorem State.portCtl_enable : s.portCtl p (v ||| 1#32) =
    if v.getLsbD 7 then (s.portOn1 p (v ||| 1#32)).portRst p else s.portOn1 p (v ||| 1#32) := by
  have on : (v ||| 1#32).getLsbD 0 = true := by simp
  have rst : (v ||| 1#32).getLsbD 7 = v.getLsbD 7 := by simp
  rw [State.portCtl, on, rst]
  rfl

theorem State.portCtl_disable : s.portCtl p (v &&& 0xFFFFFFFE#32) =
    if v.getLsbD 7 then (s.portOff1 p (v &&& 0xFFFFFFFE#32)).portRst p else s.portOff1 p (v &&& 0xFFFFFFFE#32) := by
  have off : (v &&& 0xFFFFFFFE#32).getLsbD 0 = false := by simp
  have rst : (v &&& 0xFFFFFFFE#32).getLsbD 7 = v.getLsbD 7 := by simp
  rw [State.portCtl, off, rst]
  rfl

end

/-! ### The commands -/

section
variable (hp : s.powered = true)
include hp

section
variable (hr : s.reach (portAddr p 0) = true)
include hr

theorem exec_portEnable (v : Word) : exec (.portEnable p v) s = .next (s.portCtl p (v ||| 1#32)) :=
  (State.doIf_enabled hp hr : execPortEnable p v s = _)

theorem exec_portDisable (v : Word) : exec (.portDisable p v) s = .next (s.portCtl p (v &&& 0xFFFFFFFE#32)) :=
  (State.doIf_enabled hp hr : execPortDisable p v s = _)

theorem exec_portReset : exec (.portReset p) s = .next (s.portRst p) :=
  (State.doIf_enabled hp hr : execPortReset p s = _)

end

theorem exec_portStopComplete : exec (.portStopComplete p) s = .next (s.portStopped p) :=
  (State.doIf_enabled hp rfl : execPortStopComplete p s = _)

theorem exec_linkUp (l : LinkId) : exec (.linkUp p l) s = .next (s.trained p l) :=
  (State.doIf_enabled hp rfl : execLinkUp p l s = _)

theorem exec_linkLoss (l : LinkId) : exec (.linkLoss p l) s = .next (s.lostLink p l) :=
  (State.doIf_enabled hp rfl : execLinkLoss p l s = _)

end

/-! ### A link whose training completes (R427) -/

/-- Every port that may run and is enabled has a link UP. -/
def State.portsReady (s : State) : Bool :=
  (List.finRange 16).all fun q => !(s.portMay q && (s.port q).enable) || s.portReady q

theorem State.portsReady_iff :
    s.portsReady = true ↔ ∀ q, s.portMay q = true → (s.port q).enable = true → s.portReady q = true := by
  simp [State.portsReady, imp_iff_not_or, or_assoc]

/-- The state in which a training link has come UP. -/
def State.linkUp (s : State) (p : PortId) (l : LinkId) : State := (s.setLink p l .up).mile 6

theorem State.trained_training {l : LinkId} (h : s.link p l = .training) :
    s.trained p l = if (s.linkUp p l).portsReady then (s.linkUp p l).mile 7 else s.linkUp p l :=
  if_pos h

/-- Settles O46: each write of PORT_CTL by ENABLE, PORT_RESET and what the port is doing; the rest link by link. -/
theorem portsAndLinks : Obligations.PortsAndLinks := by
  intro p l v s hp
  refine ⟨fun hr => ?_, State.portStop_link l, fun hm he hd => State.portStart_link hm he hd l,
    fun hs => ?_, fun ht => ?_, fun hu => ?_⟩
  · intro on off
    have on_eq : on = s.portWritten p (v ||| 1#32) := rfl
    have off_eq : off.portStop p = s.portOff1 p (v &&& 0xFFFFFFFE#32) := rfl
    clear_value on off
    rw [on_eq, off_eq, exec_portEnable hp hr, exec_portDisable hp hr, exec_portReset hp hr, State.portCtl_enable, State.portCtl_disable]
    refine ⟨fun h7 => ?_, fun h7 => ?_, fun hs => congrArg _ (if_neg (Bool.eq_false_iff.1 hs)), fun hs => congrArg _ (if_pos hs)⟩
    · rw [if_neg (Bool.eq_false_iff.1 h7), if_neg (Bool.eq_false_iff.1 h7)]
      refine ⟨fun hs => congrArg _ (State.portOn1_stopping hs), fun hs he => ?_, fun hs he => ?_, rfl⟩
      · rw [State.portOn1_running hs, if_pos he]
      · rw [State.portOn1_running hs, if_neg (Bool.eq_false_iff.1 he)]
    · rw [if_pos h7, if_pos h7]
      exact ⟨rfl, rfl⟩
  · intro dn
    have dn_eq : dn = s.stopEnded p := rfl
    clear_value dn
    subst dn_eq
    rw [exec_portStopComplete hp, State.portStopped_stopping hs]
    exact ⟨fun h => by rw [if_neg (Bool.eq_false_iff.1 h)], fun h => by rw [if_pos h]⟩
  · intro up
    have up_eq : up = s.linkUp p l := rfl
    clear_value up
    subst up_eq
    rw [exec_linkUp hp, State.trained_training ht]
    exact ⟨fun h => congrArg _ (if_pos (State.portsReady_iff.2 h)),
      fun q hm he h => congrArg _ (if_neg fun all => Bool.eq_false_iff.1 h (State.portsReady_iff.1 all q hm he))⟩
  · exact (exec_linkLoss hp l).trans (congrArg _ (if_pos hu))

end Sys2Proof.Machine
end

section
/-! PROOFS. Checks and what waits for them: `ChecksMergesSquallsAndReplay` (R71, R134, R150, R151, R276, R285, R286). -/

namespace Sys2Proof.Machine

variable {s : State} {t : TileId} {pl : PartLine}

/-! ### The line of a check -/

section
variable {id i : Nat} {c : Cell} (hl : s.lineCell t pl = some (id, i)) (hc : s.cell? t id = some c)
include hl hc

/-- A merge whose data has been checked (R134). -/
theorem State.merged_checked {d : Line} (h : c.phaseAt i = .checking d true) :
    s.merged t pl = ((s.setSpan t (c.line i)).execLine t id i d 0).serveWaiting t := by
  rw [State.merged, hl]
  dsimp only
  rw [hc]
  dsimp only
  rw [h]

/-- What a check finds (R285), once the reads of its tree are in. -/
theorem State.checks_settled (tagOk treeOk : Bool) (hb : s.treeBusy t (s.slotAt t (c.line i)) = false) :
    s.checks t pl tagOk treeOk =
      let slot := s.slotAt t (c.line i)
      let tag := tagOk && !c.tagBad.contains i
      let tree := (treeOk || (Tab.get none (s.tile t).sec.cached (treeKey 0 slot)).isSome) && s.treeHolds t slot
      (if tree then s.ctrVerified t slot else s).checked t pl (tag && tree) (if tag then 1 else 0) := by
  rw [State.checks, hl]
  dsimp only
  rw [hc]
  exact if_neg (Bool.eq_false_iff.1 hb)

/-! ### The outcome of a check (R276, R286) -/

/-- A slot's block counts as arrived no more. -/
def State.notArrived (s : State) (t : TileId) (slot : Nat) : State :=
  s.modSec t fun a => { a with arrived := a.arrived.filter fun x => decide (x ≠ slot) }

/-- A line whose tag failed has its codeword rebuilt in the background, where it has one (Table 10.7). -/
def State.rebuildLine (s : State) (t : TileId) (line how : Nat) : State :=
  match how, s.placeOf t line with
  | 0, some cwa => s.rebuildNow t cwa (.check cwa line)
  | _, _ => s

variable (hk : c.checks i = true)
include hk

/-- The outcome of the check of a line that is not yet settled. -/
theorem State.checked_pending (ok : Bool) (how : Nat) : s.checked t pl ok how =
    if ok = false ∧ how = 1 then s.treeFails t (s.badObject t (treeKey 0 (s.slotAt t (c.line i))))
    else if ok then (s.notArrived t (s.slotAt t (c.line i))).lineOutcome t pl true
    else ((s.notArrived t (s.slotAt t (c.line i))).failLine t pl how).rebuildLine t (c.line i) how := by
  rw [State.checked, hl]
  dsimp only
  rw [hc]
  exact if_neg (by simp [hk])

theorem State.checked_good : s.checked t pl true 0 = (s.notArrived t (s.slotAt t (c.line i))).lineOutcome t pl true := by
  rw [State.checked_pending hl hc hk, if_neg (by decide), if_pos rfl]

theorem State.checked_badTree :
    s.checked t pl false 1 = s.treeFails t (s.badObject t (treeKey 0 (s.slotAt t (c.line i)))) := by
  rw [State.checked_pending hl hc hk, if_pos ⟨rfl, rfl⟩]

theorem State.checked_timeout : s.checked t pl false 2 = (s.notArrived t (s.slotAt t (c.line i))).failLine t pl 2 := by
  rw [State.checked_pending hl hc hk, if_neg (by decide), if_neg (by decide)]
  rfl

theorem State.checked_badTag : s.checked t pl false 0 =
    ((s.notArrived t (s.slotAt t (c.line i))).failLine t pl 0).rebuildLine t (c.line i) 0 := by
  rw [State.checked_pending hl hc hk, if_neg (by decide), if_neg (by decide)]

end

theorem State.rebuildLine_placed {line : Nat} {cwa : BitVec 34} (h : s.placeOf t line = some cwa) :
    s.rebuildLine t line 0 = s.rebuildNow t cwa (.check cwa line) := by
  simp only [State.rebuildLine, h]

theorem State.rebuildLine_unplaced {line : Nat} (h : s.placeOf t line = none) : s.rebuildLine t line 0 = s := by
  simp only [State.rebuildLine, h]

/-! ### SQUALL and replay (R71, R150) -/

/-- The SQUALL of a DATA whose checks all have an outcome and some of which failed. -/
theorem State.squall_due {x : SessId} {u : Unsettled} (hu : (s.ses x).unset = some u) (hp : u.pending = 0) (hf : u.failed ≠ 0)
    (hx : (s.ses x).st = .live) : s.squall x = (s.wait x
      { hdr := { opcode := opSquall, status := stIntegrity, flags := flagsOf true false false false false false
                 count := u.count, ref := u.dseq, aux := u.rseq, addr := u.addr }
        payload := beBytes 8 u.failed.toNat, squall := true }).flush x := by
  rw [State.squall, hu]
  exact if_pos ⟨hp, hf, hx⟩

/-! ### The commands -/

section
variable (hp : s.powered = true)
include hp

theorem exec_mergeComplete : exec (.mergeComplete t pl) s = .next (s.merged t pl) :=
  (State.doIf_enabled hp rfl : execMergeComplete t pl s = _)

theorem exec_checkOutcome (tagOk treeOk : Bool) :
    exec (.checkOutcome t pl tagOk treeOk) s = .next (s.checks t pl tagOk treeOk).settleAll :=
  (State.doIf_enabled hp rfl : execCheckOutcome t pl tagOk treeOk s = _)

theorem exec_checkTimeout : exec (.checkTimeout t pl) s = .next (s.checked t pl false 2).settleAll :=
  (State.doIf_enabled hp rfl : execCheckTimeout t pl s = _)

theorem exec_squall (x : SessId) : exec (.squall x) s = .next ((s.squall x).settle x) :=
  (State.doIf_enabled hp rfl : execSquall x s = _)

theorem exec_tileFaultReplay : exec (.tileFaultReplay t) s = .next (s.replayed t).settleAll :=
  (State.doIf_enabled hp rfl : execTileFaultReplay t s = _)

end

/-- Settles O31: a check by what it finds, an outcome by its class, the rest by its condition. -/
theorem checksMergesSquallsAndReplay : Obligations.ChecksMergesSquallsAndReplay := by
  intro t pl x s hp
  refine ⟨fun id i c d hl hc hd => ?_, fun id i c a b hl hc _ => ?_, fun u hu h0 hf hx => ?_, fun hr he => ?_⟩
  · exact (exec_mergeComplete hp).trans (congrArg _ (State.merged_checked hl hc hd))
  · refine ⟨fun _ hb => ?_, exec_checkTimeout hp, fun hk v hs hl hc => ?_⟩
    · exact (exec_checkOutcome hp a b).trans (congrArg _ (congrArg State.settleAll (State.checks_settled hl hc a b hb)))
    · rw [← hs]
      exact ⟨State.checked_good hl hc hk, State.checked_badTree hl hc hk, State.checked_timeout hl hc hk,
        fun cwa h => (State.checked_badTag hl hc hk).trans (State.rebuildLine_placed h),
        fun h => (State.checked_badTag hl hc hk).trans (State.rebuildLine_unplaced h)⟩
  · exact (exec_squall hp x).trans (congrArg _ (congrArg (State.settle · x) (State.squall_due hu h0 hf hx)))
  · exact (exec_tileFaultReplay hp).trans (congrArg _ (congrArg State.settleAll (if_pos ⟨hr, he⟩)))

end Sys2Proof.Machine
end

section
/-! PROOFS. Strangers and the going on of enrollment: `StrangersAreCountedAndNothingElse`, `EnrollmentAndClosingGoOn` (R82, R83, R89,
R91 to R94, R300, R428). -/

namespace Sys2Proof

/-- A counter of a set after it has counted: one more up to its last value, every other counter as before (R312). -/
theorem Tab.get_bump (t : Tab Word) (k j : Nat) (n : Nat) : Tab.get 0 (Tab.bump t k n) j =
    if j = k then BitVec.ofNat 32 (min ((Tab.get 0 t k).toNat + n) 0xFFFFFFFF) else Tab.get 0 t j :=
  Tab.get_upd ..

namespace Machine

variable {s : State}

/-! ### Strangers (R93, R300) -/

/-- The occurrence of a rate-limited source is gathered in the EVT block (R300). -/
theorem State.raise_limited {n : Nat} (hn : isLimited n = true) (d : BitVec 64) (bit : Bool) (f : BitVec 64 → BitVec 64) :
    s.raise n d bit f = s.modEvt fun e => { e with limitd := Tab.upd (0, 0) e.limitd n fun (c, d) => (c + 1, f d) } :=
  if_pos hn

/-- Nothing but the link's record and the EVT block changes. -/
theorem State.stranger_rest (s : State) (p : PortId) (l : LinkId) (i : Nat) (sa : BitVec 48) :
    { s.stranger p l i sa with strg := s.strg, evt := s.evt } = s := by
  rw [State.stranger, State.raise_limited (by decide)]
  rfl

theorem State.stranger_strgL (p : PortId) (l : LinkId) (i : Nat) (sa : BitVec 48) (q : PortId) (k : LinkId) :
    (s.stranger p l i sa).strgL q k =
      if q = p ∧ k = l then { cnt := Tab.bump (s.strgL p l).cnt i, last := sa } else s.strgL q k := by
  rw [State.stranger, State.raise_limited (by decide), State.modEvt_strgL, State.strgL_modStrg]

/-- Settles O20: the record of the link is written, and the occurrence of a rate-limited source waits in the EVT block. -/
theorem strangersAreCountedAndNothingElse : Obligations.StrangersAreCountedAndNothingElse := by
  intro s p l i sa
  have own : (s.stranger p l i sa).strgL p l = { cnt := Tab.bump (s.strgL p l).cnt i, last := sa } :=
    (State.stranger_strgL ..).trans (if_pos ⟨rfl, rfl⟩)
  rw [own]
  refine ⟨rfl, ?_, fun j hj => (Tab.get_bump ..).trans (if_neg hj), fun q k h => ?_, s.stranger_rest p l i sa⟩
  · rw [Tab.get_bump, if_pos rfl, BitVec.toNat_ofNat]
    omega
  · rw [State.stranger_strgL, if_neg (by rwa [Ne, Prod.mk.injEq] at h)]

/-! ### The front of the enrollment queue (R82, R428) -/

section
variable {q : Queued} {rest : List Queued} {s1 : State} (hq : s.enrQ = q :: rest) (hs : { s with enrQ := rest } = s1)
include hq hs

section
variable (ho : q.frame.rq.hdr.opcode = opEnroll)
include ho

theorem State.serveEnr_enroll_new (he : (s1.ses q.frame.rq.hdr.session).exch = none) :
    s.serveEnr = s1.answerEnroll q q.frame.rq.hdr.session := by
  rw [State.serveEnr, hq]
  dsimp only
  rw [hs, if_pos ho, he]

/-- An ENROLL while an exchange is pending: the same one again, or another. -/
theorem State.serveEnr_enroll_pending {o : Exch} (he : (s1.ses q.frame.rq.hdr.session).exch = some o) : s.serveEnr =
    if o.rq = q.frame.rq ∧ o.mac = q.frame.sa ∧ o.port = q.port ∧ o.link = q.link then
      s1.emitEnr q.port q.link q.frame.sa q.frame.pcp o.ackFrame
    else s1.answerEnroll q q.frame.rq.hdr.session := by
  rw [State.serveEnr, hq]
  dsimp only
  rw [hs, if_pos ho, he]

end

section
variable (ho : q.frame.rq.hdr.opcode ≠ opEnroll)
include ho

/-- An ENROLL_FINISH of the pending exchange, by its signature. -/
theorem State.serveEnr_finish {o : Exch} (hm : (s1.ses q.frame.rq.hdr.session).finishMatches q.port q.link q.frame.rq = true)
    (he : (s1.ses q.frame.rq.hdr.session).exch = some o) : s.serveEnr =
    if o.verifies (s1.cred q.frame.rq.hdr.session).key q.frame.rq.payload then
      s1.modSes q.frame.rq.hdr.session fun S =>
        { S with exch := none, fin := some { o with mac := q.frame.sa, pcp := q.frame.pcp, finish := some q.frame.rq } }
    else (s1.modSes q.frame.rq.hdr.session fun S => { S.exchGone with
        finAck := (q.frame.rq, { hdr := enrAckHdr q.frame.rq stDenied o.e (o.d + 1) 0 }) :: S.finAck }).emitEnr
      q.port q.link q.frame.sa q.frame.pcp { hdr := enrAckHdr q.frame.rq stDenied o.e (o.d + 1) 0 } := by
  rw [State.serveEnr, hq]
  dsimp only
  rw [hs, if_neg ho, if_pos hm, he]

theorem State.serveEnr_finishAgain (hm : (s1.ses q.frame.rq.hdr.session).finishMatches q.port q.link q.frame.rq = false) :
    s.serveEnr = s1.finishAgain q q.frame.rq.hdr.session := by
  rw [State.serveEnr, hq]
  dsimp only
  rw [hs, if_neg ho, if_neg (Bool.eq_false_iff.1 hm)]

end
end

/-! ### An ENROLL_FINISH of no pending exchange (R82) -/

section
variable {q : Queued} {x : SessId}

theorem State.finishAgain_answered {e : Rq × Frame} (h : (s.ses x).finAck.find? (fun e => decide (e.1 = q.frame.rq)) = some e) :
    s.finishAgain q x = s.emitEnr q.port q.link q.frame.sa q.frame.pcp e.2 := by
  rw [State.finishAgain, h]

theorem State.finishAgain_waits {o : Exch} (h : (s.ses x).finAck.find? (fun e => decide (e.1 = q.frame.rq)) = none)
    (hf : (s.ses x).fin = some o) (hr : o.finish = some q.frame.rq) : s.finishAgain q x = s.modSes x fun S =>
      { S with fin := some { o with repeats := o.repeats ++ [(q.port, q.link, q.frame.sa, q.frame.pcp)] } } := by
  rw [State.finishAgain, h, hf]
  exact if_pos hr

theorem State.finishAgain_stranger (h : (s.ses x).finishRepeats q.frame.rq = false) :
    s.finishAgain q x = s.stranger q.port q.link 3 q.frame.sa := by
  obtain ⟨hany, hfin⟩ := Bool.or_eq_false_iff.1 h
  have unanswered : (s.ses x).finAck.find? (fun e => decide (e.1 = q.frame.rq)) = none := by
    simpa using hany
  rw [State.finishAgain, unanswered]
  cases hf : (s.ses x).fin with
  | none => rfl
  | some o =>
    rw [hf] at hfin
    exact if_neg (of_decide_eq_false hfin)

end

/-! ### Completion and closing (R83, R91, R92) -/

section
variable {x : SessId}

theorem State.completeEnr_enrolling {o : Exch} (hf : (s.ses x).fin = some o) (h : (s.ses x).st = .enrolling) :
    s.completeEnr x = s.install x o := by
  simp only [State.completeEnr, hf, h]

theorem State.completeEnr_live {o : Exch} (hf : (s.ses x).fin = some o) (h : (s.ses x).st = .live) :
    s.completeEnr x = s.endSession x 5 := by
  simp only [State.completeEnr, hf, h]

theorem State.closeDone_emptied (h : (s.ses x).st = .closing) (he : s.emptied x = true) : s.closeDone x =
    (s.ses x).fin.elim (s.modSes x fun S => { S with st := if S.exch = none then .idle else .enrolling }) (s.install x) := by
  rw [State.closeDone, if_pos ⟨h, he⟩]
  cases (s.ses x).fin <;> rfl

end

/-! ### The commands -/

section
variable {x : SessId} (hp : s.powered = true)
include hp

theorem exec_enrollQueueService : exec .enrollQueueService s = .next s.serveEnr :=
  (State.doIf_enabled hp rfl : execEnrollQueueService s = _)

theorem exec_enrollmentComplete : exec (.enrollmentComplete x) s = .next (s.completeEnr x) :=
  (State.doIf_enabled hp rfl : execEnrollmentComplete x s = _)

theorem exec_sessionCloseComplete : exec (.sessionCloseComplete x) s = .next (s.closeDone x) :=
  (State.doIf_enabled hp rfl : execSessionCloseComplete x s = _)

theorem exec_pendingExchangeExpiry {o : Exch} (he : (s.ses x).exch = some o) :
    exec (.pendingExchangeExpiry x) s = .next ((s.till (o.at_ + ms 100)).modSes x Sess.exchGone) := by
  refine (State.doIf_enabled hp rfl : execPendingExchangeExpiry x s = _).trans ?_
  rw [he]

theorem exec_oldReceiveSaDelete {n : Nat} (h : (s.ses x).oldAt = some n) :
    exec (.oldReceiveSaDelete x) s = .next ((s.till n).modSes x fun S => { S with rx := S.rx.take 1, oldAt := none }) := by
  refine (State.doIf_enabled hp rfl : execOldReceiveSaDelete x s = _).trans ?_
  rw [h]

end

/-- Settles O21: the front of the queue by its kind and by what its session has of it, then the four ends of a wait. -/
theorem enrollmentAndClosingGoOn : Obligations.EnrollmentAndClosingGoOn := by
  intro x s hp
  refine ⟨fun q rest hq => ?_, fun o hf => ⟨fun h => ?_, fun h => ?_, fun h he => ?_⟩, fun hf h he => ?_,
    fun o he => exec_pendingExchangeExpiry hp he, fun n h => exec_oldReceiveSaDelete hp h⟩
  · intro r y s1 ans again
    have answer {t : State} (h : s.serveEnr = t) : ans t := (exec_enrollQueueService hp).trans (congrArg _ h)
    refine ⟨fun ho => ⟨fun he => answer (State.serveEnr_enroll_new hq rfl ho he), fun o he => ?_⟩, fun ho => ?_⟩
    · have pending := State.serveEnr_enroll_pending hq rfl ho he
      exact ⟨fun h => answer (pending.trans (if_pos h)), fun h => answer (pending.trans (if_neg h))⟩
    · refine ⟨fun o hm he => ?_, fun e hm h => ?_, fun o hm h hf hr => ?_, fun hm h => ?_⟩
      · have finish := State.serveEnr_finish hq rfl ho hm he
        exact ⟨fun h => answer (finish.trans (if_pos h)), fun h => answer (finish.trans (if_neg (Bool.eq_false_iff.1 h)))⟩
      all_goals refine answer ((State.serveEnr_finishAgain hq rfl ho hm).trans ?_)
      · exact State.finishAgain_answered h
      · exact State.finishAgain_waits h hf hr
      · exact State.finishAgain_stranger h
  · exact (exec_enrollmentComplete hp).trans (congrArg _ (State.completeEnr_enrolling hf h))
  · exact (exec_enrollmentComplete hp).trans (congrArg _ (State.completeEnr_live hf h))
  · exact (exec_sessionCloseComplete hp).trans (congrArg _ ((State.closeDone_emptied h he).trans (by rw [hf, Option.elim_some])))
  · exact (exec_sessionCloseComplete hp).trans (congrArg _ ((State.closeDone_emptied h he).trans (by rw [hf, Option.elim_none])))

end Machine
end Sys2Proof
end

section
/-! PROOFS. What the occurrence of an event changes of the sessions: EVENT frames wait for the LIVE ones or go to them (R63, R305, R306). -/

namespace Sys2Proof.Machine

/-! ### A session that has been told of events -/

/-- An association without its packet number. -/
def Sa.unnumbered (a : Sa) : Sa := { a with pn := 0 }

/-- A session without what frames of the device on their way to it change. -/
def Sess.unsent (S : Sess) : Sess :=
  { S with tx := S.tx.map Sa.unnumbered, dseq := 0, retain := [], waitQ := [], tries := 0, rtoAt := 0, txAt := 0 }

/-- Session `T` is session `S` once EVENT frames have been put to be sent to it, none where `S` is not LIVE. -/
structure Sess.Told (S T : Sess) : Prop where
  unsent : T.unsent = S.unsent
  retain : ∃ l, T.retain = S.retain ++ l ∧ ∀ f ∈ l, f.hdr.opcode = opEvent
  quiet : S.st ≠ .live → T = S

namespace Sess.Told

variable {S T U : Sess}

theorem refl (S : Sess) : S.Told S := ⟨rfl, ⟨[], by simp⟩, fun _ => rfl⟩

theorem trans (h : S.Told T) (g : T.Told U) : S.Told U := by
  refine ⟨g.unsent.trans h.unsent, ?_, fun hS => ?_⟩
  · obtain ⟨l, hl, hev⟩ := h.retain
    obtain ⟨m, hm, hev'⟩ := g.retain
    exact ⟨l ++ m, by rw [hm, hl, List.append_assoc], fun f hf => (List.mem_append.1 hf).elim (hev f) (hev' f)⟩
  · have hT := h.quiet hS
    exact (g.quiet (hT ▸ hS)).trans hT

/-- A LIVE session that differs in what is on its way to it alone, with no further frame held. -/
theorem of_live (hx : S.st = .live) (hu : T.unsent = S.unsent) (hr : T.retain = S.retain) : S.Told T :=
  ⟨hu, ⟨[], by simp [hr]⟩, fun h => absurd hx h⟩

/-- What a session has beside the frames on their way to it. -/
theorem same {α : Type} {f : Sess → α} (h : S.Told T) (hf : ∀ U : Sess, f U.unsent = f U := by intro U; rfl) : f T = f S := by
  rw [← hf T, h.unsent, hf]

theorem st (h : S.Told T) : T.st = S.st := h.same (f := Sess.st)

theorem port (h : S.Told T) : T.port = S.port := h.same (f := Sess.port)

theorem link (h : S.Told T) : T.link = S.link := h.same (f := Sess.link)

theorem tx {a : Sa} (h : S.Told T) (ha : S.tx = some a) : ∃ n, T.tx = some { a with pn := n } := by
  have e : T.tx.map Sa.unnumbered = some a.unnumbered := (congrArg Sess.tx h.unsent :).trans (congrArg (Option.map _) ha)
  obtain ⟨b, hb, hab⟩ := Option.map_eq_some_iff.1 e
  obtain ⟨⟩ := a
  obtain ⟨⟩ := b
  cases hab
  exact ⟨_, hb⟩

end Sess.Told

/-! ### A state whose sessions have been told of events -/

/-- Between two states nothing has left but EVENT frames, the regions stand, and of a session only what EVENT frames to it change. -/
structure EventsTold (s t : State) : Prop where
  rgns : t.rgns = s.rgns
  sent : ∃ l, t.out = l ++ s.out ∧ ∀ o ∈ l, o.frame.hdr.opcode = opEvent
  ses : ∀ x, (s.ses x).Told (t.ses x)

namespace EventsTold

variable {s0 s t : State}

theorem refl (s : State) : EventsTold s s := ⟨rfl, ⟨[], by simp⟩, fun _ => .refl _⟩

theorem trans (h : EventsTold s0 s) (g : EventsTold s t) : EventsTold s0 t := by
  obtain ⟨l, hl, hev⟩ := h.sent
  obtain ⟨m, hm, hev'⟩ := g.sent
  exact ⟨g.rgns.trans h.rgns, ⟨m ++ l, by rw [hm, hl, List.append_assoc], fun o ho => (List.mem_append.1 ho).elim (hev' o) (hev o)⟩,
    fun x => (h.ses x).trans (g.ses x)⟩

theorem foldl {α : Type} {f : State → α → State} (hf : ∀ s a, EventsTold s (f s a)) (l : List α) (h : EventsTold s0 s) :
    EventsTold s0 (l.foldl f s) := by
  induction l generalizing s with
  | nil => exact h
  | cons a l ih => exact ih (h.trans (hf s a))

theorem ite {a b : State} {c : Prop} [Decidable c] (ha : EventsTold s0 a) (hb : EventsTold s0 b) :
    EventsTold s0 (if c then a else b) := by
  split <;> assumption

theorem update (h : EventsTold s0 s) {free : Nat} {ldg : Ledger} {evt : Evt} {tiles : Tab Tile} {mesh : List Msg} :
    EventsTold s0 { s with free, ldg, evt, tiles, mesh } := ⟨h.rgns, h.sent, h.ses⟩

theorem modEvt (h : EventsTold s0 s) (f : Evt → Evt) : EventsTold s0 (s.modEvt f) := h.update
theorem modLdg (h : EventsTold s0 s) (f : Ledger → Ledger) : EventsTold s0 (s.modLdg f) := h.update
theorem commit (h : EventsTold s0 s) (base : Nat) (b : Body) (post : List Deferred) :
    EventsTold s0 (s.commit base b post) := h.update

theorem modSes (h : EventsTold s0 s) {x : SessId} {f : Sess → Sess} (hf : (s.ses x).Told (f (s.ses x))) :
    EventsTold s0 (s.modSes x f) := by
  refine ⟨h.rgns, h.sent, fun y => (h.ses y).trans ?_⟩
  rw [State.ses_modSes]
  split
  · next hy => rwa [hy]
  · exact .refl _

theorem cons_out (h : EventsTold s0 s) {o : Sent} (ho : o.frame.hdr.opcode = opEvent) :
    EventsTold s0 { s with out := o :: s.out } := by
  obtain ⟨l, hl, hev⟩ := h.sent
  exact ⟨h.rgns, ⟨o :: l, congrArg (List.cons o) hl, List.forall_mem_cons.2 ⟨ho, hev⟩⟩, h.ses⟩

end EventsTold

/-! ### An EVENT frame to a LIVE session (R54, R63, R305, R306) -/

section
variable {s : State} {x : SessId}

/-- A frame leaves under the transmit association, or nothing happens where there is none, or none with numbers left (R86, R87). -/
theorem State.emit_cases (s : State) (x : SessId) (f : Frame) :
    s.emit x f = s ∨ ∃ a, (s.ses x).tx = some a ∧ s.emit x f = { s.spend x a with out := s.sent x a f :: s.out } := by
  cases ha : (s.ses x).tx with
  | none => exact .inl (by rw [State.emit, ha])
  | some a =>
    by_cases hn : a.pn = 0
    · exact .inl (by rw [State.emit, ha]; exact if_pos hn)
    · exact .inr ⟨a, rfl, State.emit_numbered ha hn f⟩

theorem EventsTold.emit {s0 : State} (h : EventsTold s0 s) (hx : (s.ses x).st = .live) {f : Frame} (hf : f.hdr.opcode = opEvent) :
    EventsTold s0 (s.emit x f) := by
  obtain e | ⟨a, ha, e⟩ := s.emit_cases x f <;> rw [e]
  · exact h
  · exact (h.modSes (.of_live hx (by simp [Sess.unsent, ha, Sa.unnumbered]) rfl)).cons_out hf

@[simp] theorem State.emit_tiles (f : Frame) : (s.emit x f).tiles = s.tiles := by
  obtain e | ⟨a, -, e⟩ := s.emit_cases x f <;> rw [e]
  rfl

theorem State.emit_ses_other {y : SessId} (hy : y ≠ x) (f : Frame) : (s.emit x f).ses y = s.ses y := by
  obtain e | ⟨a, -, e⟩ := s.emit_cases x f <;> rw [e]
  show (s.spend x a).ses y = s.ses y
  exact (State.ses_modSes ..).trans (if_neg hy)

theorem State.emit_dseq (f : Frame) : ((s.emit x f).ses x).dseq = (s.ses x).dseq := by
  obtain e | ⟨a, -, e⟩ := s.emit_cases x f <;> rw [e]
  show ((s.spend x a).ses x).dseq = _
  rw [State.spend_ses]

/-- An EVENT frame that waits for a session. -/
def eventWaiting (n : Nat) (payload : List Byte) : Waiting := { hdr := eventHdr n, payload, src := some n }

/-- The session as an EVENT frame takes its number and enters retention. -/
def State.eventNumbered (s : State) (x : SessId) (n : Nat) (payload : List Byte) (rest : List Waiting) : State :=
  s.modSes x fun S => { S with
    waitQ := rest, dseq := S.dseq + 1, retain := S.retain ++ [{ hdr := (s.ses x).stamp x (eventHdr n) (s.ses x).dseq, payload }]
    rtoAt := if S.retain = [] then s.now else S.rtoAt, tries := if S.retain = [] then 0 else S.tries }

/-- An EVENT frame completes no request, carries no key change and answers no lease, so its sending is its emission. -/
theorem State.sendFirst_event (n : Nat) (payload : List Byte) (rest : List Waiting) :
    s.sendFirst x (eventWaiting n payload) rest = ((s.eventNumbered x n payload rest).emit x
      { hdr := (s.ses x).stamp x (eventHdr n) (s.ses x).dseq, payload }).modSes x fun S => S := rfl

/-- An EVENT frame sent to a LIVE session changes of the sessions that one, by its number, its retention and its packet. -/
theorem State.sendFirst_event_told (hx : (s.ses x).st = .live) (n : Nat) (payload : List Byte) (rest : List Waiting) :
    EventsTold s (s.sendFirst x (eventWaiting n payload) rest) := by
  rw [State.sendFirst_event]
  have numbered : EventsTold s (s.eventNumbered x n payload rest) :=
    (EventsTold.refl s).modSes ⟨rfl, ⟨_, rfl, by simp [eventHdr, Sess.stamp, opEvent]⟩, fun h => absurd hx h⟩
  have live : ((s.eventNumbered x n payload rest).ses x).st = .live := by rw [(numbered.ses x).st, hx]
  exact (numbered.emit live rfl).modSes (.refl _)

/-- What one session is told of occurrences of a source whose route has FRAME at `fr` (R305, R306). -/
def State.tell (s : State) (n : Nat) (fr : BitVec 2) (payload : List Byte) (count : Nat) (x : SessId) : State :=
  if (s.ses x).st = .live ∧ (fr = 2#2 ∨ (fr = 1#2 ∧ (s.ses x).steward = true)) then
    if (s.ses x).waitQ.any (fun w => decide (w.src = some n)) then
      s.modSes x fun S => { S with waitQ := S.waitQ.map (Waiting.again n count) }
    else s.sendOrWait x (eventWaiting n payload)
  else s

/-- Every session in turn is told, by the route that the source has at the beginning. -/
theorem State.eventFrames_eq (n : Nat) (sf : BitVec 40) (detail : BitVec 64) (count : Nat) : s.eventFrames n sf detail count =
    (List.finRange 64).foldl (fun u x => u.tell n (Tab.get {} s.evt.route n).frame (eventRecord n sf count detail) count x) s := rfl

section
variable (n : Nat) (fr : BitVec 2) (payload : List Byte) (count : Nat)

theorem State.tell_told (s : State) (x : SessId) : EventsTold s (s.tell n fr payload count x) := by
  unfold State.tell State.sendOrWait
  split
  · next hx =>
    refine .ite (.modSes (.refl s) (.of_live hx.1 rfl rfl)) (.ite (State.sendFirst_event_told hx.1 ..) ?_)
    exact .modSes (.refl s) (.of_live hx.1 rfl rfl)
  · exact .refl s

@[simp] theorem State.tell_tiles (s : State) (x : SessId) : (s.tell n fr payload count x).tiles = s.tiles := by
  unfold State.tell State.sendOrWait
  rw [State.sendFirst_event]
  repeat' split
  all_goals simp [State.eventNumbered, State.wait]

theorem State.tell_ses_other {y : SessId} (hy : y ≠ x) : (s.tell n fr payload count x).ses y = s.ses y := by
  unfold State.tell State.sendOrWait
  rw [State.sendFirst_event]
  repeat' split
  all_goals simp [State.eventNumbered, State.wait, State.emit_ses_other, hy]

/-- A session that is told takes a device number for the EVENT frame where it goes at once, and only where the route says so. -/
theorem State.tell_dseq : ((s.tell n fr payload count x).ses x).dseq = (s.ses x).dseq ∨
    fr ≠ 0 ∧ ((s.tell n fr payload count x).ses x).dseq = (s.ses x).dseq + 1 := by
  unfold State.tell State.sendOrWait
  rw [State.sendFirst_event]
  split
  · next hx =>
    have routed : ¬fr = 0#2 := by rintro rfl; simp at hx
    repeat' split
    all_goals simp [State.eventNumbered, State.wait, State.emit_dseq, routed]
  · exact .inl rfl

theorem State.foldl_tell_ses_other {l : List SessId} (hx : x ∉ l) :
    (l.foldl (fun u y => u.tell n fr payload count y) s).ses x = s.ses x := by
  induction l generalizing s with
  | nil => rfl
  | cons y l ih =>
    rw [List.mem_cons, not_or] at hx
    exact (ih hx.2).trans (State.tell_ses_other n fr payload count hx.1)

theorem State.foldl_tell_dseq {l : List SessId} (hl : l.Nodup) :
    ((l.foldl (fun u y => u.tell n fr payload count y) s).ses x).dseq = (s.ses x).dseq ∨
      fr ≠ 0 ∧ ((l.foldl (fun u y => u.tell n fr payload count y) s).ses x).dseq = (s.ses x).dseq + 1 := by
  induction l generalizing s with
  | nil => exact .inl rfl
  | cons y l ih =>
    obtain ⟨hy, hl⟩ := List.nodup_cons.1 hl
    rw [List.foldl_cons]
    by_cases h : x = y
    · subst h
      rw [State.foldl_tell_ses_other n fr payload count hy]
      exact State.tell_dseq n fr payload count
    · rw [← State.tell_ses_other (s := s) n fr payload count h]
      exact ih hl

end

/-! ### The occurrence of an event (R299 to R303, R305) -/

theorem EventsTold.eventFrames {s0 : State} (h : EventsTold s0 s) (n : Nat) (sf : BitVec 40) (detail : BitVec 64)
    (count : Nat) : EventsTold s0 (s.eventFrames n sf detail count) := by
  rw [State.eventFrames_eq]
  exact .foldl (fun u x => u.tell_told n _ _ count x) _ h

theorem EventsTold.occur {s0 : State} (h : EventsTold s0 s) (n : Nat) (detail : BitVec 64) (bit : Bool) :
    EventsTold s0 (s.occur n detail bit) := by
  unfold State.occur
  dsimp only
  split
  · have recorded := (h.modEvt fun e => { e with pend := if e.pend.contains n then e.pend else n :: e.pend }).modEvt fun e =>
      e.setTrouble n s.sf (BitVec.ofNat 16 s.ldg.start.toNat)
    exact .ite (.ite ((recorded.modLdg _).commit ..) (recorded.modLdg _)) (.ite (recorded.eventFrames ..) (recorded.commit ..))
  · exact (h.modEvt _).eventFrames ..

theorem EventsTold.raise {s0 : State} (h : EventsTold s0 s) (n : Nat) (detail : BitVec 64) (bit : Bool)
    (f : BitVec 64 → BitVec 64) : EventsTold s0 (s.raise n detail bit f) :=
  (h.modEvt _).ite ((h.modEvt _).ite (h.occur n detail bit))

section
variable (s)

@[simp] theorem State.eventFrames_tiles (n : Nat) (sf : BitVec 40) (detail : BitVec 64) (count : Nat) :
    (s.eventFrames n sf detail count).tiles = s.tiles := by
  rw [State.eventFrames_eq]
  exact List.foldlRecOn (motive := fun u : State => u.tiles = s.tiles) _ _ rfl fun u h x _ => (u.tell_tiles ..).trans h

theorem State.eventFrames_dseq (x : SessId) (n : Nat) (sf : BitVec 40) (detail : BitVec 64) (count : Nat) :
    ((s.eventFrames n sf detail count).ses x).dseq = (s.ses x).dseq ∨
      (Tab.get {} s.evt.route n).frame ≠ 0 ∧ ((s.eventFrames n sf detail count).ses x).dseq = (s.ses x).dseq + 1 := by
  rw [State.eventFrames_eq]
  exact State.foldl_tell_dseq (l := List.finRange 64) n _ _ count (List.nodup_finRange _)

theorem State.occur_tiles (n : Nat) (detail : BitVec 64) (bit : Bool) : (s.occur n detail bit).tiles = s.tiles := by
  unfold State.occur
  dsimp only
  repeat' split
  all_goals simp

theorem State.raise_tiles (n : Nat) (detail : BitVec 64) (bit : Bool) (f : BitVec 64 → BitVec 64) :
    (s.raise n detail bit f).tiles = s.tiles := by
  unfold State.raise
  repeat' split
  all_goals simp [State.occur_tiles]

/-- The occurrence of a source that is neither a fault nor rate-limited gives a session at most one device number more. -/
theorem State.raise_dseq {n : Nat} (hl : isLimited n = false) (hf : isFault n = false) (x : SessId) (detail : BitVec 64) :
    ((s.raise n detail).ses x).dseq = (s.ses x).dseq ∨
      (Tab.get {} s.evt.route n).frame ≠ 0 ∧ ((s.raise n detail).ses x).dseq = (s.ses x).dseq + 1 := by
  rw [State.raise, if_neg (Bool.eq_false_iff.1 hl)]
  split
  · exact .inl rfl
  · simp only [State.occur, hf, Bool.false_and, Bool.false_eq_true, if_false]
    exact State.eventFrames_dseq (s.modEvt _) x n s.sf detail 1

end

end

end Sys2Proof.Machine
end

section
/-! PROOFS. A completed enrollment: `InstallMakesTheSessionLive` (R76, R82, R83, R88). -/

namespace Sys2Proof.Machine

/-! ### Frames that leave unprotected (R44) -/

/-- An unprotected frame leaves at once; what else changes is the count of the values drawn for its padding (log 1). -/
theorem State.emitEnr_eq (s : State) (p : PortId) (j : LinkId) (mac : BitVec 48) (pcp : BitVec 3) (f : Frame) :
    ∃ free wire, s.emitEnr p j mac pcp f =
      { s with free, out := { port := p, link := j, mac, sec := none, pcp, frame := f, wire } :: s.out } := by
  unfold State.emitEnr
  dsimp only
  split <;> exact ⟨_, _, rfl⟩

/-- The same frame to several that have asked for it. -/
theorem State.foldl_emitEnr_eq (f : Frame) (l : List (PortId × LinkId × BitVec 48 × BitVec 3)) (s : State) :
    ∃ free m, l.foldl (fun s e => s.emitEnr e.1 e.2.1 e.2.2.1 e.2.2.2 f) s = { s with free, out := m ++ s.out } ∧
      ∀ o ∈ m, o.frame = f := by
  induction l generalizing s with
  | nil => exact ⟨s.free, [], rfl, by simp⟩
  | cons e l ih =>
    obtain ⟨_, _, he⟩ := s.emitEnr_eq e.1 e.2.1 e.2.2.1 e.2.2.2 f
    rw [List.foldl_cons, he]
    obtain ⟨free, m, hm, hf⟩ := ih _
    refine ⟨free, m ++ [_], by rw [hm, List.append_assoc]; rfl, fun o ho => ?_⟩
    rcases List.mem_append.1 ho with ho | ho
    · exact hf o ho
    · rw [List.mem_singleton.1 ho]

/-! ### The parts of an installation (R83) -/

/-- The ACK of the ENROLL_FINISH of an exchange. -/
def Exch.finishAck (o : Exch) : Frame :=
  { hdr := { enrAckHdr o.rq stOk o.e (o.d + 1) 0 with
      ack := o.rq.hdr.seq + 1, ref := o.rq.hdr.seq + 1, count := match o.finish with | some r => r.hdr.count | none => 0 }
    payload := o.confirm }

/-- The session that an exchange makes of `S`. -/
def Exch.binding (o : Exch) (steward : Bool) (now : Nat) (S : Sess) : Sess :=
  { st := .live, port := o.port, link := o.link, v1 := o.v1, steward, lastEnd := S.lastEnd
    epoch := o.e, mac := o.mac, sci := enrSci o.rq, pcp := o.pcp, exch := S.exch
    finAck := (match o.finish with | some r => [(r, o.finishAck)] | none => []) ++ S.finAck
    rx := [o.up 0], tx := some (o.down 0), ka := o.ka, e := o.rq.hdr.seq + 2, hi := o.rq.hdr.seq + 1
    dseq := o.d + 2, acked := o.d + 1, rtoAt := now, txAt := now, rxAt := now }

/-- The session is bound, the ACK leaves and leaves again for each repeat that waited, and SES_ENROLL occurs. -/
theorem State.install_eq (s : State) (x : SessId) (o : Exch) : s.install x o =
    (o.repeats.foldl (fun s e => s.emitEnr e.1 e.2.1 e.2.2.1 e.2.2.2 o.finishAck)
      ((s.modSes x (o.binding (s.cred x).steward s.now)).emitEnr o.port o.link o.mac o.pcp o.finishAck)).raise 14
        (fld 0 x.val ||| fld 8 o.port.val ||| fld 12 o.link.val ||| fld 16 o.e.toNat) := rfl

/-- The state in which SES_ENROLL occurs: the session is bound, and the ACKs have left. -/
theorem State.install_raise (s : State) (x : SessId) (o : Exch) : ∃ (free : Nat) (m : List Sent) (wire : List Byte) (d : BitVec 64),
    (∀ a ∈ m, a.frame = o.finishAck) ∧
      s.install x o = ({ s.modSes x (o.binding (s.cred x).steward s.now) with
        free, out := m ++ { port := o.port, link := o.link, mac := o.mac, sec := none, pcp := o.pcp, frame := o.finishAck, wire } :: s.out } :
          State).raise 14 d := by
  rw [State.install_eq]
  obtain ⟨_, wire, h⟩ := (s.modSes x (o.binding (s.cred x).steward s.now)).emitEnr_eq o.port o.link o.mac o.pcp o.finishAck
  rw [h]
  obtain ⟨free, m, hm, hf⟩ := State.foldl_emitEnr_eq o.finishAck o.repeats _
  rw [hm]
  exact ⟨free, m, wire, _, hf, rfl⟩

/-- Settles O22: the binding field by field; SES_ENROLL, which occurs last, changes no more of a session than an EVENT frame does. -/
theorem installMakesTheSessionLive : Obligations.InstallMakesTheSessionLive := by
  intro s x o t
  obtain ⟨free, m, wire, d, hm, ht⟩ := s.install_raise x o
  generalize hB : o.binding (s.cred x).steward s.now = B at ht
  let f : Sent := { port := o.port, link := o.link, mac := o.mac, sec := none, pcp := o.pcp, frame := o.finishAck, wire }
  let v : State := { s.modSes x B with free, out := m ++ f :: s.out }
  have raised : t = v.raise 14 d := ht
  have bound : v.ses x = B (s.ses x) := (State.ses_modSes s ..).trans (if_pos rfl)
  have others (y : SessId) (hy : y ≠ x) : v.ses y = s.ses y := (State.ses_modSes s ..).trans (if_neg hy)
  have told : EventsTold v t := raised ▸ (EventsTold.refl v).raise 14 d true _
  have own := told.ses x
  have dseq := v.raise_dseq (n := 14) (by decide) (by decide) x d
  rw [← raised] at dseq
  rw [bound] at own dseq
  subst hB
  obtain ⟨held, hheld, hev⟩ := own.retain
  obtain ⟨l, hl, hsent⟩ := told.sent
  refine ⟨own.st, own.same (f := Sess.epoch), own.same (f := Sess.e), ?_, own.port, own.link, own.same (f := Sess.rx), own.tx rfl, ?_,
    own.same (f := Sess.reqs), fun y hy => ?_, l ++ m, f, ?_, ?_, rfl, rfl, rfl, rfl, rfl, rfl⟩
  · refine dseq.imp_right fun h => ⟨h.1, h.2.trans ?_⟩
    show o.d + 2 + 1 = o.d + 3
    rw [BitVec.add_assoc]
    rfl
  · rw [hheld]
    exact hev
  · have other := told.ses y
    rw [others y hy] at other
    exact ⟨other.st, other.same (f := Sess.epoch), other.same (f := Sess.e)⟩
  · exact hl.trans (List.append_assoc ..).symm
  · exact fun a ha => (List.mem_append.1 ha).imp (hsent a) (hm a)

end Sys2Proof.Machine
end

section
/-! PROOFS. What the service of lines leaves alone: all but the tiles and the mesh, were it not for the overflows of performance counters,
of which sessions are told (R135, R162, R308, R309). -/

namespace Sys2Proof.Machine

/-- A state without its tiles and the messages between them. -/
def State.offTiles (s : State) : State := { s with tiles := [], mesh := [] }

variable (s : State) (t : TileId)

/-! ### Work that touches tiles and mesh alone -/

theorem State.foldl_offTiles {α : Type} {f : State → α → State} (hf : ∀ s a, (f s a).offTiles = s.offTiles) (l : List α) :
    (l.foldl f s).offTiles = s.offTiles := by
  induction l generalizing s with
  | nil => rfl
  | cons a l ih => exact (ih _).trans (hf s a)

theorem State.foldl_fst_offTiles {α β : Type} {f : State × β → α → State × β} (hf : ∀ e a, (f e a).1.offTiles = e.1.offTiles)
    (l : List α) (e : State × β) : (l.foldl f e).1.offTiles = e.1.offTiles := by
  induction l generalizing e with
  | nil => rfl
  | cons a l ih => exact (ih _).trans (hf e a)

@[simp] theorem State.ite_offTiles {c : Prop} [Decidable c] (a b : State) :
    (if c then a else b).offTiles = if c then a.offTiles else b.offTiles := apply_ite State.offTiles c a b

@[simp] theorem State.modAdm_offTiles (f : Adm → Adm) : (s.modAdm t f).offTiles = s.offTiles := (rfl)
@[simp] theorem State.modSec_offTiles (f : Sec → Sec) : (s.modSec t f).offTiles = s.offTiles := (rfl)
@[simp] theorem State.send_offTiles (dst : TileId) (b : MsgBody) : (s.send t dst b).offTiles = s.offTiles := (rfl)
@[simp] theorem State.xltCnt_offTiles (i : Nat) : (s.xltCnt t i).offTiles = s.offTiles := (rfl)
@[simp] theorem State.secCnt_offTiles (i : Nat) : (s.secCnt t i).offTiles = s.offTiles := (rfl)
@[simp] theorem State.modCell_offTiles (id : Nat) (f : Cell → Cell) : (s.modCell t id f).offTiles = s.offTiles := (rfl)
@[simp] theorem State.giveBack_offTiles (id i : Nat) : (s.giveBack t id i).offTiles = s.offTiles := (rfl)
@[simp] theorem State.setSpan_offTiles (line : Nat) : (s.setSpan t line).offTiles = s.offTiles := (rfl)
@[simp] theorem State.newFetch_offTiles (f : Fetch) : (s.newFetch t f).offTiles = s.offTiles := (rfl)
@[simp] theorem State.dropFetches_offTiles (p : Fetch → Bool) : (s.dropFetches t p).offTiles = s.offTiles := (rfl)

@[simp] theorem State.startRebuild_offTiles (id : Nat) (f : Fetch) : (s.startRebuild t id f).offTiles = s.offTiles := by
  unfold State.startRebuild
  dsimp only
  split
  · rfl
  · refine (State.foldl_offTiles _ (fun s a => ?_) _).trans ?_ <;> rfl

@[simp] theorem State.bgFetch_offTiles (cwa : BitVec 34) (o : Owner) : (s.bgFetch t cwa o).offTiles = s.offTiles := by
  simp [State.bgFetch]

@[simp] theorem State.release_offTiles (id : Nat) : (s.release t id).offTiles = s.offTiles := by
  unfold State.release
  split <;> rfl

@[simp] theorem State.finish_offTiles (id : Nat) : (s.finish t id).offTiles = s.offTiles := by
  unfold State.finish
  split <;> simp

@[simp] theorem State.give_offTiles (id i : Nat) (data : Line) (poison : Nat) (never pending retry : Bool) :
    (s.give t id i data poison never pending retry).offTiles = s.offTiles := by simp [State.give]

@[simp] theorem State.pinOlder_offTiles (id line : Nat) : (s.pinOlder t id line).offTiles = s.offTiles := by
  refine State.foldl_offTiles _ (fun s a => ?_) _
  rfl

@[simp] theorem State.stage_offTiles (id i line : Nat) (data : Line) : (s.stage t id i line data).offTiles = s.offTiles := by
  simp [State.stage]

@[simp] theorem State.execOne_offTiles (id i : Nat) (cur : Line) (poison : Nat) (retry : Bool) :
    (s.execOne t id i cur poison retry).offTiles = s.offTiles := by
  unfold State.execOne
  split <;> simp

@[simp] theorem State.execLine_offTiles (id i : Nat) (cur : Line) (poison : Nat) (retry : Bool) :
    (s.execLine t id i cur poison retry).offTiles = s.offTiles := by
  unfold State.execLine
  split
  · rfl
  · refine (State.foldl_fst_offTiles (fun e q => ?_) _ _).trans (s.execOne_offTiles ..)
    split
    · rfl
    · split <;> simp

@[simp] theorem State.supersede_offTiles (line : Nat) (m : Nat × Nat) (self : Nat) :
    (s.supersede t line m self).offTiles = s.offTiles := by
  refine State.foldl_offTiles _ (fun s a => ?_) _
  split
  · rfl
  · split <;> rfl

@[simp] theorem State.lookup_offTiles (line : Nat) (tok : BitVec 64) (old again : Bool) :
    (s.lookup t line tok old again).2.2.offTiles = s.offTiles := by
  unfold State.lookup
  dsimp only
  repeat' split
  all_goals rfl

@[simp] theorem State.unclaim_offTiles (id : Nat) : (s.unclaim t id).offTiles = s.offTiles := by
  unfold State.unclaim
  split
  · rfl
  · split <;> simp

@[simp] theorem State.rechain_offTiles (m : Nat × Nat) : (s.rechain t m).offTiles = s.offTiles := by
  refine State.foldl_fst_offTiles (fun e q => ?_) _ _
  split
  · rfl
  · split <;> rfl

@[simp] theorem State.abortCell_offTiles (id : Nat) (c : Cell) : (s.abortCell t id c).offTiles = s.offTiles := by
  unfold State.abortCell
  rw [State.dropFetches_offTiles]
  refine State.foldl_offTiles _ (fun s i => ?_) _
  split <;> simp

@[simp] theorem State.endPart_offTiles (id : Nat) : (s.endPart t id).offTiles = s.offTiles := by
  unfold State.endPart
  split <;> simp

/-! ### Service of lines, with the overflows of performance counters -/

namespace EventsTold

variable {s t} {s0 : State} (h : EventsTold s0 s)
include h

/-- Work on tiles and mesh is not seen by the sessions. -/
theorem of_offTiles {u : State} (e : u.offTiles = s.offTiles) : EventsTold s0 u := by
  have ses (x : SessId) : u.ses x = s.ses x := (congrArg (State.ses · x) e :)
  refine ⟨(congrArg State.rgns e :).trans h.rgns, ?_, fun x => ses x ▸ h.ses x⟩
  rw [show u.out = s.out from (congrArg State.out e :)]
  exact h.sent

theorem sampleN (i : Fin 64) (c : Option Nat) (n : Nat) : EventsTold s0 (s.sampleN t i c n) :=
  h.ite (.update (.foldl (fun s _ => .update (.refl s)) _ h))

theorem pmcAdvance (i : Fin 64) (n : Nat) (c : Option Nat) : EventsTold s0 (s.pmcAdvance t i n c) := by
  have counted : EventsTold s0 (s.modPmc t fun p => p.add i n) := h.update
  exact .sampleN (.ite (counted.raise ..) counted) ..

theorem pmc (ev : Nat) (c : Option Nat) (n : Nat) : EventsTold s0 (s.pmc t ev c n) := by
  unfold State.pmc
  refine h.ite (.foldl (fun s i => ?_) _ h.update)
  exact .ite (.ite (.ite (.refl s) (.pmcAdvance (.update (.refl s)) ..)) (.pmcAdvance (.refl s) ..)) (.refl s)

theorem fetchPage (page : Nat) : EventsTold s0 (s.fetchPage t page) := by
  unfold State.fetchPage
  refine h.ite (.foldl (fun s j => .of_offTiles (.refl s) (by simp)) _ (.pmc ?_ ..))
  exact h.of_offTiles rfl

theorem wantNode (key : Nat) : EventsTold s0 (s.wantNode t key) := by
  unfold State.wantNode
  exact h.ite (.ite (h.ite (h.of_offTiles (by simp))) (h.fetchPage _))

theorem wantCtr (slot : Nat) : EventsTold s0 (s.wantCtr t slot) := by
  unfold State.wantCtr
  refine h.ite (.foldl (fun s k => .wantNode (.refl s) k) _ ?_)
  have counted : EventsTold s0 (((s.modSec t fun a => { a with fetching := slot :: a.fetching }).secCnt t 6).pmc t 0x0B) :=
    .pmc (h.of_offTiles (by simp)) ..
  exact (counted.of_offTiles (by simp)).ite (counted.fetchPage _)

theorem linkRead (id i : Nat) (cwa : BitVec 34) (sub : Nat) (token : Option Word) : EventsTold s0 (s.linkRead t id i cwa sub token) := by
  unfold State.linkRead
  split
  · exact h
  · next c _ =>
    have wanted := h.wantCtr (t := t) (s.slotAt t (c.line i))
    generalize s.wantCtr t (s.slotAt t (c.line i)) = u at wanted ⊢
    refine wanted.of_offTiles ?_
    dsimp only
    split
    · rfl
    · simp

/-- A line that is neither written over nor fixed goes by what its lookup has found. -/
theorem serveLine (id i : Nat) : EventsTold s0 (s.serveLine t id i) := by
  unfold State.serveLine
  split
  · exact h
  · next c _ =>
    refine h.ite (.ite (h.of_offTiles ?_) ?_)
    · rw [State.give_offTiles, State.stage_offTiles, State.setSpan_offTiles]
      split <;> simp
    · split
      · exact (h.pmc (t := t) 0x01 none 1).of_offTiles (by simp)
      · extract_lets old
        split
        · exact h
        · refine .ite (h.of_offTiles (by simp)) ?_
          split
          next found token u e =>
          have looked := s.lookup_offTiles t (c.line i) (c.tokenAt i) old (c.missed.contains i)
          rw [e] at looked
          extract_lets u1 u2
          have counted : EventsTold s0 u2 := h.of_offTiles (by simp [u2, u1, looked])
          clear_value u2
          split
          · refine .ite (.of_offTiles (.ite (counted.pmc ..) (.ite (counted.pmc ..) counted)) (State.give_offTiles ..)) ?_
            exact counted.of_offTiles (by simp)
          · exact .linkRead (.ite (counted.of_offTiles (State.modAdm_offTiles ..)) counted) ..
          · exact .of_offTiles (.fetchPage (.ite (counted.of_offTiles (State.modAdm_offTiles ..)) counted) _)
              (State.modCell_offTiles ..)

theorem serveCell (id : Nat) : EventsTold s0 (s.serveCell t id) := by
  unfold State.serveCell
  split
  · exact h
  · exact .ite (h.ite (h.of_offTiles rfl)) (.foldl (fun s i => .serveLine (.refl s) id i) _ h)

theorem serveWaiting : EventsTold s0 (s.serveWaiting t) :=
  h.ite (.foldl (fun s (e : Nat × Cell) => .serveCell (.refl s) e.1) _ h)

theorem endCell (id : Nat) : EventsTold s0 (s.endCell t id) :=
  .serveWaiting (h.of_offTiles (by simp))

end EventsTold

end Sys2Proof.Machine
end

section
/-! PROOFS. The end of a session and of a link: `EndOfASession`, `LinkStatesAndTheirSessions` (R91, R92, R111, R120, R427). -/

namespace Sys2Proof

theorem Tab.find_del {α : Type} (t : Tab α) (k : Nat) : Tab.find (Tab.del k t) k = none := by
  induction t with
  | nil => rfl
  | cons e t ih =>
    by_cases h : e.1 = k
    · simpa [Tab.del, h] using ih
    · simpa [Tab.del, Tab.find, h, Ne.symm h] using ih

namespace Machine

variable {s : State} {x : SessId}

/-! ### The parts of a session's end (R91, R92, R120) -/

/-- What the end of a session for a cause leaves of it: its place, its numbers, and an enrollment that goes on. -/
def Sess.ended (cause : BitVec 3) (S : Sess) : Sess :=
  { st := .closing, port := S.port, link := S.link, v1 := S.v1, steward := S.steward, lastEnd := cause, epoch := S.epoch
    mac := S.mac, sci := S.sci, exch := S.exch, fin := S.fin, finAck := S.finAck, ka := S.ka, dseq := S.dseq, e := S.e
    acked := S.acked, hi := S.hi, pcp := S.pcp, txAt := S.txAt, rxAt := S.rxAt, rtoAt := S.rtoAt }

/-- The session's cells end on every tile that is in no fault reset and no replay. -/
def State.endCells (s : State) (x : SessId) : State :=
  (List.finRange 8).foldl (fun s t =>
    if (s.tile t).ctl.st = .faultReset ∨ (s.tile t).ctl.st = .replay then s
    else (s.queue t x).foldl (fun s id => s.endCell t id) s) s

/-- The lease on a region breaks where the session holds it. -/
def State.breakOwn (x : SessId) (s : State) (r : RegionId) : State :=
  if (s.rgn r).held ∧ (s.rgn r).holder = x then s.breakLease r 2 else s

/-- The state in which the cells of an ended session have ended. -/
def State.cellsEnded (s : State) (x : SessId) (cause : BitVec 3) : State := ((s.modSes x (Sess.ended cause)).voidArms x).endCells x

/-- The state in which its leases have broken too, and SES_END occurs. -/
def State.leasesBroken (s : State) (x : SessId) (cause : BitVec 3) : State :=
  (List.finRange 16).foldl (State.breakOwn x) (s.cellsEnded x cause)

theorem State.endSession_live (hx : (s.ses x).st = .live) (cause : BitVec 3) : s.endSession x cause =
    (s.leasesBroken x cause).raise 13 (fld 0 x.val ||| fld 8 cause.toNat ||| fld 16 (s.ses x).epoch.toNat) := if_pos hx

theorem State.endSession_notLive (hx : (s.ses x).st ≠ .live) (cause : BitVec 3) : s.endSession x cause = s := if_neg hx

/-! ### Leases of the session (R120) -/

/-- Leases that break change the regions alone. -/
theorem State.foldl_breakOwn_eq (l : List RegionId) : ∃ rgns, l.foldl (State.breakOwn x) s = { s with rgns } := by
  induction l generalizing s with
  | nil => exact ⟨s.rgns, rfl⟩
  | cons r l ih =>
    have own : ∃ rgns, State.breakOwn x s r = { s with rgns } := by
      unfold State.breakOwn
      split <;> exact ⟨_, rfl⟩
    obtain ⟨_, h⟩ := own
    rw [List.foldl_cons, h]
    exact ih

theorem State.breakOwn_rgn_other {q r : RegionId} (hq : q ≠ r) : (State.breakOwn x s r).rgn q = s.rgn q := by
  unfold State.breakOwn State.breakLease
  split <;> simp [hq]

/-- A lease that is to be resolved stays so. -/
theorem State.foldl_breakOwn_resolving {q : RegionId} {c : BitVec 2} (h : (s.rgn q).resolving = some c) (l : List RegionId) :
    ((l.foldl (State.breakOwn x) s).rgn q).resolving = some c := by
  induction l generalizing s with
  | nil => exact h
  | cons r l ih =>
    refine ih ?_
    by_cases hq : q = r
    · subst hq
      unfold State.breakOwn State.breakLease
      split <;> simp [h]
    · rwa [State.breakOwn_rgn_other hq]

theorem State.foldl_breakOwn_held {q : RegionId} (hh : (s.rgn q).held = true) (hx : (s.rgn q).holder = x)
    (hr : (s.rgn q).resolving = none) {l : List RegionId} (hl : q ∈ l) :
    ((l.foldl (State.breakOwn x) s).rgn q).resolving = some 2 := by
  induction l generalizing s with
  | nil => cases hl
  | cons r l ih =>
    by_cases hq : q = r
    · subst hq
      refine State.foldl_breakOwn_resolving ?_ l
      simp [State.breakOwn, State.breakLease, hh, hx, hr]
    · have other := State.breakOwn_rgn_other (s := s) (x := x) hq
      exact ih (other ▸ hh) (other ▸ hx) (other ▸ hr) ((List.mem_cons.1 hl).resolve_left hq)

/-! ### What the end of a LIVE session makes of the sessions (R91, R111) -/

theorem EventsTold.rgn {s0 : State} (h : EventsTold s0 s) (r : RegionId) : s.rgn r = s0.rgn r := by
  rw [State.rgn, h.rgns, State.rgn]

/-- Nor do the sessions see the regions. -/
theorem EventsTold.with_rgns {s0 : State} (h : EventsTold s0 s) (rgns : Tab Region) :
    EventsTold { s0 with rgns } { s with rgns } := ⟨rfl, h.sent, h.ses⟩

theorem EventsTold.endCells {s0 : State} (h : EventsTold s0 s) : EventsTold s0 (s.endCells x) :=
  .foldl (fun s _ => .ite (.refl s) (.foldl (fun s id => .endCell (.refl s) id) _ (.refl s))) _ h

theorem State.cellsEnded_told (s : State) (x : SessId) (cause : BitVec 3) :
    EventsTold (s.modSes x (Sess.ended cause)) (s.cellsEnded x cause) :=
  .endCells (.of_offTiles (.refl _) rfl)

section
variable (hx : (s.ses x).st = .live) (cause : BitVec 3)
include hx

/-- Once the cells have ended and the leases have broken, the end of a session is the occurrence of an event. -/
theorem State.endSession_told : ∃ v rgns, EventsTold (s.modSes x (Sess.ended cause)) v ∧
    (List.finRange 16).foldl (State.breakOwn x) v = { v with rgns } ∧ EventsTold { v with rgns } (s.endSession x cause) := by
  obtain ⟨rgns, h⟩ := State.foldl_breakOwn_eq (s := s.cellsEnded x cause) (x := x) (List.finRange 16)
  refine ⟨s.cellsEnded x cause, rgns, s.cellsEnded_told x cause, h, ?_⟩
  rw [State.endSession_live hx, State.leasesBroken]
  exact h ▸ EventsTold.raise (.refl _) 13 _ true _

theorem State.endSession_ses_told (y : SessId) :
    ((s.modSes x (Sess.ended cause)).ses y).Told ((s.endSession x cause).ses y) := by
  obtain ⟨v, rgns, work, -, told⟩ := State.endSession_told hx cause
  exact (work.ses y).trans (told.ses y)

theorem State.endSession_ses : (s.endSession x cause).ses x = (s.ses x).ended cause := by
  have quiet := (State.endSession_ses_told hx cause x).quiet
  rw [State.ses_modSes, if_pos rfl] at quiet
  exact quiet (by simp [Sess.ended])

theorem State.endSession_ses_other {y : SessId} (hy : y ≠ x) : (s.ses y).Told ((s.endSession x cause).ses y) := by
  have told := State.endSession_ses_told hx cause y
  rwa [State.ses_modSes, if_neg hy] at told

theorem State.endSession_sent :
    ∃ l, (s.endSession x cause).out = l ++ s.out ∧ ∀ o ∈ l, o.frame.hdr.opcode = opEvent := by
  obtain ⟨v, rgns, work, -, told⟩ := State.endSession_told hx cause
  exact ((work.with_rgns rgns).trans told).sent

theorem State.endSession_lease {r : RegionId} (hh : (s.rgn r).held = true) (ho : (s.rgn r).holder = x)
    (hr : (s.rgn r).resolving = none) : ((s.endSession x cause).rgn r).resolving = some 2 := by
  obtain ⟨v, rgns, work, broken, told⟩ := State.endSession_told hx cause
  have before : v.rgn r = s.rgn r := work.rgn r
  have after : (s.endSession x cause).rgn r = ({ v with rgns } : State).rgn r := told.rgn r
  rw [after, ← broken]
  exact State.foldl_breakOwn_held (before ▸ hh) (before ▸ ho) (before ▸ hr) (List.mem_finRange r)

theorem State.endSession_tiles : (s.endSession x cause).tiles = (s.cellsEnded x cause).tiles := by
  obtain ⟨rgns, h⟩ := State.foldl_breakOwn_eq (s := s.cellsEnded x cause) (x := x) (List.finRange 16)
  rw [State.endSession_live hx, State.raise_tiles, State.leasesBroken, h]

end

/-! ### The cells of the session (R92, R111; log 149) -/

section
variable {t : TileId} {id : Nat}

/-- A change of a tile's intake that keeps its cells. -/
theorem State.cell?_modAdm {f : Adm → Adm} (hf : (f (s.tile t).adm).cells = (s.tile t).adm.cells) :
    (s.modAdm t f).cell? t id = s.cell? t id := by
  rw [State.cell?, State.tile_modAdm, if_pos rfl, hf, State.cell?]

theorem State.freeCell_cell? (y : SessId) : (s.freeCell t y id).cell? t id = none := by
  rw [State.cell?, State.freeCell, State.tile_modAdm, if_pos rfl]
  exact Tab.find_del ..

theorem State.release_cell? : (s.release t id).cell? t id = none := by
  unfold State.release
  split
  · assumption
  · exact State.freeCell_cell? ..

/-- What a cell that is freed gives back beside its lines' frames. -/
theorem State.release_adm {c : Cell} (h : s.cell? t id = some c) : ((s.release t id).tile t).adm =
    { (s.tile t).adm with
      cbFree := (s.tile t).adm.cbFree + c.cbuf, stFree := (s.tile t).adm.stFree + c.extra
      cells := Tab.del id (s.tile t).adm.cells
      queues := Tab.upd [] (s.tile t).adm.queues c.sess.val fun q => q.filter fun i => decide (i ≠ id) } := by
  simp [State.release, h, State.freeCell]

/-- A claimed part's frames and tokens go back. -/
theorem State.unclaim_eq {c : Cell} (h : s.cell? t id = some c) (hc : c.st = .claimed) : s.unclaim t id =
    (s.modAdm t fun a => { a with
      level := min a.depth (a.level + c.wtok)
      stFree := a.stFree + (c.took.filter fun b => !b).length
      cbFree := a.cbFree + (c.took.filter fun b => b).length }).release t id := by
  rw [State.unclaim, h]
  exact if_pos hc

theorem State.endPart_claimed {c : Cell} (h : s.cell? t id = some c) (hc : c.st = .claimed) :
    s.endPart t id = if s.armComes t c.sess c.seq then s else s.unclaim t id := by
  rw [State.endPart, h]
  exact if_pos hc

theorem State.endPart_armed {c : Cell} (h : s.cell? t id = some c) (hc : c.st ≠ .claimed) : s.endPart t id =
    if c.n = 0 then s.release t id else if c.finishes then s else (s.abortCell t id c).release t id := by
  rw [State.endPart, h]
  exact if_neg hc

end

/-! ### The end of a cell leaves what is staged (R111, R131) -/

section
variable (s) (t : TileId)

theorem State.modAdm_staged {f : Adm → Adm} (hf : ∀ a, (f a).staged = a.staged) :
    ((s.modAdm t f).tile t).adm.staged = (s.tile t).adm.staged := by
  rw [State.tile_modAdm, if_pos rfl]
  exact hf _

theorem State.modCell_staged (id : Nat) (f : Cell → Cell) : ((s.modCell t id f).tile t).adm.staged = (s.tile t).adm.staged :=
  s.modAdm_staged t fun a => by split <;> rfl

theorem State.release_staged (id : Nat) : ((s.release t id).tile t).adm.staged = (s.tile t).adm.staged := by
  cases h : s.cell? t id with
  | none => rw [State.release, h]
  | some c => rw [State.release_adm h]

theorem State.unclaim_staged (id : Nat) : ((s.unclaim t id).tile t).adm.staged = (s.tile t).adm.staged := by
  unfold State.unclaim
  split
  · rfl
  · split
    · rw [State.release_staged, State.modAdm_staged]
      exact fun _ => rfl
    · rfl

theorem State.giveBack_staged (id i : Nat) : ((s.giveBack t id i).tile t).adm.staged = (s.tile t).adm.staged :=
  s.modAdm_staged t fun _ => (apply_ite Adm.staged _ _ _).trans (ite_self _)

theorem State.rechain_staged (m : Nat × Nat) : ((s.rechain t m).tile t).adm.staged = (s.tile t).adm.staged := by
  refine List.foldlRecOn (motive := fun e : State × Option (Nat × Nat) => (e.1.tile t).adm.staged = (s.tile t).adm.staged)
    _ _ rfl fun e he q _ => ?_
  split
  · exact he
  · split
    · exact (State.modCell_staged ..).trans he
    · exact (State.modAdm_staged _ t fun _ => by rfl).trans ((State.modCell_staged ..).trans he)

theorem State.abortCell_staged (id : Nat) (c : Cell) : ((s.abortCell t id c).tile t).adm.staged = (s.tile t).adm.staged := by
  have lines : ∀ u : State, (u.tile t).adm.staged = (s.tile t).adm.staged →
      ((u.dropFetches t fun f => decide (f.owner = .part id)).tile t).adm.staged = (s.tile t).adm.staged := fun u h => by
    rw [State.dropFetches, State.modAdm_staged _ t (fun _ => by rfl), State.tile_modSch, if_pos rfl]
    exact h
  refine lines _ (List.foldlRecOn (motive := fun u : State => (u.tile t).adm.staged = (s.tile t).adm.staged)
    _ _ rfl fun u hu i _ => ?_)
  split
  · exact hu
  · refine (State.modAdm_staged _ t fun _ => by rfl).trans ((State.rechain_staged ..).trans ?_)
    split
    · exact (u.giveBack_staged ..).trans hu
    · exact hu

theorem State.endPart_staged (id : Nat) : ((s.endPart t id).tile t).adm.staged = (s.tile t).adm.staged := by
  unfold State.endPart
  split
  · rfl
  · next c _ =>
    split
    · split
      · rfl
      · exact s.unclaim_staged t id
    · split
      · exact s.release_staged t id
      · split
        · rfl
        · exact (State.release_staged ..).trans (s.abortCell_staged t id c)

end

/-- Settles O23: the session's own record, what the others and the regions see, then the cells by their state. -/
theorem endOfASession : Obligations.EndOfASession := by
  intro s x c
  refine ⟨fun hx => State.endSession_notLive hx c, fun hx => ?_, fun u id d hd => ?_⟩
  · intro t
    have own : t.ses x = (s.ses x).ended c := State.endSession_ses hx c
    have tiles : t.tiles = (s.cellsEnded x c).tiles := State.endSession_tiles hx c
    rw [tiles, own]
    refine ⟨rfl, rfl, rfl, rfl, rfl, rfl, rfl, rfl, rfl, rfl, rfl, fun y hy => ?_, fun r => State.endSession_lease hx c,
      State.endSession_sent hx c, rfl⟩
    have told : (s.ses y).Told (t.ses y) := State.endSession_ses_other hx c hy
    exact ⟨told.st, told.same (f := Sess.e), told.same (f := Sess.reqs)⟩
  · intro v back
    refine ⟨s.endPart_staged u id, fun hc ha => ?_, fun hc ha => ?_, fun hc hn hf => ?_, fun hc hf => ?_⟩
    · have freed : v = s.unclaim u id := (State.endPart_claimed hd hc).trans (if_neg (Bool.eq_false_iff.1 ha))
      rw [freed, State.unclaim_eq hd hc]
      refine ⟨State.release_cell?, ?_⟩
      rw [State.release_adm ((State.cell?_modAdm (by rfl)).trans hd)]
      simp [back]
    · exact (State.endPart_claimed hd hc).trans (if_pos ha)
    · exact (State.endPart_armed hd hc).trans ((if_neg hn).trans (if_pos hf))
    · have ends : v = _ := State.endPart_armed hd hc
      rw [ends]
      split
      · exact State.release_cell?
      · next hn =>
        rw [if_neg (by simpa [hn] using hf)]
        exact State.release_cell?

/-! ### A link that leaves UP (R91, R427) -/

section
variable {p : PortId} {j : LinkId} {y : SessId}

/-- Session `x` ends where it is bound to the link. -/
def State.endBound (p : PortId) (j : LinkId) (s : State) (x : SessId) : State :=
  if (s.ses x).port = p ∧ (s.ses x).link = j then s.endSession x 3 else s

theorem State.endBound_ses_other (hy : y ≠ x) : (s.ses y).Told ((State.endBound p j s x).ses y) := by
  unfold State.endBound
  split
  · by_cases hx : (s.ses x).st = .live
    · exact State.endSession_ses_other hx 3 hy
    · rw [State.endSession_notLive hx]
      exact .refl _
  · exact .refl _

/-- A session that is over is not ended again. -/
theorem State.endBound_ses_over (hy : (s.ses y).st ≠ .live) : (State.endBound p j s x).ses y = s.ses y := by
  by_cases h : y = x
  · subst h
    rw [State.endBound, State.endSession_notLive hy, ite_self]
  · exact (State.endBound_ses_other h).quiet hy

theorem State.endBound_ses_elsewhere (hy : (s.ses y).port ≠ p ∨ (s.ses y).link ≠ j) :
    (s.ses y).Told ((State.endBound p j s x).ses y) := by
  by_cases h : y = x
  · subst h
    rw [State.endBound, if_neg (fun b => hy.elim (· b.1) (· b.2))]
    exact .refl _
  · exact State.endBound_ses_other h

theorem State.foldl_endBound_ses_over (hy : (s.ses y).st ≠ .live) (l : List SessId) :
    (l.foldl (State.endBound p j) s).ses y = s.ses y := by
  induction l generalizing s with
  | nil => rfl
  | cons x l ih =>
    have step := State.endBound_ses_over (p := p) (j := j) (x := x) hy
    exact (ih (step ▸ hy)).trans step

theorem State.foldl_endBound_ses_elsewhere (hy : (s.ses y).port ≠ p ∨ (s.ses y).link ≠ j) (l : List SessId) :
    (s.ses y).Told ((l.foldl (State.endBound p j) s).ses y) := by
  induction l generalizing s with
  | nil => exact .refl _
  | cons x l ih =>
    have step := State.endBound_ses_elsewhere (x := x) hy
    exact step.trans (ih (by rwa [step.port, step.link]))

/-- A LIVE session of the link is ended when its turn comes; until then it is told of the ends of others, and after it nothing. -/
theorem State.foldl_endBound_ses_bound (hx : (s.ses y).st = .live) (hp : (s.ses y).port = p) (hj : (s.ses y).link = j)
    {l : List SessId} (hl : y ∈ l) : ((l.foldl (State.endBound p j) s).ses y).st = .closing ∧
      ((l.foldl (State.endBound p j) s).ses y).lastEnd = 3 := by
  induction l generalizing s with
  | nil => cases hl
  | cons x l ih =>
    by_cases h : y = x
    · subst h
      have step : (State.endBound p j s y).ses y = (s.ses y).ended 3 := by
        rw [State.endBound, if_pos ⟨hp, hj⟩, State.endSession_ses hx]
      rw [List.foldl_cons, State.foldl_endBound_ses_over (by rw [step]; simp [Sess.ended]), step]
      exact ⟨rfl, rfl⟩
    · have step := State.endBound_ses_other (s := s) (p := p) (j := j) h
      exact ih (step.st.trans hx) (step.port.trans hp) (step.link.trans hj) ((List.mem_cons.1 hl).resolve_left h)

end

/-- A link that changes its state: its event occurs, and where it was UP its sessions end. -/
theorem State.setLink_ses {p : PortId} {l : LinkId} {st : LinkSt} (h : s.link p l ≠ st) : ∃ v : State,
    (∀ y, (s.ses y).Told (v.ses y)) ∧
      s.setLink p l st = if s.link p l = .up then (List.finRange 64).foldl (State.endBound p l) v else v := by
  let moved : State := s.modPort p fun q => { q with links := Tab.put .down q.links l.val st }
  have told := EventsTold.raise (.refl moved) (tsrc (portTile p) (22 + p.val % 2)) (fld 0 l.val ||| fld 8 st.code) true
    fun _ => fld 0 l.val ||| fld 8 st.code
  exact ⟨_, told.ses, if_neg h⟩

/-- Settles O47: the port's table of links, then the sessions of the link in their turn. -/
theorem linkStatesAndTheirSessions : Obligations.LinkStatesAndTheirSessions := by
  intro s p l x h
  obtain ⟨v, told, hv⟩ := State.setLink_ses h
  refine ⟨(State.setLink_link ..).trans (if_pos rfl), fun q k hqk => ?_, fun y hu hx hp hl => ?_, fun y hy => ?_⟩
  · by_cases hq : q = p
    · subst hq
      exact (State.setLink_link ..).trans (if_neg fun hk => hqk (by rw [hk]))
    · refine State.link_eq_of_port ?_ k
      rw [State.setLink_port h, State.port_modPort, if_neg hq]
  · rw [hv, if_pos hu]
    exact State.foldl_endBound_ses_bound ((told y).st.trans hx) ((told y).port.trans hp) ((told y).link.trans hl)
      (List.mem_finRange y)
  · rw [hv]
    split
    · next hu =>
      have elsewhere : (v.ses y).port ≠ p ∨ (v.ses y).link ≠ l := by
        rw [(told y).port, (told y).link]
        exact hy.resolve_left (not_not_intro hu)
      exact (State.foldl_endBound_ses_elsewhere elsewhere _).st.trans (told y).st
    · exact (told y).st

end Machine
end Sys2Proof
end

section
/-! PROOFS. Claim results, markers and barriers: `ClaimResultArmsASinglePart`, `MarkersAndBarriers` (R98, R100, R104, R108, R138). -/

namespace Sys2Proof.Machine

variable {s : State} {x : SessId}

/-! ### A claim result that is awaited (R98, R100, R104) -/

/-- Where the result of its claim leaves a part: a part alone is armed by its claim (R100). -/
def Req.claimedAs (q : Req) : Option Short → PartSt
  | some e => .failed e
  | none => if q.parts.length = 1 then .armed else .claimed

/-- A request once tile `src` has answered its claim. -/
def Req.answered (q : Req) (src : TileId) (f : Option Short) : Req :=
  { q with
    st := if q.parts.length = 1 ∧ f = none then .armed else .claiming
    parts := q.parts.map fun p => if p.tile = src then { p with st := q.claimedAs f } else p }

theorem Req.answered_alone {q : Req} (h : q.parts.length = 1) (src : TileId) : q.answered src none =
    { q with st := .armed, parts := q.parts.map fun p => if p.tile = src then { p with st := .armed } else p } := by
  simp [Req.answered, Req.claimedAs, h]

theorem Req.answered_several {q : Req} (h : q.parts.length ≠ 1) (src : TileId) : q.answered src none =
    { q with st := .claiming, parts := q.parts.map fun p => if p.tile = src then { p with st := .claimed } else p } := by
  simp [Req.answered, Req.claimedAs, h]

theorem Req.answered_short (q : Req) (src : TileId) (e : Short) : q.answered src (some e) =
    { q with st := .claiming, parts := q.parts.map fun p => if p.tile = src then { p with st := .failed e } else p } := by
  simp [Req.answered, Req.claimedAs]

/-- Request `q` of a session gives way to `q'`. -/
def State.swapReq (s : State) (x : SessId) (q q' : Req) : State :=
  s.modSes x fun S => { S with reqs := S.reqs.map fun o => if o = q then q' else o }

/-- The result is recorded; where it arms the request, an open marker is sealed; the session goes on. -/
theorem State.msgResult_awaited {src dst : TileId} {seq : Word} {part : Nat} {f : Option Short} {m : Msg} {q : Req}
    (hh : s.hears dst = true) (hx : (s.ses x).st = .live) (hs : Tab.get 0 (s.ses x).stale src.val = 0)
    (hm : s.firstMsg src dst = some m) (hb : m.body = .claimResult x seq part f)
    (hq : (s.ses x).reqs.find? (fun q => decide (q.rq.hdr.seq = seq ∧ q.st = .claiming) &&
      q.parts.any fun p => decide (p.tile = src ∧ p.first = part ∧ p.st = .sent)) = some q) :
    s.msgResult src dst =
      let t := (s.takeMsg src dst).swapReq x q (q.answered src f)
      (if q.parts.length = 1 ∧ f = none then t.sealMarker x (s.ses x).consumed else t).settle x := by
  obtain ⟨_, _, _, _⟩ := m
  cases hb
  have own : (s.takeMsg src dst).ses x = s.ses x := rfl
  simp only [State.msgResult, hm, hh, own, hx, hs, hq]
  cases f <;> simp [State.swapReq, Req.answered, Req.claimedAs]

/-- Settles O26: the request as its one part, one of its parts, or a shortage leaves it. -/
theorem claimResultArmsASinglePart : Obligations.ClaimResultArmsASinglePart := by
  intro src dst x seq part f m q s hp hh hx hs hm hb hq
  rw [exec_claimResult hp, State.msgResult_awaited hh hx hs hm hb hq]
  have goesOn {t u : State} (h : t = u) : (.next (t.settle x) : Out) = .next (u.settle x) := by rw [h]
  refine ⟨fun hf h => ?_, fun hf h => ?_, fun e hf => ?_⟩ <;> subst hf
  · rw [Req.answered_alone h]
    exact goesOn (if_pos ⟨h, rfl⟩)
  · rw [Req.answered_several h]
    exact goesOn (if_neg fun ⟨h1, _⟩ => h h1)
  · rw [Req.answered_short]
    exact goesOn (if_neg fun ⟨_, h2⟩ => nomatch h2)

/-! ### Markers and barriers (R108, R138) -/

theorem State.sealLate_open (hm : (s.ses x).marker.st = 1) (hx : (s.ses x).st = .live) :
    s.sealLate x = ((s.till ((s.ses x).marker.at_ + us 1)).sealMarker x (s.ses x).consumed).flush x :=
  if_pos ⟨hm, hx⟩

/-- The oldest request is an armed BARRIER before which nothing is unsettled, and whose completion has not been formed. -/
theorem State.barrierAck_ready {q : Req} {l : List Req} (hx : (s.ses x).st = .live) (hq : (s.ses x).reqs = q :: l)
    (ho : q.rq.hdr.opcode = opBarrier) (ha : q.st = .armed) (hf : q.fail = none) (hu : (s.ses x).unset = none)
    (hw : (s.ses x).waitQ.any (fun w => decide (w.rseq = some q.rq.hdr.seq)) = false) :
    s.barrierAck x = (s.ack x q.rq stOk).settle x := by
  simp only [State.barrierAck, hq]
  exact if_pos ⟨hx, ho, ha, hf, hu, hw⟩

section
variable (hp : s.powered = true)
include hp

theorem exec_markerSealTimeout : exec (.markerSealTimeout x) s = .next (s.sealLate x) :=
  (State.doIf_enabled hp rfl : execMarkerSealTimeout x s = _)

theorem exec_barrierAck : exec (.barrierAck x) s = .next (s.barrierAck x) :=
  (State.doIf_enabled hp rfl : execBarrierAck x s = _)

end

/-- Settles O27: the open marker, then the BARRIER at the front. -/
theorem markersAndBarriers : Obligations.MarkersAndBarriers := fun _ _ hp hx =>
  ⟨fun hm => (exec_markerSealTimeout hp).trans (congrArg _ (State.sealLate_open hm hx)),
    fun _ _ hq ho ha hf hu hw => (exec_barrierAck hp).trans (congrArg _ (State.barrierAck_ready hx hq ho ha hf hu hw))⟩

end Sys2Proof.Machine
end

section
/-! PROOFS. The engine's instants: `SlotsFramesAndSuperframes` (R105, R113, R211, R218 to R220, R234, R238, R239, R243). -/

namespace Sys2Proof.Machine

variable {s : State} {t : TileId}

/-! ### Slots, gales and boundaries -/

theorem State.slot_inFrame (hrun : (s.tile t).sch.run = true) (hf : (s.tile t).sch.fresh = false) (hk : (s.tile t).sch.k < 64) :
    s.slot t =
      let e := (s.waive t).modSch t fun a => { a with grants := [] }
      ((List.range 8).foldl (fun s c => s.channelSlot t c e) e).modSch t fun a => { a with k := a.k + 1 } :=
  if_pos ⟨hrun, hf, hk⟩

theorem State.galeLong_due (hg : (s.tile t).sch.gale = true) (hd : (s.tile t).sch.galeLongDone = false)
    (hn : 4096 * 1024 ≤ (s.tile t).sch.galeFrames) :
    s.galeLong t = (s.modSch t fun a => { a with galeLongDone := true }).raise (tsrc t 7) (fld 0 (s.tile t).sch.gsf.toNat) :=
  if_pos ⟨hg, hd, hn⟩

/-- The event occurs once in a gale (R243). -/
theorem State.galeLong_done (hd : (s.tile t).sch.galeLongDone = true) : s.galeLong t = s :=
  if_neg fun ⟨_, h, _⟩ => by simp [hd] at h

theorem State.boundaryDue_iff : s.boundaryDue = true ↔ s.meshOn = true ∧ s.coreOn 0 = true ∧ s.clk.refHold = false ∧
    ∀ u ∈ s.fitted, (s.tile u).sch.run = true → (s.tile u).sch.f = 1023 ∧ (s.tile u).sch.k = 64 := by
  have lastSlot (a : Sch) : (!a.run || decide (a.f = 1023 ∧ a.k = 64)) = true ↔ (a.run = true → a.f = 1023 ∧ a.k = 64) := by
    cases a.run <;> simp
  simp only [State.boundaryDue, Bool.and_eq_true, Bool.not_eq_true', List.all_eq_true, lastSlot, and_assoc]

/-! ### The commands -/

section
variable (hp : s.powered = true)
include hp

theorem exec_frameStart (h : s.frameDue t = true) :
    exec (.frameStart t) s = .next ((((s.frame t).walk t).bgWork t).patrol t) :=
  (State.doIf_enabled hp h : execFrameStart t s = _)

theorem exec_slotDecision : exec (.slotDecision t) s = .next (s.slot t) :=
  (State.doIf_enabled hp rfl : execSlotDecision t s = _)

theorem exec_variantLatch (hrun : (s.tile t).sch.run = true) (hf : (s.tile t).sch.fresh = false)
    (h1023 : (s.tile t).sch.f = 1023) (hk : (s.tile t).sch.k = 0) :
    exec (.variantLatch t) s = .next (s.modSch t fun a => { a with next := s.variant t }) :=
  (State.doIf_enabled hp (by simp [hrun, hf, h1023, hk]) : execVariantLatch t s = _)

theorem exec_galeLong : exec (.galeLong t) s = .next (s.galeLong t) :=
  (State.doIf_enabled hp rfl : execGaleLong t s = _)

theorem exec_superframeStart (h : s.boundaryDue = true) : exec .superframeStart s =
    .next ((s.fitted.foldl State.tileBoundary { s with sf := s.sf + 1 }).limitedOccur.gatherCounts) :=
  (State.doIf_enabled hp h : execSuperframeStart s = _)

end

/-- Settles O28, instant by instant. -/
theorem slotsFramesAndSuperframes : Obligations.SlotsFramesAndSuperframes := fun _ _ hp =>
  ⟨exec_frameStart hp,
    fun hrun hf hk => (exec_slotDecision hp).trans (congrArg _ (State.slot_inFrame hrun hf hk)),
    exec_variantLatch hp,
    fun hg hd hn => (exec_galeLong hp).trans (congrArg _ (State.galeLong_due hg hd hn)),
    fun hd => (exec_galeLong hp).trans (congrArg _ (State.galeLong_done hd)),
    fun hm hc hr hu => exec_superframeStart hp (State.boundaryDue_iff.2 ⟨hm, hc, hr, hu⟩)⟩

end Sys2Proof.Machine
end

section
/-! PROOFS. Leases, the steps of their holders and shutdowns: `LeaseBreaksOnce`, `AdminStepsAreJournalled`, `ShutdownsAndLeases`
(R116 to R121, R265 to R269, R283, R291). -/

namespace Sys2Proof.Machine

variable {s : State} {r : RegionId}

/-! ### A lease breaks (R120, R121) -/

theorem State.breakLease_rgn_held {c : BitVec 2} (hh : (s.rgn r).held = true) (hr : (s.rgn r).resolving = none) :
    (s.breakLease r c).rgn r = { s.rgn r with resolving := some c, expiry := none } := by
  simp [State.breakLease, hh, hr]

/-- A lock that is free, or whose lease is broken already, stays as it is. -/
theorem State.breakLease_rgn_stands {c : BitVec 2} (h : (s.rgn r).held = false ∨ (s.rgn r).resolving ≠ none) :
    (s.breakLease r c).rgn r = s.rgn r := by
  have no : ¬((s.rgn r).held = true ∧ (s.rgn r).resolving = none) := fun ⟨hh, hr⟩ => h.elim (by simp [hh]) (· hr)
  simp [State.breakLease, no]

theorem State.breakLease_rgn_other {c : BitVec 2} {q : RegionId} (h : q ≠ r) : (s.breakLease r c).rgn q = s.rgn q := by
  simp [State.breakLease, h]

/-- Settles O38: the region itself by its lock, every other one, and the rest of the state. -/
theorem leaseBreaksOnce : Obligations.LeaseBreaksOnce := fun _ _ _ =>
  ⟨State.breakLease_rgn_held, State.breakLease_rgn_stands, fun _ => State.breakLease_rgn_other, rfl⟩

/-! ### Steps of a lock's holder (R117, R118, R267) -/

/-- The step that writes `w` at offset `o` is journalled, to take effect with the commit of its record. -/
def State.journalled (s : State) (r : RegionId) (o : Nat) (w : Writes) : State :=
  let p := s.stepRecord r w (rgnAddr r o) 0
  (s.modRgn r fun g => { g with
      steps := g.steps ++ [p]
      acts := g.acts ++ [{ id := (s.rgn r).jid, k := (s.rgn r).steps.length, cmd := w.cmd, step := some p, req := none }] }).commit
    (baseJstep r.val (s.rgn r).steps.length) (.jstep p (s.rgn r).jid) [.stepApply r (s.rgn r).steps.length (s.rgn r).jid]

section
variable {o : Nat} {w : Writes} (hh : (s.rgn r).held = true) (hr : (s.rgn r).resolving = none) (hb : s.rgnBusy r = false)
include hh hr hb

/-- The holder of the lock is not refused for want of it (R117): the state of the region decides. -/
theorem State.holderStep_byStatus : s.holderStep r w (rgnAddr r o) = match s.stepStatus r w with
    | some _ => s
    | none => if 16 ≤ (s.rgn r).steps.length then s else s.journalled r o w := by
  have holds : ¬((s.rgn r).held = false ∨ (s.rgn r).holder ≠ (s.rgn r).holder ∨ (s.rgn r).resolving.isSome = true) := by
    simp [hh, hr]
  refine (if_pos ⟨hh, hb⟩).trans ?_
  rw [State.adminStep, if_neg holds]
  cases s.stepStatus r w with
  | some _ => rfl
  | none => exact apply_ite Prod.fst _ _ _

theorem State.holderStep_admitted (hn : (s.rgn r).steps.length < 16) (h : s.stepStatus r w = none) :
    s.holderStep r w (rgnAddr r o) = s.journalled r o w := by
  rw [State.holderStep_byStatus hh hr hb, h]
  exact if_neg (Nat.not_le.2 hn)

theorem State.holderStep_refused {st : Byte} (h : s.stepStatus r w = some st) : s.holderStep r w (rgnAddr r o) = s := by
  rw [State.holderStep_byStatus hh hr hb, h]

end

/-- Settles O35: the twelve commands are one write each, which the state of the region admits or not. -/
theorem adminStepsAreJournalled : Obligations.AdminStepsAreJournalled := by
  intro r v m s hp hh hr hn hb hreach
  have row (o : Nat) (w : Writes) (ho : o = 0 ∨ o = 4 ∨ o = 8) :
      (s.stepStatus r w = none → s.regionStep r o w = .next (s.journalled r o w).settleAll) ∧
        ∀ st, s.stepStatus r w = some st → s.regionStep r o w = .next s.settleAll := by
    rw [State.regionStep, State.doIf_enabled hp (hreach o ho)]
    exact ⟨fun h => by rw [State.holderStep_admitted hh hr hb hn h], fun st h => by rw [State.holderStep_refused hh hr hb h]⟩
  have ctl (w : Writes) := row 8 w (.inr (.inr rfl))
  exact ⟨row 0 _ (.inl rfl), row 4 _ (.inr (.inl rfl)), ctl _, ctl _, ctl _, ctl _, ctl _, ctl _, ctl _, ctl _, ctl _, ctl _⟩

/-! ### Shutdowns that complete (R267 to R269) -/

section
variable (hb : s.rgnBusy r = false)
include hb

theorem State.shutdown_stopping (h : ((s.roDone r).rgn r).st = .stopping) (hq : (s.roDone r).partsIn r false = false) :
    s.shutdown r = (s.roDone r).rgnCommit r [.st .offline] ((s.roDone r).doneActs r [4]) := by
  simp [State.shutdown, hb, h, hq]

section
variable (h : ((s.roDone r).rgn r).st = .zeroizing) (hu : (s.roDone r).unmapped r = true)
include h hu

theorem State.shutdown_disabling (hd : ((s.roDone r).rgn r).disabling = true) : s.shutdown r =
    (s.roDone r).rgnCommit r [.secret false none, .secret true none, .cur false, .st .disabled, .disabling false]
      ((s.roDone r).doneActs r [6]) := by
  simp [State.shutdown, hb, h, hu, hd]

theorem State.shutdown_zeroized (hd : ((s.roDone r).rgn r).disabling = false) : s.shutdown r =
    ((s.roDone r).draw 256).2.rgnCommit r
      [.secret false (some ((s.roDone r).draw 256).1), .secret true none, .cur false, .st .offline]
      (((s.roDone r).draw 256).2.doneActs r [5]) := by
  simp [State.shutdown, hb, h, hu, hd]

end
end

/-! ### The resolution of a broken lease (R121) -/

theorem Region.foldl_upd_st {g h : Region} (e : g.st = h.st) (us : List RgnUpd) :
    (us.foldl Region.upd g).st = (us.foldl Region.upd h).st := by
  induction us generalizing g h with
  | nil => exact e
  | cons u us ih =>
    refine ih ?_
    cases u with
    | st x => rfl
    | secret k v => cases k <;> exact e
    | base _ | size _ | mode _ | disabling _ | pendEn _ | cur _ | stalled _ => exact e

/-- What undoing a step changes depends on no more of the entry than its state; and so does what undoing several changes. -/
theorem Region.undo_of_st {g h : Region} (e : g.st = h.st) (p : Step) : g.undo p = h.undo p := by
  cases g
  cases h
  cases e
  rfl

theorem Region.undoAll_of_st {g h : Region} (e : g.st = h.st) (l : List Step) : g.undoAll l = h.undoAll l := by
  induction l generalizing g h with
  | nil => rfl
  | cons p l ih =>
    simp only [Region.undoAll, Region.undo_of_st e, ih (Region.foldl_upd_st e _)]

/-- The steps of the region's journal count as having run: the resolution of the broken lease alone goes on with them. -/
def State.actsRan (s : State) (r : RegionId) : State :=
  s.modRgn r fun g => { g with acts := g.acts.map fun a => if a.id = g.jid then { a with ran := true } else a }

/-- They keep their numbers and their journals. -/
theorem State.actsRan_any (k : Nat) (id : Word) : ((s.actsRan r).rgn r).acts.any (fun a => decide (a.k = k ∧ a.id = id)) =
    (s.rgn r).acts.any fun a => decide (a.k = k ∧ a.id = id) := by
  simp only [State.actsRan, State.rgn_modRgn, if_true, List.any_map]
  congr 1
  funext a
  simp only [Function.comp]
  split <;> rfl

/-- The idempotent steps of the journal that are not finished, oldest first. -/
def State.dueSteps (s : State) (r : RegionId) : List Nat :=
  (List.range (s.rgn r).steps.length).filter fun k => decide ((s.rgn r).finished ≤ k) &&
    (match (s.rgn r).steps[k]? with | some p => p.idem | none => false)

/-- What undoes the other steps, newest first. -/
def State.undoing (s : State) (r : RegionId) : List RgnUpd :=
  ((s.actsRan r).rgn r).undoAll (((List.range (s.rgn r).steps.length).reverse.filterMap fun k => (s.rgn r).steps[k]?).filter
    fun p => !p.idem)

theorem State.undoing_eq : s.undoing r =
    (s.rgn r).undoAll (((List.range (s.rgn r).steps.length).reverse.filterMap fun k => (s.rgn r).steps[k]?).filter
      fun p => !p.idem) :=
  Region.undoAll_of_st (by simp [State.actsRan]) _

section
variable {c : BitVec 2} (hc : (s.rgn r).resolving = some c) (hb : s.rgnBusy r = false)
  (hw : s.ldg.waits (fun d => decide (d = .resolved r)) = false)
include hc hb hw

theorem State.resolution_notHeldUp : ¬((s.rgn r).resolving.isNone = true ∨ s.rgnBusy r = true ∨
    s.ldg.waits (fun d => decide (d = .resolved r)) = true) := by
  simp [hc, hb, hw]

/-- The first idempotent step that is not finished runs where the region admits it, and else counts as done unless a shutdown or a pass
is still on. -/
theorem State.resolveLease_finishes {k : Nat} {l : List Nat} {p : Step} (hd : s.dueSteps r = k :: l)
    (hp : (s.rgn r).steps[k]? = some p)
    (ha : ((s.actsRan r).rgn r).acts.any (fun a => decide (a.k = k ∧ a.id = (s.rgn r).jid)) = true) :
    s.resolveLease r =
      if ((s.actsRan r).stepStatus r p.writes).isNone then (s.actsRan r).runStep r p.writes [.stepDone r k (s.rgn r).jid]
      else if (s.rgn r).st = .zeroizing ∨ (s.actsRan r).passing r = true then s.actsRan r
      else (s.actsRan r).stepDone r k (s.rgn r).jid := by
  rw [State.actsRan_any] at ha
  unfold State.resolveLease
  rw [if_neg (State.resolution_notHeldUp hc hb hw)]
  dsimp only
  split
  case h_1 k' l' todo =>
    obtain ⟨rfl, rfl⟩ := List.cons.inj (todo.symm.trans hd)
    simp only [hp, ha, if_true]
    rfl
  case h_2 todo => exact absurd (todo.symm.trans hd) (List.cons_ne_nil _ _).symm

/-- With none left the other steps are undone, and the closing of the journal is committed. -/
theorem State.resolveLease_closes (hd : s.dueSteps r = []) : s.resolveLease r =
    (if s.undoing r = [] then s.actsRan r else (s.actsRan r).rgnCommit r (s.undoing r)).headCommit r false [.resolved r] := by
  rw [State.undoing_eq]
  unfold State.resolveLease
  rw [if_neg (State.resolution_notHeldUp hc hb hw)]
  dsimp only
  split
  case h_1 todo => exact absurd (todo.symm.trans hd) (List.cons_ne_nil _ _)
  case h_2 => rfl

end

/-! ### The commands -/

section
variable (hp : s.powered = true)
include hp

theorem exec_regionShutdownComplete : exec (.regionShutdownComplete r) s = .next (s.shutdown r).settleAll :=
  (State.doIf_enabled hp rfl : execRegionShutdownComplete r s = _)

theorem exec_leaseExpiry : exec (.leaseExpiry r) s = .next (s.leaseExpires r) :=
  (State.doIf_enabled hp rfl : execLeaseExpiry r s = _)

theorem exec_leaseBreakResolution : exec (.leaseBreakResolution r) s = .next (s.resolveLease r).settleAll :=
  (State.doIf_enabled hp rfl : execLeaseBreakResolution r s = _)

end

/-- Settles O37: the shutdown by the state it ends, the expiry, then the resolution by what the journal still holds. -/
theorem shutdownsAndLeases : Obligations.ShutdownsAndLeases := by
  intro r s hp hb
  rw [exec_regionShutdownComplete hp, exec_leaseExpiry hp, exec_leaseBreakResolution hp]
  refine ⟨⟨fun h hq => ?_, fun h hu hd => ?_, fun h hu hd => ?_⟩, fun n hn => ?_, fun c hc hw => ⟨fun k l p hd hk ha => ?_, fun hd => ?_⟩⟩
  · rw [State.shutdown_stopping hb h hq]
  · rw [State.shutdown_disabling hb h hu hd]
  · rw [State.shutdown_zeroized hb h hu hd]
    rfl
  · rw [State.leaseExpires, hn]
  · rw [State.resolveLease_finishes hc hb hw hd hk ha]
    refine ⟨fun (h : (s.actsRan r).stepStatus r p.writes = none) => ?_,
      fun (h : (s.actsRan r).stepStatus r p.writes ≠ none) hz (hs : (s.actsRan r).passing r = false) => ?_⟩
    · rw [if_pos (Option.isNone_iff_eq_none.2 h)]
      rfl
    · rw [if_neg (mt Option.isNone_iff_eq_none.1 h), if_neg (by simp [hz, hs])]
      rfl
  · rw [State.resolveLease_closes hc hb hw hd]
    refine ⟨fun (h : s.undoing r = []) => ?_, fun (h : s.undoing r ≠ []) => ?_⟩
    · rw [if_pos h]
      rfl
    · rw [if_neg h]
      rfl

end Sys2Proof.Machine
end

section
/-! PROOFS. Steps that become overdue and reads that complete: `OverdueStepsAndCompletedReads` (R146, R163, R190, R193, R200, R217, R229,
R285). -/

namespace Sys2Proof.Machine

variable {s : State} {t : TileId} {id : Nat} {f : Fetch}

/-! ### A codeword read that is under way (R146, R190) -/

/-- A failed read is tried once more: a first attempt, and a read of a recovery that has an older bucket left (R217). -/
abbrev Fetch.triesAgain (f : Fetch) : Prop :=
  f.stage = .first ∨ (f.owner = .recovery ∧ f.stage = .retry ∧ f.bucket < 15)

/-- The read's die has acknowledged a command (R200). -/
def State.acked (s : State) (t : TileId) (f : Fetch) : State :=
  s.modDie t (cwaChan f.cwa).val (cwaDie f.cwa).val fun x => { x with timeouts := 0 }

/-- The bucket of the next attempt: one older, or the one recorded where the stratum's age is uncertain (R217). -/
def State.retryBucket (s : State) (t : TileId) (f : Fetch) : Nat :=
  let g := s.stratum t (cwaStratum f.cwa)
  if g.uncertain = true ∧ f.owner ≠ .recovery then g.bucket.toNat else min (f.bucket + 1) 15

/-- The failed read is counted and waits for its next attempt. -/
def State.retryLater (s : State) (t : TileId) (id : Nat) (f : Fetch) : State :=
  let v := s.medCcnt t (cwaChan f.cwa).val 4
  v.setFetch t id (some { f with
    stage := .retry, flying := false, since := s.now, ahead := v.foreground t f, bucket := s.retryBucket t f })

/-- The read has failed for good: its codeword is rebuilt, unless the read is itself a rebuild's member (R193). -/
def State.readFails (s : State) (t : TileId) (id : Nat) (f : Fetch) : State := match f.owner with
  | .child _ => s.endRead t id f none
  | _ => s.startRebuild t id f

theorem State.readFails_child {par : Nat} (h : f.owner = .child par) : s.readFails t id f = s.endRead t id f none := by
  rw [State.readFails, h]

theorem State.readFails_other (h : ∀ par, f.owner ≠ .child par) : s.readFails t id f = s.startRebuild t id f := by
  rw [State.readFails]
  split
  case h_1 par ho => exact absurd ho (h par)
  case h_2 => rfl

section
variable (hf : s.fetch? t id = some f)
include hf

section
variable (hfly : f.flying = true) (ho : f.owner ≠ .patrol)
include hfly ho

theorem State.decoded_stored {p : BitVec 2304} (hp : Tab.find ((s.acked t f).medium t).cws f.cwa.toNat = some p) :
    s.decoded t id true = (s.acked t f).endRead t id f (some p) := by
  rw [State.acked] at hp
  rw [State.decoded, hf]
  dsimp only
  rw [if_neg (by simp [hfly]), if_pos rfl, hp]
  exact if_neg ho

theorem State.decoded_failed {ok : Bool} (h : ok = false ∨ Tab.find ((s.acked t f).medium t).cws f.cwa.toNat = none) :
    s.decoded t id ok =
      if f.triesAgain then (s.acked t f).retryLater t id f else (s.acked t f).readFails t id f := by
  have nothing : (if ok then Tab.find ((s.acked t f).medium t).cws f.cwa.toNat else none) = none := by
    obtain rfl | h := h
    · rfl
    · rw [h, ite_self]
  rw [State.acked] at nothing
  rw [State.decoded, hf]
  dsimp only
  rw [if_neg (by simp [hfly]), nothing]
  exact if_neg fun h => ho h.1

end

/-- A rebuild with no read left ends with what was gathered, where that stands its own check (R193). -/
theorem State.rebuilt_gathered {acc : BitVec 2304} {bad : Bool} (h : f.stage = .rebuild 0 acc bad) : s.rebuilt t id =
    s.endRead t id f (if bad = true ∨ s.ownTags t f.cwa acc = false then none else some acc) := by
  rw [State.rebuilt, hf]
  dsimp only
  rw [h]
  simp only [if_true, Bool.or_eq_true, Bool.not_eq_true']

end

/-! ### The commands -/

section
variable (hp : s.powered = true)
include hp

section
/-! The steps of a die; they become overdue as their time passes (log 12). -/

variable {c : ChanId} {d : DieId}

theorem exec_stepOverdue_program {g : Prog} (hg : (s.die t c.val d.val).prog = some g) (hn : g.steps < 12)
    (ho : g.overdue = false) : exec (.stepOverdue t c d false) s =
      .next ((s.till (g.at_ + us 6)).modDie t c.val d.val fun x => { x with prog := some { g with overdue := true } }) := by
  refine (State.doIf_enabled hp rfl : execStepOverdue t c d false s = _).trans ?_
  simp [hg, hn, ho]

/-- With no program under way the step is one of the die's oldest record of the remap area (log 151). -/
theorem exec_stepOverdue_record {h : Change} {r : List Change} (hg : (s.die t c.val d.val).prog = none)
    (hc : (s.die t c.val d.val).changes = h :: r) (hn : h.steps < 12) (ho : h.overdue = false) :
    exec (.stepOverdue t c d false) s =
      .next ((s.till (h.at_ + us 6)).modDie t c.val d.val fun x => { x with changes := { h with overdue := true } :: r }) := by
  refine (State.doIf_enabled hp rfl : execStepOverdue t c d false s = _).trans ?_
  simp [hg, hc, hn, ho]

theorem exec_stepOverdue_erase {n k at_ : Nat} (he : (s.die t c.val d.val).erase = some (n, k, at_, false)) (hk : k < 704) :
    exec (.stepOverdue t c d true) s =
      .next ((s.till (at_ + us 12)).modDie t c.val d.val fun x => { x with erase := some (n, k, at_, true) }) := by
  refine (State.doIf_enabled hp rfl : execStepOverdue t c d true s = _).trans ?_
  simp [he, hk]

end

theorem exec_codewordDecoded {ok : Bool} {v : State} (h : s.decoded t id ok = v) :
    exec (.codewordDecoded t id ok) s = .next (s.after (v.serveWaiting t)) :=
  h ▸ (State.doAll_enabled hp rfl : execCodewordDecoded t id ok s = _)

theorem exec_rebuildComplete {v : State} (h : s.rebuilt t id = v) :
    exec (.rebuildComplete t id) s = .next (s.after (v.serveWaiting t)) :=
  h ▸ (State.doAll_enabled hp rfl : execRebuildComplete t id s = _)

theorem exec_mapFetchComplete {n : Nat} (hn : n < pageLimit) (h : (s.tile t).xlt.fetching.contains n = true) :
    exec (.mapFetchComplete t n) s = .next ((s.mapFetched t n).serveWaiting t) :=
  ((if_neg (Nat.not_le.2 hn)).trans (State.doIf_enabled hp h) : execMapFetchComplete t n s = _)

theorem exec_counterFetchComplete {n : Nat} (hn : n < groupLimit) (h : (s.tile t).sec.fetching.contains n = true) :
    exec (.counterFetchComplete t n) s = .next ((s.ctrFetched t n).serveWaiting t) :=
  ((if_neg (Nat.not_le.2 hn)).trans (State.doIf_enabled hp h) : execCounterFetchComplete t n s = _)

end

/-- Settles O30: a step by what its die holds, a read by whether it decodes and has an attempt left, a fetch as it completes. -/
theorem overdueStepsAndCompletedReads : Obligations.OverdueStepsAndCompletedReads := by
  intro t c d s hp
  refine ⟨fun g => exec_stepOverdue_program hp, fun h r => exec_stepOverdue_record hp, fun n k a => exec_stepOverdue_erase hp,
    fun id f hf ho => ⟨fun hfly => ⟨fun v hv => ?_, fun ok hno => ?_⟩, fun acc bad hs => ?_⟩,
    fun n => exec_mapFetchComplete hp, fun n => exec_counterFetchComplete hp⟩
  · exact exec_codewordDecoded hp (State.decoded_stored hf hfly ho hv)
  · have failed := State.decoded_failed hf hfly ho hno
    refine ⟨fun more => ?_, fun last other => ?_, fun par last child => ?_⟩
    · exact exec_codewordDecoded hp (failed.trans (if_pos more))
    · exact exec_codewordDecoded hp ((failed.trans (if_neg last)).trans (State.readFails_other other))
    · exact exec_codewordDecoded hp ((failed.trans (if_neg last)).trans (State.readFails_child child))
  · exact exec_rebuildComplete hp (State.rebuilt_gathered hf hs)

end Sys2Proof.Machine
end

section
/-! PROOFS. The media in canonical form, and what leaves the stored codewords alone: `ResetMediaAreCanonical`,
`EveryStepKeepsTheMediaCanonical`, `StoredCodewordsStandUnderTheOtherCommands` (R156, R172, R181, R192, R208, R355, R359). -/

namespace Sys2Proof.Machine

/-- Settles O4: the reset state lists no medium. -/
theorem resetMediaAreCanonical : Obligations.ResetMediaAreCanonical := rfl

/-- Settles O5, by what every step keeps (`step_kept`): the media do not depend on the queue. -/
theorem everyStepKeepsTheMediaCanonical : Obligations.EveryStepKeepsTheMediaCanonical :=
  fun s _ hs e => (step_kept e).media (hs : ({ s with pending := s.pending.tail } : State).mediaWf = true)

/-- Settles O60: each of these commands keeps the codewords with no leave to write them (`Kept False`). -/
theorem storedCodewordsStandUnderTheOtherCommands : Obligations.StoredCodewordsStandUnderTheOtherCommands := by
  intro i s t hi e u a
  have kept : Kept False s t := by
    cases i with
    | enroll => exact execEnroll_kept e
    | enrollFinish => exact execEnrollFinish_kept e
    | enrollQueueService => exact execEnrollQueueService_kept e
    | enrollmentComplete => exact execEnrollmentComplete_kept e
    | oldReceiveSaDelete => exact execOldReceiveSaDelete_kept e
    | pendingExchangeExpiry => exact execPendingExchangeExpiry_kept e
    | gapNakResend => exact execGapNakResend_kept e
    | retransmissionTimeout => exact execRetransmissionTimeout_kept e
    | tailKeepaliveSend => exact execTailKeepaliveSend_kept e
    | kaLimitKeepaliveSend => exact execKaLimitKeepaliveSend_kept e
    | keepAliveLost => exact execKeepAliveLost_kept e
    | sessionCloseComplete => exact execSessionCloseComplete_kept e
    | sesKill => exact execSesKill_kept e
    | sesStrgClr => exact execSesStrgClr_kept e
    | credentialDisable => exact execCredentialDisable_kept e
    | credentialEnable => exact execCredentialEnable_kept e
    | claim => exact execClaim_kept e
    | arm => exact execArm_kept e
    | dropRemainder => exact execDropRemainder_kept e
    | rewind => exact execRewind_kept e
    | markerSealTimeout => exact execMarkerSealTimeout_kept e
    | frameStart => exact execFrameStart_kept e
    | galeLong => exact execGaleLong_kept e
    | slotDecision => exact execSlotDecision_kept e
    | stepOverdue => exact execStepOverdue_kept e
    | variantLatch => exact execVariantLatch_kept e
    | superframeStart => exact execSuperframeStart_kept e
    | mapFetchComplete => exact execMapFetchComplete_kept e
    | counterFetchComplete => exact execCounterFetchComplete_kept e
    | mergeComplete => exact execMergeComplete_kept e
    | programFail => exact execProgramFail_kept e
    | eraseFail => exact execEraseFail_kept e
    | eraseBegin => exact execEraseBegin_kept e
    | checkpoint => exact execCheckpoint_kept e
    | dieCommandTimeout => exact execDieCommandTimeout_kept e
    | housekeepingRound => exact execHousekeepingRound_kept e
    | stratumBucketEntry => exact execStratumBucketEntry_kept e
    | surveyComplete => exact execSurveyComplete_kept e
    | rolloverImage => exact execRolloverImage_kept e
    | rekeyPassEnd => exact execRekeyPassEnd_kept e
    | leaseExpiry => exact execLeaseExpiry_kept e
    | evtPendClear => exact execEvtPendClear_kept e
    | evtTrbClear => exact execEvtTrbClear_kept e
    | pmcCounterOverflow => exact execPmcCounterOverflow_kept e
    | pmcSample => exact execPmcSample_kept e
    | clrAll => exact execClrAll_kept e
    | pmcCfgClr => exact execPmcCfgClr_kept e
    | pop => exact execPop_kept e
    | portCntClr => exact execPortCntClr_kept e
    | admCntClr => exact execAdmCntClr_kept e
    | xltCntClr => exact execXltCntClr_kept e
    | medCcntClr => exact execMedCcntClr_kept e
    | medTcntClr => exact execMedTcntClr_kept e
    | schCntClr => exact execSchCntClr_kept e
    | secCntClr => exact execSecCntClr_kept e
    | secEccClr => exact execSecEccClr_kept e
    | cntClr => exact execCntClr_kept e
    | tokenRoll => exact execTokenRoll_kept e
    | maxClr => exact execMaxClr_kept e
    | portEnable => exact execPortEnable_kept e
    | portDisable => exact execPortDisable_kept e
    | portStopComplete => exact execPortStopComplete_kept e
    | portReset => exact execPortReset_kept e
    | linkUp => exact execLinkUp_kept e
    | linkLoss => exact execLinkLoss_kept e
    | drainRecordCommit => exact execDrainRecordCommit_kept e
    | finalRecord => exact execFinalRecord_kept e
    | vaonWarning => exact execVaonWarning_kept e
    | pwrfailRise => exact execPwrfailRise_kept e
    | autoOn => exact execAutoOn_kept e
    | seqEnable => exact execSeqEnable_kept e
    | wait => exact execWait_kept e
    | check => exact execCheck_kept e
    | jump => exact execJump_kept e
    | mark => exact execMark_kept e
    | waitExpiry => exact execWaitExpiry_kept e
    | systemDrainTimeout => exact execSystemDrainTimeout_kept e
    | on => exact execOn_kept e
    | minimumOffTimeExpiry => exact execMinimumOffTimeExpiry_kept e
    | vgpioPrelude => exact execVgpioPrelude_kept e
    | preludeRepeat => exact execPreludeRepeat_kept e
    | warm => exact execWarm_kept e
    | refclkRestored => exact execRefclkRestored_kept e
    | tileStop => exact execTileStop_kept e
    | tileStart => exact execTileStart_kept e
    | ledgerRecall => exact execLedgerRecall_kept e
    | configurationRead => exact execConfigurationRead_kept e
    | mediumInitialisation => exact execMediumInitialisation_kept e
    | engineStart => exact execEngineStart_kept e
    | admissionOpen => exact execAdmissionOpen_kept e
    | ledgerWindowWrite => exact execLedgerWindowWrite_kept e
    | commit => exact execCommit_kept e
    | retry => exact execRetry_kept e
    | thermalStateFall => exact execThermalStateFall_kept e
    | resume => exact execResume_kept e
    | regRead => exact execRegRead_kept e
    | xstatus => exact execXstatus_kept e
    | alertResponse => exact execAlertResponse_kept e
    | smbusStretchTimeout => exact execSmbusStretchTimeout_kept e
    | smbusClockHeldLow => exact execSmbusClockHeldLow_kept e
    | idcode => exact execIdcode_kept e
    | samplePreload => exact execSamplePreload_kept e
    | extest => exact execExtest_kept e
    | clamp => exact execClamp_kept e
    | highz => exact execHighz_kept e
    | dapMem => exact execDapMem_kept e
    | bypass => exact execBypass_kept e
    | tapReset => exact execTapReset_kept e
    | lockDebug => exact execLockDebug_kept e
    | dmaStart => exact execDmaStart_kept e
    | dmaComplete => exact execDmaComplete_kept e
    | microsequencerInternalFault => exact execMicrosequencerInternalFault_kept e
    | onProgrammeBegins => exact execOnProgrammeBegins_kept e
    | _ => exact hi.elim
  rw [kept.cws not_false u]

end Sys2Proof.Machine
end

section
/-! PROOFS. Operands that name what exists, and those that do not: `WellFormedCommandsComplete`, `AbsentPlacesFault` (R156, R158, R274,
R406). -/

namespace Sys2Proof.Machine

section
variable {s : State} {n limit : Nat} {b : Bool} {f : State → State}

/-- A command for a stratum, page or group that exists acts where it is enabled. -/
theorem State.doPlace_present (h : n < limit) : s.doPlace n limit b f = s.doIf b f := if_neg (Nat.not_le.2 h)

/-- One for a place that does not exist faults. -/
theorem State.doPlace_absent (h : limit ≤ n) : s.doPlace n limit b f = .fault (.noSuchPlace n) := if_pos h

end

/-- Settles O7: a command answers a next state at once, but where it names a place, which has to exist. -/
theorem wellFormedCommandsComplete : Obligations.WellFormedCommandsComplete := by
  intro i s hi
  cases i with
  | mapFetchComplete | counterFetchComplete | eraseComplete | eraseBegin | stratumBucketEntry | stratumPad | rolloverImage =>
    unfold exec
    exact ⟨_, State.doPlace_present (of_decide_eq_true hi)⟩
  | _ => exact ⟨_, rfl⟩

/-- Settles O8: the seven commands that name a place, beyond the last stratum, page and group. -/
theorem absentPlacesFault : Obligations.AbsentPlacesFault := by
  intro t n s
  unfold exec
  exact ⟨fun h => ⟨State.doPlace_absent h, State.doPlace_absent h, State.doPlace_absent h, State.doPlace_absent h⟩,
    State.doPlace_absent, fun h => ⟨State.doPlace_absent h, State.doPlace_absent h⟩⟩

end Sys2Proof.Machine
end

section
/-! PROOFS. What a program, an erase, a record and a lost command make of the dies and their medium: `MediumCommands` (R172, R176, R181,
R182, R192, R195 to R197, R200, R207, R208, R215, R229, R337). -/

namespace Sys2Proof.Machine

variable {s : State} {t : TileId} {c d n : Nat}

/-! ### The medium's side of a tile -/

/-- A tile's medium, with the dies, the clock and the counters of its management. -/
def State.mediumSide (s : State) (t : TileId) : Med × Medium := ((s.tile t).med, s.medium t)

theorem State.die_of_mediumSide {v : State} (h : v.mediumSide t = s.mediumSide t) : v.die t c d = s.die t c d :=
  congrArg (fun e : Med × Medium => Tab.get {} e.1.dies (8 * c + d)) h

theorem State.medium_of_mediumSide {v : State} (h : v.mediumSide t = s.mediumSide t) : v.medium t = s.medium t := congrArg Prod.snd h

theorem State.foldl_mediumSide {α : Type} {f : State → α → State} (hf : ∀ s a, (f s a).mediumSide t = s.mediumSide t) (l : List α) :
    (l.foldl f s).mediumSide t = s.mediumSide t := by
  induction l generalizing s with
  | nil => rfl
  | cons a l ih => exact ih.trans (hf s a)

theorem State.modAdm_mediumSide (f : Adm → Adm) : (s.modAdm t f).mediumSide t = s.mediumSide t := by simp [State.mediumSide]

theorem State.modXlt_mediumSide (f : Xlt → Xlt) : (s.modXlt t f).mediumSide t = s.mediumSide t := by simp [State.mediumSide]

theorem State.unpack_mediumSide (l : List (Nat × Nat)) : (s.unpack t l).mediumSide t = s.mediumSide t :=
  State.foldl_mediumSide (fun _ _ => State.modAdm_mediumSide _) l

/-- A page that waits to be bound again leaves the medium's side as it is. -/
theorem State.requeue_mediumSide (j : PageJob) : (s.requeue t j).mediumSide t = s.mediumSide t := by
  obtain ⟨_, content, _, _, _, _⟩ := j
  cases content with
  | log => exact State.unpack_mediumSide _
  | image _ _ roll =>
    cases roll with
    | none => exact State.unpack_mediumSide _
    | some => exact State.modXlt_mediumSide _
  | mapItem =>
    unfold State.requeue
    dsimp only
    split
    · exact State.modXlt_mediumSide _
    · rfl
  | carry | filler | parity => rfl
  | _ => exact State.modXlt_mediumSide _

@[simp] theorem State.die_modDie (f : Die → Die) : (s.modDie t c d f).die t c d = f (s.die t c d) := by
  simp [State.die, State.modDie, Tab.get_upd]

@[simp] theorem State.die_medCcnt (k i m : Nat) : (s.medCcnt t k i m).die t c d = s.die t c d := by
  simp [State.die, State.medCcnt]

/-! ### Programs that complete (R172, R192, R195, R337) -/

theorem State.programmed_page {g : Prog} (hg : (s.die t c d).prog = some g) (hn : g.steps = 12) (hc : g.carried = false) :
    s.programmed t c d = s.progDone t c d g := by
  simp [State.programmed, hg, hn, hc]

theorem State.programmed_noProgram (hg : (s.die t c d).prog = none) :
    s.programmed t c d = if (s.tile t).ctl.draining then s.cairnProgram t c d true else s.applyChange t c d := by
  rw [State.programmed, hg]

/-- The die's oldest record stands in the table and in the remap area; the next ones wait from here on. -/
def State.recorded (s : State) (t : TileId) (c d : Nat) (h : Change) (r : List Change) : State :=
  (s.modDie t c d fun x => { x with recs := h.recs, changes := r.map fun k => { k with at_ := s.now } }).modMedium t fun m =>
    { m with remaps := Tab.put {} m.remaps (8 * c + d) h.recs }

theorem State.die_recorded (h : Change) (r : List Change) : (s.recorded t c d h r).die t c d =
    { s.die t c d with recs := h.recs, changes := r.map fun k => { k with at_ := s.now } } :=
  (congrArg (fun T : Tile => Tab.get {} T.med.dies (8 * c + d)) (State.modMedium_tile ..)).trans (State.die_modDie _)

theorem State.remaps_recorded (h : Change) (r : List Change) :
    Tab.get {} ((s.recorded t c d h r).medium t).remaps (8 * c + d) = h.recs := by
  simp [State.recorded, Tab.get_put]

/-- A record whose steps have all been issued takes effect; the page of a failed position then waits to be bound again. -/
theorem State.applyChange_ready {h : Change} {r : List Change} (hc : (s.die t c d).changes = h :: r) (hn : h.steps = 12) :
    (s.applyChange t c d).mediumSide t = (s.recorded t c d h r).mediumSide t := by
  rw [State.applyChange, hc]
  dsimp only
  rw [if_neg (by omega)]
  split
  · rfl
  · rw [State.modStratum, State.modXlt_mediumSide]
    exact State.foldl_mediumSide (fun _ => State.requeue_mediumSide) _

theorem State.applyChange_waits (h : ∀ h r, (s.die t c d).changes = h :: r → h.steps < 12) : s.applyChange t c d = s := by
  rw [State.applyChange]
  split
  · rfl
  · exact if_pos (h _ _ ‹_›)

/-- The cairn's position on a die is passed, and `k` programs fewer of it are left. -/
def State.cairnOn (s : State) (t : TileId) (c d k : Nat) : State := s.modCtl t fun a => { a with
  cairnPos := Tab.put 0 a.cairnPos (8 * c + d) (Tab.get 0 (s.tile t).ctl.cairnPos (8 * c + d) + 1), cairnLeft := a.cairnLeft - k }

section
variable (hl : (s.tile t).ctl.cairnLeft ≠ 0) (hd : (s.die t c d).recs.lost = false)
  (hp : Tab.get 0 (s.tile t).ctl.cairnPos (8 * c + d) < 256)
include hl hd hp

theorem State.cairnProgram_done : s.cairnProgram t c d true = s.cairnOn t c d 1 := by
  rw [State.cairnProgram]
  dsimp only
  rw [if_neg (by simp [hl, hd, hp]), if_pos rfl]
  rfl

theorem State.cairnProgram_failed : s.cairnProgram t c d false = ((s.cairnOn t c d 0).medCcnt t c 0).modMedium t fun m =>
    let e := (8 * c + d, cairnSlab + Tab.get 0 (s.tile t).ctl.cairnPos (8 * c + d) / 64)
    { m with cairnBad := if m.cairnBad.contains e then m.cairnBad else m.cairnBad ++ [e] } := by
  rw [State.cairnProgram]
  dsimp only
  rw [if_neg (by simp [hl, hd, hp]), if_neg Bool.false_ne_true]
  rfl

end

/-! ### Programs that fail (R183, R196, R197) -/

theorem State.progFail_cairn (hg : (s.die t c d).prog = none) (hr : (s.tile t).ctl.draining = true) :
    s.progFail t c d false = s.cairnProgram t c d false := by
  simp [State.progFail, hg, hr]

/-- The failure is counted, and the die has no program any more. -/
abbrev State.programStops (s : State) (t : TileId) (c d : Nat) : State :=
  (s.medCcnt t c 0).modDie t c d fun x => { x with prog := none }

/-- The replacement of a slab goes to the bad list as a retired slab does. -/
abbrev State.replacementRetired (s : State) (t : TileId) (c d : Nat) (k : Carry) : State :=
  ((s.change t c d fun r => { r.take k.dest with bad := k.dest :: r.bad }).countRetired t c d).retireEnds t c d

/-- Another one is to take its place, and the slab's page is carried over anew. -/
abbrev State.carryAnew (s : State) (t : TileId) (c d : Nat) (k : Carry) : State :=
  ((s.dropFetches t fun f => decide (f.owner = .carry (8 * c + d))).modDie t c d
    fun x => { x with carry := none }).beginCarry t c d k.failed

section
variable {g : Prog} (hg : (s.die t c d).prog = some g) (h0 : 0 < g.steps)
include hg h0

theorem State.progFail_recovered : s.progFail t c d true = ((s.medCcnt t c 0).modDie t c d fun x =>
    { x with prog := some { g with steps := g.steps - 1 } }).countFail t c d (g.stratum % 65536) := by
  rw [State.progFail, hg]
  exact (if_neg h0.ne').trans (if_pos rfl)

theorem State.progFail_page (hc : g.carried = false) : s.progFail t c d false =
    (if g.pages.any fun j => j.gc then (s.programStops t c d).xltCnt t 8 else s.programStops t c d).beginCarry t c d g := by
  rw [State.progFail, hg]
  refine (if_neg h0.ne').trans ((if_neg Bool.false_ne_true).trans ?_)
  dsimp only
  rw [if_neg (Bool.not_eq_true _ ▸ hc)]

theorem State.progFail_carried {k : Carry} (hc : g.carried = true) (hk : (s.die t c d).carry = some k) : s.progFail t c d false =
    let v := (s.programStops t c d).replacementRetired t c d k
    if (v.die t c d).recs.lost then v else v.carryAnew t c d k := by
  have carry : ((s.programStops t c d).die t c d).carry = some k := by rwa [State.programStops, State.die_modDie, State.die_medCcnt]
  rw [State.progFail, hg]
  refine (if_neg h0.ne').trans ((if_neg Bool.false_ne_true).trans ?_)
  dsimp only
  rw [if_pos hc, carry]

end

/-! ### Erases (R181, R182, R196) -/

section
variable {m k a : Nat} {b : Bool} (he : (s.die t c d).erase = some (m, k, a, b))
include he

theorem State.eraseFailed_recovered : s.eraseFailed t c d true = ((s.medCcnt t c 1).modDie t c d fun x =>
    { x with erase := some (m, k - 1, a, b) }).countFail t c d (m % 65536) := by
  rw [State.eraseFailed, he]
  exact if_pos rfl

theorem State.eraseFailed_retires : s.eraseFailed t c d false =
    (((s.medCcnt t c 1).modDie t c d fun x => { x with erase := none }).modStratum t m fun g => { g with
      erased := if g.erased.contains c then g.erased else c :: g.erased
      spared := if g.spared.contains c then g.spared else c :: g.spared }).retire t c d (m % 65536)
        (((s.medCcnt t c 1).die t c d).last.youngest ((s.medCcnt t c 1).die t c d).spares) := by
  rw [State.eraseFailed, he]
  exact if_neg Bool.false_ne_true

end

theorem Tab.find_keep {α : Type} {p : Nat → Bool} {tab : Tab α} {k : Nat} (h : p k = false) : Tab.find (Tab.keep p tab) k = none := by
  induction tab with
  | nil => rfl
  | cons e tab ih =>
    obtain ⟨k', v⟩ := e
    by_cases hk : p k' = true
    · have ne : k ≠ k' := fun e => by simp [← e, h] at hk
      simpa [Tab.keep, hk, Tab.find, ne] using ih
    · simpa [Tab.keep, hk] using ih

/-- Once every channel has had its steps no codeword of the stratum is left. -/
theorem State.eraseDone_cws (hst : (s.stratum t n).st = .pendErase) (ho : (s.tile t).sch.erases.contains n = true)
    (hall : ∀ k < 8, (s.die t k (n / 65536)).recs.lost = false → (s.stratum t n).narrow.map Fin.val ≠ some k →
      (s.stratum t n).erased.contains k = true ∨ ∃ x y, (s.die t k (n / 65536)).erase = some (n, 704, x, y))
    {a : Nat} (ha : a / 32768 = n) : Tab.find ((s.eraseDone t n).medium t).cws a = none := by
  rw [State.eraseDone]
  dsimp only
  rw [if_pos]
  · simp only [State.journal, State.modStratum, State.medTcnt, State.modXlt_medium, State.modSch_medium, apply_ite (State.medium · t),
      State.modMed_medium, ite_self, State.medium_modMedium, if_pos]
    exact Tab.find_keep (by simp [ha])
  · refine ⟨hst, ho, List.all_eq_true.2 fun k hk => ?_⟩
    obtain ⟨hk8, hfit⟩ := List.mem_filter.1 hk
    simp only [Bool.and_eq_true, Bool.not_eq_true', decide_eq_true_eq] at hfit
    obtain h | ⟨x, y, h⟩ := hall k (List.mem_range.1 hk8) hfit.1 hfit.2
    · rw [h, Bool.true_or]
    · simp [h]

/-! ### The commands -/

section
variable (hp : s.powered = true) {c : ChanId} {d : DieId}
include hp

theorem exec_programComplete : exec (.programComplete t c d) s = .next (s.programmed t c.val d.val) :=
  (State.doIf_enabled hp rfl : execProgramComplete t c d s = _)

theorem exec_programFail (r : Bool) : exec (.programFail t c ⟨d, r⟩) s = .next (s.progFail t c.val d.val r) :=
  (State.doIf_enabled hp rfl : execProgramFail t c ⟨d, r⟩ s = _)

theorem exec_eraseFail (r : Bool) : exec (.eraseFail t c ⟨d, r⟩) s = .next (s.eraseFailed t c.val d.val r) :=
  (State.doIf_enabled hp rfl : execEraseFail t c ⟨d, r⟩ s = _)

theorem exec_checkpoint (hr : (s.tile t).sch.run = true) : exec (.checkpoint t) s = .next (s.checkpoint t) :=
  (State.doIf_enabled hp hr : execCheckpoint t s = _)

theorem exec_surveyComplete : exec (.surveyComplete t) s = .next (s.surveyDone t) :=
  (State.doIf_enabled hp rfl : execSurveyComplete t s = _)

section
variable (hn : n < strataLimit)
include hn

theorem exec_eraseBegin : exec (.eraseBegin t n) s = .next (s.eraseStart t n) :=
  ((State.doPlace_present hn).trans (State.doIf_enabled hp rfl) : execEraseBegin t n s = _)

theorem exec_eraseComplete : exec (.eraseComplete t n) s = .next (s.eraseDone t n) :=
  ((State.doPlace_present hn).trans (State.doIf_enabled hp rfl) : execEraseComplete t n s = _)

theorem exec_stratumBucketEntry : exec (.stratumBucketEntry t n) s = .next (s.bucketEntry t n) :=
  ((State.doPlace_present hn).trans (State.doIf_enabled hp rfl) : execStratumBucketEntry t n s = _)

theorem exec_stratumPad : exec (.stratumPad t n) s = .next (s.pad t n) :=
  ((State.doPlace_present hn).trans (State.doIf_enabled hp rfl) : execStratumPad t n s = _)

end

section
variable (ht : s.hasTile t = true) (hm : s.mioOn t = true)
include ht hm

theorem exec_dieCommandTimeout : exec (.dieCommandTimeout t c d) s = .next (s.dieTimeout t c.val d.val) :=
  (State.doIf_enabled hp (by rw [ht, hm]; rfl) : execDieCommandTimeout t c d s = _)

theorem exec_microsequencerInternalFault (hl : (s.die t c.val d.val).recs.lost = false) :
    exec (.microsequencerInternalFault t c d) s = .next (s.loseDie t c.val d.val 1) :=
  (State.doIf_enabled hp (by rw [ht, hm, hl]; rfl) : execMicrosequencerInternalFault t c d s = _)

end

end

/-- Settles O32: each command by what the die has under way, or by the state of the stratum it names. -/
theorem mediumCommands : Obligations.MediumCommands := by
  intro t c d n s hp
  rw [exec_programComplete hp, exec_programFail hp, exec_programFail hp, exec_eraseFail hp, exec_eraseFail hp, exec_surveyComplete hp]
  refine ⟨fun g hg hn => ⟨fun hc => congrArg _ (State.programmed_page hg hn hc), rfl⟩, fun hg => ⟨fun hr => ?_, fun hr hl hd hpos => ?_⟩,
    fun g k hg h0 hc hk => ?_, fun g hg h0 => ⟨congrArg _ (State.progFail_recovered hg h0), fun hc hj => ?_, fun hc hj => ?_⟩,
    fun m k a b he => ⟨congrArg _ (State.eraseFailed_recovered he), congrArg _ (State.eraseFailed_retires he)⟩,
    fun hn => ?_, fun hr => ?_, fun ht hm hl => ?_, fun hu h0 => ?_⟩
  · refine ⟨_, congrArg _ ((State.programmed_noProgram hg).trans (if_neg (by simp [hr]))), fun h r hc hn => ?_, State.applyChange_waits⟩
    have side := State.applyChange_ready hc hn
    rw [State.die_of_mediumSide side, State.medium_of_mediumSide side, State.die_recorded]
    exact ⟨rfl, State.remaps_recorded h r, rfl⟩
  · rw [State.programmed_noProgram hg, if_pos hr, State.cairnProgram_done hl hd hpos, State.progFail_cairn hg hr,
      State.cairnProgram_failed hl hd hpos]
    exact ⟨rfl, rfl⟩
  · rw [State.progFail_carried hg h0 hc hk]
    exact ⟨fun h => by rw [if_pos h], fun h => by rw [if_neg (Bool.eq_false_iff.1 h)]⟩
  · rw [State.progFail_page hg h0 hc, if_neg (Bool.eq_false_iff.1 hj)]
  · rw [State.progFail_page hg h0 hc, if_pos hj]
  · rw [exec_eraseBegin hp hn, exec_eraseComplete hp hn, exec_stratumBucketEntry hp hn, exec_stratumPad hp hn]
    refine ⟨fun hst hf ha he => ?_, fun hst he hall => ⟨rfl, fun a => State.eraseDone_cws hst he hall⟩, fun hst hb hw => ?_,
      fun _ _ _ => rfl⟩
    · rw [State.eraseStart]
      exact congrArg _ (if_pos ⟨hst, Bool.or_eq_false_iff.2 ⟨hf, ha⟩, he⟩)
    · rw [State.bucketEntry]
      exact congrArg _ (if_pos ⟨hst, hb, hw⟩)
  · rw [exec_checkpoint hp hr, State.checkpoint]
    exact ⟨fun h => by rw [h], fun f h hf => by rw [h]; exact congrArg _ (if_pos hf)⟩
  · rw [exec_dieCommandTimeout hp ht hm, exec_microsequencerInternalFault hp ht hm hl, State.dieTimeout]
    refine ⟨fun ha => ?_, rfl⟩
    rw [if_neg (by simp [hl, ha])]
    exact ⟨fun h => congrArg _ (if_neg (Nat.not_le.2 h)), fun h => congrArg _ (if_pos h)⟩
  · rw [State.surveyDone]
    exact congrArg _ (if_pos ⟨hu, h0⟩)

end Sys2Proof.Machine
end

section
/-! PROOFS. Parity, patrol, housekeeping, rollover images and re-key passes: `ParityChannelOfAStratum`,
`PatrolHousekeepingRolloverAndPasses` (R191, R206, R211 to R215, R280, R283, R284, R382 to R384). -/

namespace Sys2Proof.Machine

variable {s : State} {t : TileId}

/-! ### The channels of a stratum (R191) -/

section
variable {n : Nat} (h : s.narrowOf t n = none)
include h

theorem State.parityOf_wide : s.parityOf t n = parityChan n := by
  rw [State.parityOf, h]

theorem State.dataChans_wide : s.dataChans t n = (List.range 8).filter fun c => decide (c ≠ s.parityOf t n) := by
  simp [State.dataChans, h]

end

theorem parityChan_lt (n : Nat) : parityChan n < 8 := Nat.mod_lt _ (by decide)

theorem parityChan_slab {die slab : Nat} (h : slab < 65536) : parityChan (die * 65536 + slab) = (slab + die) % 8 := by
  rw [parityChan]
  omega

/-- 65,536 is a multiple of 8: the die part of a stratum's number adds nothing to its low bits. -/
theorem parityChan_shift (n : Nat) : parityChan n = (n + (n >>> 16)) % 8 := by
  rw [parityChan, Nat.shiftRight_eq_div_pow]
  omega

theorem length_otherChans : ∀ p < 8, ((List.range 8).filter fun c => decide (c ≠ p)).length = 7 := by decide

/-- Settles O34: the formula by arithmetic, the data channels as the others of eight. -/
theorem parityChannelOfAStratum : Obligations.ParityChannelOfAStratum := by
  intro s t die slab hs hn
  dsimp only
  rw [State.dataChans_wide hn, State.parityOf_wide hn]
  exact ⟨parityChan_slab hs, parityChan_shift _, fun c => by simp [List.mem_filter], length_otherChans _ (parityChan_lt _)⟩

/-! ### What a codeword's reads give (R211 to R213) -/

section
variable {cwa : BitVec 34}

theorem State.finding_clean {k : Nat} {next : Recourse} (hk : k < 120) : s.finding t cwa (some k) next = s.medTcnt t 0 := if_pos hk

theorem State.finding_weak {k : Nat} {next : Recourse} (hk : 120 ≤ k) : s.finding t cwa (some k) next =
    ((s.medTcnt t 1).modStratum t (cwaStratum cwa) fun g => { g with
      weak := if g.weak.contains (cwaChan cwa).val then g.weak else (cwaChan cwa).val :: g.weak }).toRefresh t (cwaStratum cwa) :=
  if_neg (Nat.not_lt.2 hk)

theorem State.finding_lostMap (h : (s.stratum t (cwaStratum cwa)).stream = .map ∨ (s.stratum t (cwaStratum cwa)).stream = .counters) :
    s.finding t cwa none .lost = s.mapUnreadable t cwa := if_pos h

theorem State.finding_lostData
    (h : ¬((s.stratum t (cwaStratum cwa)).stream = .map ∨ (s.stratum t (cwaStratum cwa)).stream = .counters)) :
    s.finding t cwa none .lost = s.poisonCw t cwa 0 := if_neg h

/-! ### The calibration reads end (R211, R213, R215) -/

/-- The calibration reads that are on their way are given up. -/
abbrev State.readsDropped (s : State) (t : TileId) : State := s.dropFetches t fun f => decide (f.owner = .patrol)

/-- So are those of a survey, and what its sets corrected is added up. -/
abbrev State.surveyed (s : State) (t : TileId) (sets : List (Option Nat)) : State :=
  (s.readsDropped t).modMed t fun a => { a with psums := addSums a.psums sets }

section
variable {first : Option Nat} {next : Recourse} {sets : List (Option Nat)} (hr : s.patrolled t cwa ≠ [])
include hr

/-- The cases of the reads' end: the stratum is no longer closed; a patrol's codeword; a survey's. -/
theorem State.found_reads : s.found t cwa first next sets =
    if (s.stratum t (cwaStratum cwa)).st ≠ .closed then (s.readsDropped t).passFrom t (cwaStratum cwa + 1)
    else if (s.stratum t (cwaStratum cwa)).uncertain = true then match fewest sets with
      | some k => ((s.surveyed t sets).finding t cwa (some k) next).passOn t (cwaStratum cwa) cwa
      | none => (s.surveyed t sets).rebuildNow t cwa .patrol
    else match first with
      | some k => ((s.readsDropped t).finding t cwa (some k) next).passOn t (cwaStratum cwa) cwa
      | none => s := by
  obtain ⟨e, l, he⟩ := List.exists_cons_of_ne_nil hr
  rw [State.found, he]
  cases hu : (s.stratum t (cwaStratum cwa)).uncertain
  · cases first <;> rfl
  · cases fewest sets <;> rfl

theorem State.found_gone (h : (s.stratum t (cwaStratum cwa)).st ≠ .closed) :
    s.found t cwa first next sets = (s.readsDropped t).passFrom t (cwaStratum cwa + 1) :=
  (State.found_reads hr).trans (if_pos h)

variable (hc : (s.stratum t (cwaStratum cwa)).st = .closed)
include hc

section
variable (hu : (s.stratum t (cwaStratum cwa)).uncertain = false)
include hu

theorem State.found_decoded {k : Nat} (h : first = some k) : s.found t cwa first next sets =
    ((s.readsDropped t).finding t cwa (some k) next).passOn t (cwaStratum cwa) cwa := by
  rw [State.found_reads hr, if_neg (not_not.2 hc), if_neg (Bool.eq_false_iff.1 hu), h]

theorem State.found_undecoded (h : first = none) : s.found t cwa first next sets = s := by
  rw [State.found_reads hr, if_neg (not_not.2 hc), if_neg (Bool.eq_false_iff.1 hu), h]

end

section
variable (hu : (s.stratum t (cwaStratum cwa)).uncertain = true)
include hu

theorem State.found_surveyDecoded {k : Nat} (h : fewest sets = some k) : s.found t cwa first next sets =
    ((s.surveyed t sets).finding t cwa (some k) next).passOn t (cwaStratum cwa) cwa := by
  rw [State.found_reads hr, if_neg (not_not.2 hc), if_pos hu, h]

theorem State.found_surveyUndecoded (h : fewest sets = none) : s.found t cwa first next sets =
    (s.surveyed t sets).rebuildNow t cwa .patrol := by
  rw [State.found_reads hr, if_neg (not_not.2 hc), if_pos hu, h]

end

end

/-! ### The read again and the rebuild have ended (R211 to R213) -/

/-- What they gave has been taken. -/
abbrev State.recourseTaken (s : State) (t : TileId) : State := s.modMed t fun a => { a with pfound := none }

section
variable {next : Recourse} {sets : List (Option Nat)} (hr : s.patrolled t cwa = []) (hf : (s.tile t).med.pfound = some next)
  (hn : (s.tile t).med.pnext = some cwa)
include hr hf hn

theorem State.found_recourse : s.found t cwa none next sets =
    if ((s.recourseTaken t).stratum t (cwaStratum cwa)).st ≠ .closed then (s.recourseTaken t).passFrom t (cwaStratum cwa + 1)
    else ((s.recourseTaken t).finding t cwa none next).passOn t (cwaStratum cwa) cwa := by
  rw [State.found, hr]
  exact if_pos ⟨rfl, hf, hn⟩

theorem State.found_recourseGone (h : ((s.recourseTaken t).stratum t (cwaStratum cwa)).st ≠ .closed) :
    s.found t cwa none next sets = (s.recourseTaken t).passFrom t (cwaStratum cwa + 1) :=
  (State.found_recourse hr hf hn).trans (if_pos h)

theorem State.found_recourseClosed (h : ((s.recourseTaken t).stratum t (cwaStratum cwa)).st = .closed) :
    s.found t cwa none next sets = ((s.recourseTaken t).finding t cwa none next).passOn t (cwaStratum cwa) cwa :=
  (State.found_recourse hr hf hn).trans (if_neg (not_not.2 h))

end

end

/-! ### The housekeeping round (R206, R382 to R384) -/

/-- The rail readings of a round. -/
abbrev State.railsRead (s : State) (t : TileId) (rails : List (BitVec 12)) : State := s.modThm t fun h => { h with
  rails := (List.range 12).foldl (fun (m : Tab (BitVec 12)) i => Tab.put 0 m i (rails.getD i 0)) [] }

/-- The temperature that a valid conversion gives. -/
abbrev State.tempRead (s : State) (t : TileId) (q : Int) : State := s.modThm t fun h => { h with
  temp := q, valid := true, tmax := if h.tmaxSet then max h.tmax q else q, tmaxSet := true, badRun := 0
  hotRun := if s.cfg.tooHot ≤ q then min 255 (h.hotRun + 1) else 0
  last := (some q :: h.last).take 255, valids := (q :: h.valids).take 255 }

section
variable {d : DiodeConv} {rails : List (BitVec 12)} (hl : s.thmLive t = true)
include hl

theorem State.round_invalid {k : BitVec 2} (hd : diodeReads d = .inr k) : s.round t d rails = (s.railsRead t rails).modThm t fun h =>
    { h with valid := false, kind := k, tinv := min 65535 (h.tinv + 1), badRun := min 255 (h.badRun + 1)
             badHold := h.badHold || h.hold, last := (none :: h.last).take 255 } := by
  rw [State.round, if_neg (by simp [hl]), hd]

/-- A valid conversion ages the medium at once, or, in a reset of the tile, adds to what falls due at its end (log 64). -/
theorem State.round_valid {q : Int} (hd : diodeReads d = .inl q) : s.round t d rails =
    let v := (s.railsRead t rails).tempRead t q
    (if (!(s.tile t).ctl.loaded || decide ((s.tile t).ctl.st = .faultReset)) = true
      then v.modMed t fun a => { a with dcDue := a.dcDue + v.weight t q } else v.drift t (v.weight t q)).thmRise t q := by
  rw [State.round, if_neg (by simp [hl]), hd]
  rfl

end

/-! ### The rollover image (R280) -/

section
variable {n : Nat}

/-- The tracts of a counter group. -/
def State.groupTracts (s : State) (t : TileId) (n : Nat) : List Nat := if s.compactAt t (n * 64) = true then [n, n + 1] else [n]

/-- The direct image of a tract of a group, under the counters that the group rolls to. -/
def State.rollJob (s : State) (t : TileId) (n tr : Nat) : PageJob :=
  { stream := .hot
    content := .image tr
      ((List.range 64).filterMap fun i => (Tab.find (s.tile t).adm.staged (tr * 64 + i)).map fun f => (tr * 64 + i, f.ord))
      (some (n, decide (tr = (s.groupTracts t n).getLastD n)))
    cws := s.rollTract t tr (s.rollTo t n), lull := true
    rekey := decide ((s.ctrAt t (n * 64)).epoch ≠ (s.rollTo t n).epoch) }

/-- The lines of the group are being packed, its new counters are known, and its images go to the background. -/
def State.imageFormed (s : State) (t : TileId) (n : Nat) : State :=
  ((s.modAdm t fun a => { a with staged := a.staged.map fun e =>
      if (groupLines (s.compactAt t (n * 64)) n).contains e.1 then (e.1, { e.2 with packing := true }) else e }).modSec t fun a =>
    { a with imaged := Tab.put none a.imaged n (some (s.rollTo t n)) }).modXlt t fun a =>
    { a with bgPages := a.bgPages ++ (s.groupTracts t n).map (s.rollJob t n) }

theorem State.imageFormed_bgPages : ((s.imageFormed t n).tile t).xlt.bgPages =
    (s.tile t).xlt.bgPages ++ (s.groupTracts t n).map (s.rollJob t n) := by
  simp [State.imageFormed]

theorem State.imageFormed_imaged : ((s.imageFormed t n).tile t).sec.imaged =
    Tab.put none (s.tile t).sec.imaged n (some (s.rollTo t n)) := by
  simp [State.imageFormed]

/-- The line's frame, or an older one, is still being packed. -/
def State.framePacked (s : State) (t : TileId) (line : Nat) : Bool := match Tab.find (s.tile t).adm.staged line with
  | some f => f.packing || decide (0 < f.older)
  | none => false

section
variable {r : RegionId} (hlines : ∀ l ∈ groupLines (s.compactAt t (n * 64)) n, s.claimed t l = false ∧ s.pinnedAt t l = false ∧
    (s.resident t l = true ∨ s.placeOf t l = none) ∧
    ∀ f, Tab.find (s.tile t).adm.staged l = some f → f.packing = false ∧ f.older = 0)
  (htracts : ∀ tr ∈ s.groupTracts t n, s.tractDue t tr = false ∧ s.unmapping t tr = false ∧ s.mayChange t (tr / 512) = true ∧
    ∀ f ∈ (s.tile t).xlt.folds, f.tract ≠ tr)

include hlines in
/-- No line of the group is held: by a claim, by an older read, or by a frame of it that is still being packed. -/
theorem State.groupLines_free : (groupLines (s.compactAt t (n * 64)) n).any (s.claimed t) = false ∧
    (groupLines (s.compactAt t (n * 64)) n).any (s.pinnedAt t) = false ∧
    (groupLines (s.compactAt t (n * 64)) n).any (s.framePacked t) = false := by
  refine ⟨List.any_eq_false.2 fun l hl => ?_, List.any_eq_false.2 fun l hl => ?_, List.any_eq_false.2 fun l hl => ?_⟩ <;>
    obtain ⟨hclaim, hpin, -, hframe⟩ := hlines l hl
  · simp [hclaim]
  · simp [hpin]
  · cases hf : Tab.find (s.tile t).adm.staged l with
    | none => simp [State.framePacked, hf]
    | some f => simp [State.framePacked, hf, hframe f hf]

include hlines in
/-- No line of the group is left to be pulled. -/
theorem State.groupLines_pulled : ((groupLines (s.compactAt t (n * 64)) n).any fun l =>
    !s.resident t l && (s.placeOf t l).isSome) = false := by
  refine List.any_eq_false.2 fun l hl => ?_
  obtain ⟨-, -, here | nowhere, -⟩ := hlines l hl
  · simp [here]
  · simp [nowhere]

include htracts in
/-- Nothing else is on its way to a tract of the group. -/
theorem State.groupTracts_free : ((s.groupTracts t n).any fun tr => s.tractDue t tr || s.unmapping t tr ||
    (s.tile t).xlt.folds.any fun f => decide (f.tract = tr)) = false := by
  refine List.any_eq_false.2 fun tr htr => ?_
  obtain ⟨hdue, hmap, -, hfold⟩ := htracts tr htr
  simpa [hdue, hmap] using hfold

include hlines htracts in
/-- A group whose pulls have ended is imaged: nothing holds its lines, nothing else changes its tracts, its counters are at hand. -/
theorem State.rollImage_formed (hpull : (s.tile t).sec.rolling.find? (fun e => decide (e.1 = n)) = some (n, []))
    (hrgn : s.rgnOfLine t (n * 64) = some r) (hlost : s.lostAt t (n * 64) = false) (himg : s.imagedAt t n = false)
    (hpass : s.passing r = true → (s.rgn r).pass = true) (hctr : s.ctrReady t n = true) (hroom : (s.tile t).sec.room = true) :
    s.rollImage t n = s.imageFormed t n := by
  obtain ⟨hclaim, hpin, hframe⟩ := State.groupLines_free hlines
  have hfree := State.groupTracts_free htracts
  have hmay : ((s.groupTracts t n).all fun tr => s.mayChange t (tr / 512)) = true :=
    List.all_eq_true.2 fun tr htr => (htracts tr htr).2.2.1
  have hwait : (s.passing r && !(s.rgn r).pass) = false := by simpa using hpass
  rw [State.groupTracts] at hfree hmay
  rw [State.rollImage, hpull, hrgn]
  dsimp only
  rw [if_neg, if_neg, if_neg]
  · rfl
  · rw [hctr, hroom, hmay]
    decide
  · rw [State.groupLines_pulled hlines]
    decide
  · rw [hlost, himg, hwait, hclaim, hpin, hfree, Bool.or_false]
    exact Bool.eq_false_iff.1 hframe

end

end

/-! ### A re-key pass ends (R283, R284) -/

section
variable {r : RegionId}

/-- The pass is over: the old secret goes, and PASS_END occurs. -/
abbrev State.passOver (s : State) (r : RegionId) (again : Bool) : State :=
  ((s.modRgn r fun g => { g with pass := false, reached := [], lostCmd := 0, stalled := again }).rgnCommit r
    [.secret (!(s.rgn r).cur) none, .stalled again]).raise 19 (fld 0 r.val)

theorem State.passEnds_reached (hp : (s.rgn r).pass = true) (hr : s.passReached r = true) : s.passEnds r =
    let again := s.fitted.any fun u => decide (s.stalledIn u r ≠ [])
    if again = true then (s.passOver r again).beginPass r else s.passOver r again := if_pos ⟨hp, hr⟩

end

/-! ### The commands -/

section
variable (hp : s.powered = true)
include hp

theorem exec_patrolFinding {cwa : BitVec 34} {first : Option Nat} {next : Recourse} {sets : List (Option Nat)} {v : State}
    (h : s.found t cwa first next sets = v) : exec (.patrolFinding t cwa first next sets) s = .next (s.after v) :=
  (State.doAll_enabled hp rfl : execPatrolFinding t cwa first next sets s = _).trans (by rw [h])

theorem exec_housekeepingRound {d : DiodeConv} {rails : List (BitVec 12)} :
    exec (.housekeepingRound t d rails) s = .next (s.round t d rails) :=
  (State.doIf_enabled hp rfl : execHousekeepingRound t d rails s = _)

theorem exec_rolloverImage {n : Nat} (hn : n < groupLimit) : exec (.rolloverImage t n) s = .next (s.rollImage t n) :=
  ((State.doPlace_present hn).trans (State.doIf_enabled hp rfl) : execRolloverImage t n s = _)

theorem exec_rekeyPassEnd {r : RegionId} : exec (.rekeyPassEnd r) s = .next (s.passEnds r) :=
  (State.doIf_enabled hp rfl : execRekeyPassEnd r s = _)

end

/-- Settles O33: the patrol by what has ended and what it gave, a round by its conversion, a group by what holds it, a pass by whether
a group is stalled. -/
theorem patrolHousekeepingRolloverAndPasses : Obligations.PatrolHousekeepingRolloverAndPasses := by
  intro t s hp
  refine ⟨fun cwa first next sets hr => ⟨fun hst => ?_, fun hst hu => ⟨fun k h hk => ?_, fun k h hk => ?_, fun h => ?_⟩,
      fun hst hu => ⟨fun k h => ?_, fun h => ?_⟩⟩,
    fun cwa next sets hr hf hn => ⟨fun hst => ?_, fun hst => ⟨fun e => ?_, fun e => ?_, fun e hm => ?_, fun e hm => ?_⟩⟩,
    fun dc rails hl => ⟨fun k hd => ?_, fun q hd => ⟨fun hload hst => ?_, fun hreset => ?_⟩⟩,
    fun n r hn hpull hrgn hlost himg hpass hlines htracts hctr hroom => ?_, fun r hpass hreach => ⟨fun h => ?_, fun h => ?_⟩⟩
  · exact exec_patrolFinding hp (State.found_gone hr hst)
  · exact exec_patrolFinding hp ((State.found_decoded hr hst hu h).trans (by rw [State.finding_clean hk]))
  · exact exec_patrolFinding hp ((State.found_decoded hr hst hu h).trans (by rw [State.finding_weak hk]))
  · exact exec_patrolFinding hp (State.found_undecoded hr hst hu h)
  · exact exec_patrolFinding hp (State.found_surveyDecoded hr hst hu h)
  · exact exec_patrolFinding hp (State.found_surveyUndecoded hr hst hu h)
  · exact exec_patrolFinding hp (State.found_recourseGone hr hf hn hst)
  · subst e
    exact exec_patrolFinding hp (State.found_recourseClosed hr hf hn hst)
  · subst e
    exact exec_patrolFinding hp (State.found_recourseClosed hr hf hn hst)
  · subst e
    exact exec_patrolFinding hp ((State.found_recourseClosed hr hf hn hst).trans (by rw [State.finding_lostMap hm]))
  · subst e
    exact exec_patrolFinding hp ((State.found_recourseClosed hr hf hn hst).trans (by rw [State.finding_lostData hm]))
  · rw [exec_housekeepingRound hp, State.round_invalid hl hd]
  · rw [exec_housekeepingRound hp, State.round_valid hl hd]
    dsimp only
    rw [if_neg (by simp [hload, hst])]
    rfl
  · rw [exec_housekeepingRound hp, State.round_valid hl hd]
    dsimp only
    rw [if_pos (by simpa using hreset)]
    rfl
  · refine ⟨s.imageFormed t n, (s.groupTracts t n).map (s.rollJob t n), ?_, State.imageFormed_bgPages, List.length_map _,
      fun j hj => ?_, State.imageFormed_imaged⟩
    · rw [exec_rolloverImage hp hn, State.rollImage_formed hlines htracts hpull hrgn hlost himg hpass hctr hroom]
    · obtain ⟨tr, -, rfl⟩ := List.mem_map.1 hj
      rfl
  · rw [exec_rekeyPassEnd hp, State.passEnds_reached hpass hreach]
    exact congrArg _ (if_neg (Bool.eq_false_iff.1 h))
  · rw [exec_rekeyPassEnd hp, State.passEnds_reached hpass hreach]
    exact congrArg _ (if_pos h)

end Sys2Proof.Machine
end

section
/-! PROOFS. The engine at a superframe boundary: `LatchedVariantTakesEffectAtTheBoundary` (R219, R233, R234, R245). -/

namespace Sys2Proof.Machine

variable {s : State} {t u : TileId}

/-! ### The boundary, by what the engine is to do -/

theorem State.boundary_halts (hr : (s.tile t).sch.run = true) (hh : (s.tile t).sch.haltDue = true) :
    s.boundary t = s.modSch t fun a => { a with run := false, haltDue := false, fresh := true, f := 0, k := 0 } :=
  (if_pos hr).trans (if_pos hh)

/-- An engine that goes on counts the switch where there is one, and takes what was latched (R234). -/
theorem State.boundary_goesOn (hr : (s.tile t).sch.run = true) (hh : (s.tile t).sch.haltDue = false) :
    s.boundary t = (if (s.tile t).sch.var = (s.tile t).sch.next then s else s.schCnt t 8).modSch t fun a =>
      { a with var := a.next, fresh := true, f := 0, k := 0 } :=
  (if_pos hr).trans (if_neg (Bool.eq_false_iff.1 hh))

theorem State.boundary_begins (hr : (s.tile t).sch.run = false) (hd : (s.tile t).sch.startDue = true) (hm : s.mayRun t = true) :
    s.boundary t = s.modSch t fun a => { a with
      run := true, startDue := false, haltDue := false, var := s.variant t, next := s.variant t, fresh := true, f := 0, k := 0 } :=
  (if_neg (Bool.eq_false_iff.1 hr)).trans (if_pos ⟨hd, hm⟩)

theorem State.boundary_stays (hr : (s.tile t).sch.run = false) (h : (s.tile t).sch.startDue = false ∨ s.mayRun t = false) :
    s.boundary t = s :=
  (if_neg (Bool.eq_false_iff.1 hr)).trans (if_neg fun ⟨hd, hm⟩ => h.elim (by simp [hd]) (by simp [hm]))

theorem State.tile_modSch_of_ne (f : Sch → Sch) (h : u ≠ t) : (s.modSch t f).tile u = s.tile u :=
  (State.tile_modSch ..).trans (if_neg h)

/-- The counting of a switch touches neither the engine's stand nor what was latched. -/
theorem State.schCnt_sch (i : Nat) :
    ((s.schCnt t i).tile t).sch = { (s.tile t).sch with cnt := Tab.bump (s.tile t).sch.cnt i } := by
  rw [State.schCnt, State.tile_modSch, if_pos rfl]

theorem State.boundary_tile_of_ne (h : u ≠ t) : (s.boundary t).tile u = s.tile u := by
  cases hr : (s.tile t).sch.run with
  | true => cases hh : (s.tile t).sch.haltDue with
    | true => rw [State.boundary_halts hr hh, State.tile_modSch_of_ne _ h]
    | false =>
      rw [State.boundary_goesOn hr hh, State.tile_modSch_of_ne _ h]
      split
      · rfl
      · exact State.tile_modSch_of_ne _ h
  | false => cases hd : (s.tile t).sch.startDue with
    | false => rw [State.boundary_stays hr (.inl hd)]
    | true => cases hm : s.mayRun t with
      | false => rw [State.boundary_stays hr (.inr hm)]
      | true => rw [State.boundary_begins hr hd hm, State.tile_modSch_of_ne _ h]

/-! ### What may run, and in which variant (R233) -/

theorem State.mayRun_iff : s.mayRun t = true ↔ (s.tile t).ctl.loaded = true ∧ (s.tile t).ctl.medInit = true ∧ s.coreOn t = true ∧
    s.sramOn t = true ∧ s.mioOn t = true ∧ s.gated (8 * t.val) = false ∧ s.gated (8 * t.val + 1) = false ∧
    (s.tile t).ctl.st ≠ .stopped ∧ (s.tile t).ctl.st ≠ .out ∧ (s.thmT t).hold = false := by
  simp only [State.mayRun, Bool.and_eq_true, Bool.not_eq_true', decide_eq_true_eq]
  tauto

/-- The variant a thermal state asks for: without a WARM in the image HOT serves its band (R233). -/
def Sch.heatVariant (a : Sch) : ThmSt → BitVec 2
  | .normal | .tooHot => 0
  | .warm => if a.present.getLsbD 1 then 1 else 2
  | .hot => 2

theorem State.variant_lean (hl : (s.tile t).sch.leanReq = true) (hp : (s.tile t).sch.present.getLsbD 3 = true) :
    s.variant t = 3 :=
  if_pos (by rw [hl, hp]; rfl)

theorem State.variant_heat (h : (s.tile t).sch.leanReq = false ∨ (s.tile t).sch.present.getLsbD 3 = false) :
    s.variant t = (s.tile t).sch.heatVariant (s.thmT t).st := by
  have notLean : ((s.tile t).sch.leanReq && (s.tile t).sch.present.getLsbD 3) = false := Bool.and_eq_false_iff.2 h
  rw [State.variant, notLean]
  cases (s.thmT t).st <;> rfl

/-- Settles O29: the engine by what it is to do at the boundary, then what may run and the variant. -/
theorem latchedVariantTakesEffectAtTheBoundary : Obligations.LatchedVariantTakesEffectAtTheBoundary := by
  intro t s
  refine ⟨fun hr hh => ?_, fun hr hh => ?_, fun hr hd hm => ?_, State.boundary_stays, State.mayRun_iff,
    fun _ => State.boundary_tile_of_ne, State.variant_lean, fun h => ?_⟩
  · rw [State.boundary_goesOn hr hh, State.tile_modSch, if_pos rfl]
    split
    · exact ⟨rfl, rfl, rfl, hr⟩
    · rw [State.schCnt_sch]
      exact ⟨rfl, rfl, rfl, hr⟩
  · rw [State.boundary_halts hr hh, State.tile_modSch, if_pos rfl]
  · rw [State.boundary_begins hr hd hm, State.tile_modSch, if_pos rfl]
    exact ⟨rfl, rfl, rfl, rfl⟩
  · rw [State.variant_heat h]
    refine ⟨fun e => ?_, fun e => e.elim (fun e => ?_) fun e => ?_, fun e => ?_⟩ <;> rw [e, Sch.heatVariant]

end Sys2Proof.Machine
end

section
/-! PROOFS. Which region states allow which command of Table 10.2: `AdminCommandsNeedTheirState` (R265, R267 to R269, R283, R291). -/

namespace Sys2Proof.Machine

variable {s : State} {r : RegionId}

theorem State.cmd_cmdWrite {c : Nat} (hc : c < 16) : (s.cmdWrite r c).cmd = c := by
  have low : bit 0 (s.rgn r).compact < 2 := by cases (s.rgn r).compact <;> decide
  simp only [Writes.cmd, State.cmdWrite, BitVec.toNat_ofNat]
  omega

/-- The state of the planned entry admits command `c`, written alone (Table 10.2). -/
def State.cmdAdmits (s : State) (r : RegionId) (c : Nat) : Bool :=
  let g := s.planned r
  match c with
  | 1 => decide ((g.st = .disabled ∧ s.geometryFor r (((s.cmdWrite r 1).upds g).foldl Region.upd g) = true) ∨
      (g.st = .zeroizing ∧ g.disabling = true))
  | 2 => decide (g.st = .readOnly ∨ g.st = .offline ∨ g.st = .stopping)
  | 3 => decide (g.st = .online)
  | 4 => decide (g.st = .online ∨ g.st = .readOnly ∨ (g.st = .stopping ∧ g.pendEn = true))
  | 5 => decide (g.st = .offline)
  | 6 => decide (g.st = .offline ∨ (g.st = .zeroizing ∧ g.disabling = true ∧ g.pendEn = true))
  | 7 => decide (g.st = .online ∨ g.st = .readOnly ∨ g.st = .offline)
  | _ => decide (g.enabled = true ∧ s.lostMeets r = true)

/-- What stands against a command that the state admits: for one that begins a pass (7 to 9), a pass that is on, then a tile that is
read-only (R283, R291). -/
def State.passStatus (s : State) (r : RegionId) (c : Nat) : Option Byte :=
  if 7 ≤ c ∧ c ≤ 9 then
    if s.passPlanned r then some stBusy
    else if s.fitted.any fun u => decide ((s.tile u).med.roCause ≠ 0) then some stReadOnly
    else none
  else none

/-- The status of a command written alone: RANGE in a state that is not one of its own. -/
theorem State.stepStatus_cmdWrite {c : Nat} (h1 : 1 ≤ c) (h9 : c ≤ 9) :
    s.stepStatus r (s.cmdWrite r c) = if s.cmdAdmits r c then s.passStatus r c else some stRange := by
  have noGeometry : ((s.cmdWrite r c).base.isSome || (s.cmdWrite r c).size.isSome) = false := rfl
  have byAdmission (x ok : Bool) (e : ok = s.cmdAdmits r c) : (if (false && x || !ok) = true then some stRange else s.passStatus r c) =
      if s.cmdAdmits r c then s.passStatus r c else some stRange := by
    rw [← e]
    cases ok <;> rfl
  rw [State.stepStatus, State.cmd_cmdWrite (by omega), noGeometry]
  refine byAdmission _ _ ?_
  interval_cases c <;> simp [State.cmdAdmits, Bool.or_assoc, Bool.and_assoc]

/-- A command that begins no pass is admitted or out of range. -/
theorem State.stepStatus_noPass {c : Nat} (h1 : 1 ≤ c) (h6 : c ≤ 6) :
    s.stepStatus r (s.cmdWrite r c) = if s.cmdAdmits r c then none else some stRange := by
  have clear : s.passStatus r c = none := if_neg (by omega)
  rw [State.stepStatus_cmdWrite h1 (by omega), clear]

theorem State.stepStatus_noPass_eq_none {c : Nat} (h1 : 1 ≤ c) (h6 : c ≤ 6) :
    s.stepStatus r (s.cmdWrite r c) = none ↔ s.cmdAdmits r c = true := by
  simp [State.stepStatus_noPass h1 h6]

/-- A command that begins a pass, where the state admits it exactly under `b`. -/
theorem State.stepStatus_pass {c : Nat} {b : Prop} (h7 : 7 ≤ c) (h9 : c ≤ 9) (hb : s.cmdAdmits r c = true ↔ b) :
    (¬b → s.stepStatus r (s.cmdWrite r c) = some stRange) ∧
    (b → s.passPlanned r = true → s.stepStatus r (s.cmdWrite r c) = some stBusy) ∧
    (b → s.passPlanned r = false → (∃ u ∈ s.fitted, (s.tile u).med.roCause ≠ 0) →
      s.stepStatus r (s.cmdWrite r c) = some stReadOnly) ∧
    (b → s.passPlanned r = false → (∀ u ∈ s.fitted, (s.tile u).med.roCause = 0) → s.stepStatus r (s.cmdWrite r c) = none) := by
  have against : s.passStatus r c = if s.passPlanned r then some stBusy
      else if s.fitted.any fun u => decide ((s.tile u).med.roCause ≠ 0) then some stReadOnly else none := if_pos ⟨h7, h9⟩
  rw [State.stepStatus_cmdWrite (by omega) h9, against, ← hb]
  refine ⟨fun h => if_neg h, fun h on => ?_, fun h off ro => ?_, fun h off rw => ?_⟩ <;> rw [if_pos h]
  · exact if_pos on
  · rw [off, if_neg Bool.false_ne_true, if_pos (by simpa using ro)]
  · rw [off, if_neg Bool.false_ne_true, if_neg (by simpa using rw)]

/-- Settles O36: each command by what admits it, a pass by what stands against it too. -/
theorem adminCommandsNeedTheirState : Obligations.AdminCommandsNeedTheirState := by
  intro s r
  have alone {c : Nat} {b : Prop} [Decidable b] (e : s.cmdAdmits r c = decide b) (h1 : 1 ≤ c := by decide)
      (h6 : c ≤ 6 := by decide) : s.stepStatus r (s.cmdWrite r c) = none ↔ b := by
    rw [State.stepStatus_noPass_eq_none h1 h6, e, decide_eq_true_iff]
  have pass {c : Nat} {b : Prop} [Decidable b] (e : s.cmdAdmits r c = decide b) (h7 : 7 ≤ c := by decide)
      (h9 : c ≤ 9 := by decide) := State.stepStatus_pass h7 h9 (e ▸ decide_eq_true_iff)
  exact ⟨alone rfl, alone rfl, alone rfl, alone rfl, alone rfl, alone rfl,
    fun c h1 h6 => (ite_eq_or_eq _ _ _).imp (State.stepStatus_noPass h1 h6).trans (State.stepStatus_noPass h1 h6).trans,
    pass rfl, pass rfl, pass rfl⟩

end Sys2Proof.Machine
end

section
/-! PROOFS. JTAG, the debug access port and the test DMA: `DebugPortAndTestDma` (R293, R406 to R408). -/

namespace Sys2Proof

/-- A table into which the values of `f` at the numbers of a list are put, read. -/
theorem Tab.get_foldl_put {α : Type} [DecidableEq α] (d : α) (f : Nat → α) (l : List Nat) (t : Tab α) (k : Nat) :
    Tab.get d (l.foldl (fun m i => Tab.put d m i (f i)) t) k = if k ∈ l then f k else Tab.get d t k := by
  induction l generalizing t with
  | nil => rfl
  | cons a l ih =>
    rw [List.foldl_cons, ih, Tab.get_put]
    by_cases e : k = a <;> simp [e]

namespace Machine

variable {s : State}

/-! ### The TAP (R406) -/

section
variable (hu : s.tapUp = true)
include hu

/-- The boundary-scan register selected. -/
theorem State.tap_scan {ir : Byte} (h : ir = 0x02 ∨ ir = 0x03) (pins : BitVec 2) : s.tap ir pins =
    { s with free := s.free + 1, dbg := { s.dbg with ir, pins, bsr := s.scanned, dr := s.scanned.setWidth 72
                                                     latch := Config.freeValue 12 s.free } } := by
  rw [State.tap, if_neg (by simp [hu]), if_pos h]
  rfl

/-- The bypass register selected. -/
theorem State.tap_pass {ir : Byte} (h : ¬(ir = 0x02 ∨ ir = 0x03)) (pins : BitVec 2) : s.tap ir pins =
    { s with dbg := { s.dbg with ir, pins, dr := 0 } } := by
  rw [State.tap, if_neg (by simp [hu]), if_neg h]

theorem State.idCode_up : s.idCode = { s with dbg := { s.dbg with
    ir := 0x01, pins := 0
    dr := BitVec.ofNat 72 (1 + 0xF5 * 2 + (s.devReg 0).toNat % 65536 * 2 ^ 12 + s.stepping.toNat * 2 ^ 28) } } := if_pos hu

theorem State.tapClear_up : s.tapClear = { s with dbg := { s.dbg with ir := 0x01, pins := 0 } } := if_pos hu

end

theorem State.tapClear_down (hu : s.tapUp = false) : s.tapClear = s := if_neg (by simp [hu])

/-- A code of no other instruction selects no boundary scan. -/
theorem not_scan_of_undefined {c : Byte} (h : tapCodes.contains c = false) : ¬(c = 0x02 ∨ c = 0x03) := by
  rintro (rfl | rfl) <;> exact absurd h (by decide)

/-! ### DAP_REG (R407) -/

/-- The TAP instruction DAP_REG selected, which frees the pins. -/
def State.dapRegSelected (s : State) : State := { s with dbg := { s.dbg with ir := 0x20, pins := 0 } }

variable {d a : Word}

theorem State.dapRegister_closed (ho : s.dbgOpen = false) (w g : Bool) :
    s.dapRegister d a w g = s.dapRegSelected.dapDone 0 a w smDenied := if_pos ho

section
variable (ho : s.dbgOpen = true)
include ho

theorem State.not_dbgClosed : ¬s.dbgOpen = false := by simp [ho]

theorem State.dapRegister_idle (w : Bool) : s.dapRegister d a w false = s.dapRegSelected :=
  (if_neg (State.not_dbgClosed ho)).trans (if_pos rfl)

variable {acc : Acc} {v : State} (hb : s.clk.smb = none) (hs : acc.stop = none)
include hb hs

/-- With the paths open, a free bridge and nothing against the access, it runs. -/
theorem State.dapRegister_ran {w : Bool} (hv : verdict .dap w a.toNat 1 = .ok)
    (hr : (if w then State.writeAll [] [d] a.toNat s.dapRegSelected else s.dapRegSelected.readOn 0 1 a.toNat {}) = (acc, v)) :
    s.dapRegister d a w true = v.dapDone (if w then d else acc.got.getD 0 0) a w (readStatus acc.uns) := by
  refine (if_neg (State.not_dbgClosed ho)).trans ((if_neg (by decide)).trans ((if_neg (s.bridge_free _ hb)).trans ?_))
  rw [hv]
  dsimp only
  rw [← State.dapRegSelected, hr]
  exact if_neg (by simp [hs])

end

/-! ### DAP_MEM (R293, R407) -/

/-- What DAP_MEM leaves in the debug port: its instruction, the code, and the word with what was addressed. -/
def State.dapMemSays (s : State) (x : BitVec 64) (k : BitVec 4) (t : TileId) (w : Bool) (st : Byte) : State :=
  { s with dbg := { s.dbg with
    ir := 0x21, pins := 0, dapCode := st
    dr := BitVec.ofNat 72 (x.toNat + k.toNat * 2 ^ 64 + t.val * 2 ^ 68 + bit 71 w) } }

/-- The TAP instruction DAP_MEM selected, which frees the pins. -/
def State.dapMemSelected (s : State) : State := { s with dbg := { s.dbg with ir := 0x21, pins := 0 } }

theorem State.denied_outside (dma : Bool) (addr : Nat) :
    (s.denied dma addr).outside = ({ s with dbgDenied := true } : State).outside := State.raise_outside ..

@[simp] theorem State.denied_dbg (dma : Bool) (addr : Nat) : (s.denied dma addr).dbg = s.dbg :=
  (congrArg State.dbg (s.denied_outside dma addr) :)

variable {q : BitVec 64} {k : BitVec 4} {t : TileId}

/-- With DAP_MEM selected already its answer has only the code and the data register to set. -/
theorem State.dapMemSays_selected (hi : s.dbg.ir = 0x21) (hn : s.dbg.pins = 0) (x : BitVec 64) (w : Bool) (st : Byte) :
    s.dapMemSays x k t w st = { s with dbg := { s.dbg with
      dapCode := st, dr := BitVec.ofNat 72 (x.toNat + k.toNat * 2 ^ 64 + t.val * 2 ^ 68 + bit 71 w) } } := by
  rw [State.dapMemSays, ← hi, ← hn]

theorem State.dapMemory_closed (ho : s.dbgOpen = false) (w : Bool) : s.dapMemory q k t w = { s with dbg := { s.dbg with
    ir := 0x21, pins := 0, dapCode := smDenied, dr := BitVec.ofNat 72 (k.toNat * 2 ^ 64 + t.val * 2 ^ 68 + bit 71 w) } } := by
  have denied : s.dapMemory q k t w = s.dapMemSays 0#64 k t w smDenied := if_pos ho
  rw [denied, State.dapMemSays, BitVec.toNat_zero, Nat.zero_add]

section
variable (ho : s.dbgOpen = true) (ht : s.hasTile t = true) (hc : s.coreOn t = true) (hr : s.clk.refHold = false)

include ht hc hr in
/-- The memory master reaches the tile's SRAM. -/
theorem State.not_dapAborted : ¬(s.hasTile t = false ∨ s.coreOn t = false ∨ s.clk.refHold = true) := by simp [ht, hc, hr]

include ho ht hc hr

/-- A protected structure answers zeros, and is reported. -/
theorem State.dapMemory_protected (hk : protectedStruct k = true) (w : Bool) :
    s.dapMemory q k t w = (s.dapMemSelected.denied false s.dbg.maddr.toNat).dapMemSays 0 k t w smOk := by
  refine (if_neg (State.not_dbgClosed ho)).trans ((if_neg (State.not_dapAborted ht hc hr)).trans ((if_pos hk).trans ?_))
  exact .symm (State.dapMemSays_selected (congrArg Dbg.ir (State.denied_dbg ..)) (congrArg Dbg.pins (State.denied_dbg ..)) ..)

variable (hk : protectedStruct k = false)
include hk

/-- A word of another structure: a write stands in it, and a read gives what the memory master wrote there last, or a free value. -/
theorem State.dapMemory_word (w : Bool) : s.dapMemory q k t w =
    if w then ({ s with dbg := { s.dbg with
        words := ((t, k, s.dbg.maddr), q) :: s.dbg.words.filter fun e => decide (e.1 ≠ (t, k, s.dbg.maddr)) } } : State).dapMemSays
      q k t w smOk
    else match s.dbg.words.find? fun e => decide (e.1 = (t, k, s.dbg.maddr)) with
      | some (_, x) => s.dapMemSays x k t w smOk
      | none => ({ s with free := s.free + 1 } : State).dapMemSays (Config.freeValue 64 s.free) k t w smOk :=
  (if_neg (State.not_dbgClosed ho)).trans ((if_neg (State.not_dapAborted ht hc hr)).trans (if_neg (Bool.eq_false_iff.1 hk)))

theorem State.dapMemory_read {x : BitVec 64}
    (hx : s.dbg.words.find? (fun e => decide (e.1 = (t, k, s.dbg.maddr))) = some ((t, k, s.dbg.maddr), x)) :
    s.dapMemory q k t false = s.dapMemSays x k t false smOk := by
  rw [State.dapMemory_word ho ht hc hr hk, if_neg Bool.false_ne_true, hx]

theorem State.dapMemory_readFree (hx : s.dbg.words.find? (fun e => decide (e.1 = (t, k, s.dbg.maddr))) = none) :
    s.dapMemory q k t false =
      ({ s with free := s.free + 1 } : State).dapMemSays (Config.freeValue 64 s.free) k t false smOk := by
  rw [State.dapMemory_word ho ht hc hr hk, if_neg Bool.false_ne_true, hx]

end

/-! ### LOCK_DEBUG and the test DMA (R293, R408) -/

/-- The debug paths locked. -/
def State.dbgLocked (s : State) : State := { s with dbg := { s.dbg with locked := true } }

theorem State.lockDebug_alone (h : ∀ e, s.clk.smb = some e → e.dap = false) : s.lockDebug = s.dbgLocked := by
  unfold State.lockDebug
  dsimp only
  split
  · next e he => exact if_neg (by simp [h e he])
  · rfl

theorem State.lockDebug_denies {e : Pend} (he : s.clk.smb = some e) (hd : e.dap = true) : s.lockDebug =
    ({ s.dbgLocked with clk := { s.clk with smb := none } } : State).dapDone 0 e.addr e.write smDenied := by
  unfold State.lockDebug
  dsimp only
  rw [he]
  exact if_pos hd

/-- The tile of a DMA named in DBG_CTL. -/
def State.dmaNamed (s : State) (t : TileId) : State := { s with dbg := { s.dbg with dmaTile := t } }

/-- The page read of DMA_START begun on a tile. -/
def State.dmaBegun (s : State) (t : TileId) : State :=
  { s with dbg := { s.dbg with dmaBusy := true, dmaTile := t, dmaFrom := (t, s.dbg.dmaPage) } }

/-- With the paths open, no DMA running and the tile in service, the read begins, and is denied at once where the page is protected. -/
theorem State.dmaStart_begins (ho : s.dbgOpen = true) (hb : s.dbg.dmaBusy = false) (ht : s.hasTile t = true)
    (hm : s.mioOn t = true) (hc : s.coreOn t = true) :
    (s.dmaNamed t).dmaStart t = if s.protectedStratum t (pageStratum s.dbg.dmaPage)
      then (s.dmaBegun t).denied true s.dbg.dmaPage.toNat
      else (List.range 16).foldl (fun v j => v.bgFetch t (cwAddr s.dbg.dmaPage j) .dma) (s.dmaBegun t) := by
  have free : ¬(s.dbgOpen = false ∨ s.dbg.dmaBusy = true ∨ s.hasTile t = false ∨ s.mioOn t = false ∨ s.coreOn t = false) := by
    simp [ho, hb, ht, hm, hc]
  exact if_neg free

/-- Word `i` of DBG_BUF as the 16 codewords of the page give it: data, or a free value where a codeword holds none (log 31). -/
def State.dmaWord (s : State) (i : Nat) : Word :=
  match ((List.range 16).map fun j => s.payload s.dbg.dmaFrom.1 (cwAddr s.dbg.dmaFrom.2 j)).getD (i / 64) none with
  | some p => (payloadLine p (i / 16 % 4)).extractLsb' (32 * (i % 16)) 32
  | none => Config.freeValue 32 (s.free + i)

/-- DBG_BUF after the read of a page that is not protected. -/
def State.dmaBuf (s : State) : Tab Word := (List.range 1024).foldl (fun m i => Tab.put 0 m i (s.dmaWord i)) []

theorem State.get_dmaBuf {n : Nat} (hn : n < 1024) : Tab.get 0 s.dmaBuf n = s.dmaWord n :=
  (Tab.get_foldl_put 0 s.dmaWord (List.range 1024) [] n).trans (if_pos (List.mem_range.2 hn))

theorem State.dmaWord_stored {j i : Nat} {p : BitVec 2304} (hj : j < 16) (hi : i < 64)
    (hp : s.payload s.dbg.dmaFrom.1 (cwAddr s.dbg.dmaFrom.2 j) = some p) :
    s.dmaWord (64 * j + i) = (payloadLine p (i / 16)).extractLsb' (32 * (i % 16)) 32 := by
  have codeword : (64 * j + i) / 64 = j := by omega
  have line : (64 * j + i) / 16 % 4 = i / 16 := by omega
  have word : (64 * j + i) % 16 = i % 16 := by omega
  have stored : ((List.range 16).map fun j => s.payload s.dbg.dmaFrom.1 (cwAddr s.dbg.dmaFrom.2 j)).getD j none = some p := by
    simp [List.getD, hj, hp]
  rw [State.dmaWord, codeword, stored, line, word]

/-- A read of the test DMA is left on its tile. -/
def State.dmaReadLeft (s : State) : Bool :=
  (s.tile s.dbg.dmaFrom.1).sch.fetches.any fun e => match e.2 with | some f => decide (f.owner = .dma) | none => false

section
variable (hb : s.dbg.dmaBusy = true) (he : s.dmaReadLeft = false)
include hb he

theorem State.dmaDone_due : ¬(s.dbg.dmaBusy = false ∨ s.dmaReadLeft = true) := by simp [hb, he]

theorem State.dmaDone_protected (h : s.protectedStratum s.dbg.dmaFrom.1 (pageStratum s.dbg.dmaFrom.2) = true) :
    s.dmaDone = { s with dbg := { s.dbg with dmaBusy := false, dmaZero := true, buf := [] } } :=
  (if_neg (State.dmaDone_due hb he)).trans (if_pos h)

/-- DBG_BUF takes the words of any other page. -/
theorem State.dmaDone_data (h : s.protectedStratum s.dbg.dmaFrom.1 (pageStratum s.dbg.dmaFrom.2) = false) :
    s.dmaDone = { s with free := s.free + 1024, dbg := { s.dbg with
      dmaBusy := false, dmaZero := false, buf := s.dmaBuf } } :=
  (if_neg (State.dmaDone_due hb he)).trans (if_neg (Bool.eq_false_iff.1 h))

end

/-! ### The commands -/

section
variable (hp : s.powered = true)
include hp

theorem exec_samplePreload : exec .samplePreload s = .next (s.tap 0x02 0) :=
  (State.doIf_enabled hp rfl : execSamplePreload s = _)

theorem exec_extest : exec .extest s = .next (s.tap 0x03 1) :=
  (State.doIf_enabled hp rfl : execExtest s = _)

theorem exec_clamp : exec .clamp s = .next (s.tap 0x04 1) :=
  (State.doIf_enabled hp rfl : execClamp s = _)

theorem exec_highz : exec .highz s = .next (s.tap 0x05 2) :=
  (State.doIf_enabled hp rfl : execHighz s = _)

theorem exec_bypass {c : Byte} (hc : tapCodes.contains c = false) : exec (.bypass c) s = .next (s.tap c 0) :=
  (State.doIf_enabled hp (by rw [hc]; rfl) : execBypass c s = _)

theorem exec_idcode : exec .idcode s = .next s.idCode :=
  (State.doIf_enabled hp rfl : execIdcode s = _)

theorem exec_tapReset : exec .tapReset s = .next s.tapClear :=
  (State.doIf_enabled hp rfl : execTapReset s = _)

theorem exec_dapReg (hu : s.tapUp = true) {w g : Bool} {v : State} (h : s.dapRegister d a w g = v) :
    exec (.dapReg d a w g) s = .next (s.after v) :=
  (State.doAll_enabled hp hu : execDapReg d a w g s = _).trans (by rw [h])

theorem exec_dapMem (hu : s.tapUp = true) {w : Bool} {v : State} (h : s.dapMemory q k t w = v) :
    exec (.dapMem q k t w) s = .next v :=
  (State.doIf_enabled hp hu : execDapMem q k t w s = _).trans (by rw [h])

theorem exec_lockDebug (hr : s.reach 0x60004 = true) {v : State} (h : s.lockDebug = v) : exec .lockDebug s = .next v :=
  (State.doIf_enabled hp hr : execLockDebug s = _).trans (by rw [h])

/-- DMA_START names the tile with the write that starts the read. -/
theorem exec_dmaStart (hr : s.reach 0x60004 = true) {v : State}
    (h : (s.dmaNamed t).dmaStart t = v) : exec (.dmaStart t) s = .next v :=
  (State.doIf_enabled hp hr : execDmaStart t s = _).trans (congrArg Host.Outcome.next h)

theorem exec_dmaComplete {v : State} (h : s.dmaDone = v) : exec .dmaComplete s = .next v :=
  (State.doIf_enabled hp rfl : execDmaComplete s = _).trans (by rw [h])

end

/-- Settles O59: the boundary scan by its register, the debug port by whether its paths are open, the DMA by whether the page is
protected. -/
theorem debugPortAndTestDma : Obligations.DebugPortAndTestDma := by
  intro d a q k t w g c s hp
  refine ⟨fun hu => ⟨?_, ?_, ?_, ?_, fun hc => ?_, ?_, ?_, fun ho => ⟨?_, ?_⟩, fun ho => ⟨?_, ?_, ?_, fun ht hc hr => ⟨fun hk => ⟨?_,
      fun x hx => ?_, fun hx => ?_⟩, fun hk => ?_⟩⟩⟩,
    fun hu => ?_, fun hr => ⟨fun hs => ?_, fun e he hd => ?_, fun ho hb ht hm hc => ⟨fun hn => ?_, fun hn => ?_⟩⟩,
    fun hb he => ⟨fun hn => ?_, fun hn => ⟨_, exec_dmaComplete hp (State.dmaDone_data hb he hn), rfl, rfl, fun j p i hj hi hw => ?_⟩⟩⟩
  · rw [exec_samplePreload hp, State.tap_scan hu (.inl rfl)]
  · rw [exec_extest hp, State.tap_scan hu (.inr rfl)]
  · rw [exec_clamp hp, State.tap_pass hu (by decide)]
  · rw [exec_highz hp, State.tap_pass hu (by decide)]
  · rw [exec_bypass hp hc, State.tap_pass hu (not_scan_of_undefined hc)]
  · rw [exec_idcode hp, State.idCode_up hu]
  · rw [exec_tapReset hp, State.tapClear_up hu]
  · exact exec_dapReg hp hu (State.dapRegister_closed ho w g)
  · exact exec_dapMem hp hu (State.dapMemory_closed ho w)
  · exact exec_dapReg hp hu (State.dapRegister_idle ho w)
  · exact fun acc v hb hv hr hs => exec_dapReg hp hu (State.dapRegister_ran ho hb hs hv hr)
  · exact fun acc v hb hv hr hs => exec_dapReg hp hu (State.dapRegister_ran ho hb hs hv hr)
  · exact exec_dapMem hp hu (State.dapMemory_word ho ht hc hr hk true)
  · exact exec_dapMem hp hu (State.dapMemory_read ho ht hc hr hk hx)
  · exact exec_dapMem hp hu (State.dapMemory_readFree ho ht hc hr hk hx)
  · exact exec_dapMem hp hu (State.dapMemory_protected ho ht hc hr hk w)
  · rw [exec_tapReset hp, State.tapClear_down hu]
  · exact exec_lockDebug hp hr (State.lockDebug_alone hs)
  · exact exec_lockDebug hp hr (State.lockDebug_denies he hd)
  · exact exec_dmaStart hp hr ((State.dmaStart_begins ho hb ht hm hc).trans (if_neg (Bool.eq_false_iff.1 hn)))
  · exact exec_dmaStart hp hr ((State.dmaStart_begins ho hb ht hm hc).trans (if_pos hn))
  · exact exec_dmaComplete hp (State.dmaDone_protected hb he hn)
  · have inPage : 64 * j + i < 1024 := by omega
    dsimp only
    rw [State.get_dmaBuf inPage, State.dmaWord_stored hj hi hw]

end Machine
end Sys2Proof
end

section
/-! PROOFS. Faults, events and counters (chapter 11): `CountersSaturate` (R312), `OccurrencesArePendingAndRecorded` (R299, R301, R302,
R304), `CounterOverflowContinuesFromZero` (R309), `SramUncorrectableWords` (R296, R297, R354). -/

namespace Sys2Proof.Machine

/-! ### Saturating counters (R312) -/

/-- Settles O44, by the value of a counter after it has counted. -/
theorem countersSaturate : Obligations.CountersSaturate := by
  intro c k n j
  refine ⟨?_, fun hj => (Tab.get_bump ..).trans (if_neg hj)⟩
  rw [Tab.get_bump, if_pos rfl, BitVec.toNat_ofNat]
  omega

/-! ### The EVENT frames of one source (R305, R306) -/

/-- Between two states nothing has changed but the sessions and the frames sent, and every frame that has left is an EVENT of
source `n`. -/
structure EventsSent (n : Nat) (s t : State) : Prop where
  frame : { t with sess := s.sess, out := s.out } = s
  sent : ∃ l, t.out = l ++ s.out ∧ ∀ o ∈ l, o.frame.hdr.opcode = opEvent ∧ o.frame.hdr.aux = BitVec.ofNat 32 n

namespace EventsSent

variable {n : Nat} {s0 s : State}

theorem refl (s : State) : EventsSent n s s := ⟨rfl, [], rfl, by simp⟩

theorem same {α : Type} {f : State → α} (h : EventsSent n s0 s)
    (hf : ∀ u : State, f { u with sess := s0.sess, out := s0.out } = f u := by intro u; rfl) : f s = f s0 :=
  (hf s).symm.trans (congrArg f h.frame)

theorem modSes (h : EventsSent n s0 s) (x : SessId) (f : Sess → Sess) : EventsSent n s0 (s.modSes x f) := ⟨h.frame, h.sent⟩

theorem emit (h : EventsSent n s0 s) (x : SessId) {f : Frame} (hop : f.hdr.opcode = opEvent)
    (haux : f.hdr.aux = BitVec.ofNat 32 n) : EventsSent n s0 (s.emit x f) := by
  obtain e | ⟨a, -, e⟩ := s.emit_cases x f <;> rw [e]
  · exact h
  · obtain ⟨l, hl, hev⟩ := h.sent
    exact ⟨h.frame, _ :: l, congrArg (List.cons _) hl, List.forall_mem_cons.2 ⟨⟨hop, haux⟩, hev⟩⟩

theorem tell (h : EventsSent n s0 s) (fr : BitVec 2) (payload : List Byte) (count : Nat) (x : SessId) :
    EventsSent n s0 (s.tell n fr payload count x) := by
  unfold State.tell State.sendOrWait
  rw [State.sendFirst_event]
  split
  · split
    · exact h.modSes ..
    · split
      · exact ((h.modSes ..).emit x rfl rfl).modSes ..
      · exact h.modSes ..
  · exact h

theorem eventFrames (h : EventsSent n s0 s) (sf : BitVec 40) (detail : BitVec 64) (count : Nat) :
    EventsSent n s0 (s.eventFrames n sf detail count) := by
  rw [State.eventFrames_eq]
  exact List.foldlRecOn (motive := EventsSent n s0) _ _ h fun _ hu x _ => hu.tell _ _ _ x

end EventsSent

/-! ### An occurrence (R299, R301 to R304) -/

/-- The EVT block with source `n` pending. -/
def Evt.setPend (e : Evt) (n : Nat) : Evt := { e with pend := if e.pend.contains n then e.pend else n :: e.pend }

theorem Evt.mem_setPend {e : Evt} {n m : Nat} : m ∈ (e.setPend n).pend ↔ m = n ∨ m ∈ e.pend := by
  unfold Evt.setPend
  by_cases h : n ∈ e.pend
  · simp only [List.contains_iff_mem.2 h, if_true]
    exact ⟨.inr, fun hm => hm.elim (fun e => e ▸ h) id⟩
  · simp [h]

/-- A trouble entry after one more occurrence of its source (R301). -/
def Trouble.again (r : Trouble) (sf : BitVec 40) (boot : BitVec 16) : Trouble :=
  if r.set then { r with count := min (r.count + 1) 65535 } else { count := min (r.count + 1) 65535, set := true, firstSf := sf, boot }

theorem Trouble.again_set (r : Trouble) (sf : BitVec 40) (boot : BitVec 16) : (r.again sf boot).set = true := by
  unfold Trouble.again
  split
  · assumption
  · rfl

theorem Trouble.again_count (r : Trouble) (sf : BitVec 40) (boot : BitVec 16) :
    (r.again sf boot).count = min (r.count + 1) 65535 := by
  unfold Trouble.again
  split <;> rfl

theorem Trouble.again_firstSf (r : Trouble) (sf : BitVec 40) (boot : BitVec 16) :
    (r.again sf boot).firstSf = if r.set then r.firstSf else sf :=
  apply_ite Trouble.firstSf ..

theorem Evt.setTrouble_trb (e : Evt) (n : Nat) (sf : BitVec 40) (boot : BitVec 16) (m : Nat) :
    Tab.get {} (e.setTrouble n sf boot).trb m = if m = n then (Tab.get {} e.trb n).again sf boot else Tab.get {} e.trb m :=
  Tab.get_put ..

/-- What an occurrence makes of the EVT block. -/
def State.occurred (s : State) (n : Nat) (bit : Bool) : Evt :=
  if isFault n && bit then (s.evt.setPend n).setTrouble n s.sf (BitVec.ofNat 16 s.ldg.start.toNat) else s.evt.setPend n

/-- An occurrence without a trouble bit is its pending bit, then frames (R299, R305). -/
theorem State.occur_untroubled {s : State} {n : Nat} {bit : Bool} (h : (isFault n && bit) = false) (detail : BitVec 64) :
    EventsSent n { s with evt := s.occurred n bit } (s.occur n detail bit) := by
  simp only [State.occurred, State.occur, h, Bool.false_eq_true, if_false]
  exact (EventsSent.refl _).eventFrames s.sf detail 1

/-- Every occurrence is what it records and commits, then frames (R302). -/
theorem State.occur_sent (s : State) (n : Nat) (detail : BitVec 64) (bit : Bool) :
    ∃ ldg, EventsSent n { s with evt := s.occurred n bit, ldg } (s.occur n detail bit) := by
  cases h : isFault n && bit with
  | false => exact ⟨s.ldg, State.occur_untroubled h detail⟩
  | true =>
    simp only [State.occurred, State.occur, h, if_true]
    split
    · split <;> exact ⟨_, .refl _⟩
    · split
      · exact ⟨s.ldg, (EventsSent.refl _).eventFrames s.sf detail 1⟩
      · exact ⟨_, .refl _⟩

theorem State.occur_evt (s : State) (n : Nat) (detail : BitVec 64) (bit : Bool) : (s.occur n detail bit).evt = s.occurred n bit :=
  (s.occur_sent n detail bit).elim fun _ h => h.same (f := State.evt)

theorem State.occurred_pend (s : State) (n : Nat) (bit : Bool) : (s.occurred n bit).pend = (s.evt.setPend n).pend := by
  unfold State.occurred
  split <;> rfl

theorem State.mem_occur_pend {s : State} {n m : Nat} {detail : BitVec 64} {bit : Bool} :
    m ∈ (s.occur n detail bit).evt.pend ↔ m = n ∨ m ∈ s.evt.pend := by
  rw [State.occur_evt, State.occurred_pend, Evt.mem_setPend]

theorem State.occurred_fault {s : State} {n : Nat} (h : isFault n = true) :
    s.occurred n true = (s.evt.setPend n).setTrouble n s.sf (BitVec.ofNat 16 s.ldg.start.toNat) := by
  simp [State.occurred, h]

theorem State.occurred_event {s : State} {n : Nat} (h : isFault n = false) (bit : Bool) : s.occurred n bit = s.evt.setPend n := by
  simp [State.occurred, h]

/-- The trouble entry of another source stands. -/
theorem State.occurred_trb_other {s : State} {n m : Nat} (hm : m ≠ n) (bit : Bool) :
    Tab.get {} (s.occurred n bit).trb m = Tab.get {} s.evt.trb m := by
  unfold State.occurred
  split
  · exact (Evt.setTrouble_trb ..).trans (if_neg hm)
  · rfl

/-- Settles O45: the EVT block holds what the occurrence records, and the rest follows from its frames being all that leaves. -/
theorem occurrencesArePendingAndRecorded : Obligations.OccurrencesArePendingAndRecorded := by
  intro s n d
  obtain ⟨ldg, h⟩ := s.occur_sent n d true
  refine ⟨State.mem_occur_pend.2 (.inl rfl), fun m hm => by simp [State.mem_occur_pend, hm], fun hf => ?_, fun m hm => ?_, fun hf => ?_,
    h.same (f := State.tiles), h.same (f := State.media), h.same (f := State.rgns), h.same (f := State.sup), h.sent⟩
  · rw [State.occur_evt, State.occurred_fault hf, Evt.setTrouble_trb, if_pos rfl]
    exact ⟨Trouble.again_set .., Trouble.again_count .., Trouble.again_firstSf ..⟩
  · rw [State.occur_evt, State.occurred_trb_other hm]
  · have quiet := State.occur_untroubled (s := s) (bit := true) (by rw [hf]; rfl) d
    refine ⟨?_, quiet.same (f := State.ldg)⟩
    rw [State.occur_evt, State.occurred_event hf]
    rfl

/-! ### A performance counter at its last value (R308, R309) -/

section
variable {s : State} {t : TileId} {i : Fin 64}

theorem State.raise_early {n : Nat} (hl : isLimited n = false) (he : s.evt.loaded = false) (d : BitVec 64) (bit : Bool)
    (f : BitVec 64 → BitVec 64) : s.raise n d bit f = s.modEvt fun e => { e with early := e.early ++ [(n, d, bit)] } := by
  simp [State.raise, hl, he]

theorem State.raise_loaded {n : Nat} (hl : isLimited n = false) (he : s.evt.loaded = true) (d : BitVec 64) (bit : Bool)
    (f : BitVec 64 → BitVec 64) : s.raise n d bit f = s.occur n d bit := by
  simp [State.raise, hl, he]

/-- PMC_OVF is not rate-limited (R300). -/
theorem isLimited_pmcOvf (t : TileId) : isLimited (tsrc t 25) = false := by revert t; decide

/-- Counter `i` continues from 0, with its bit of the overflow word set (R309). -/
def Pmc.overflow (p : Pmc) (i : Fin 64) : Pmc := { p with cnt := Tab.put 0 p.cnt i.val 0, ovf := p.ovf ||| (1#64 <<< i.val) }

theorem Pmc.add_last {p : Pmc} (h : Tab.get 0 p.cnt i.val = 0xFFFFFFFFFFFF#48) : p.add i 1 = p.overflow i := by
  rw [Pmc.add, h]
  rfl

/-- Two changes of a tile that agree on what it is. -/
theorem State.modTile_eq {f g : Tile → Tile} (h : f (s.tile t) = g (s.tile t)) : s.modTile t f = s.modTile t g :=
  congrArg (fun T => { s with tiles := Tab.put {} s.tiles t.val T }) h

/-- The channel of an occurrence is known, or takes one free value (log 167). -/
theorem State.pmcChan_eq (s : State) (t : TileId) (i : Fin 64) :
    ∃ k c, k ≤ 1 ∧ s.pmcChan t i = (c, { s with free := s.free + k }) := by
  unfold State.pmcChan
  dsimp only
  split
  · split
    · exact ⟨0, _, by decide, rfl⟩
    · exact ⟨1, _, by decide, rfl⟩
  · exact ⟨0, _, by decide, rfl⟩

/-- The tile whose counter `i` has overflowed, `k` free values later. -/
def State.pmcOverflow (s : State) (k : Nat) (t : TileId) (i : Fin 64) : State :=
  ({ s with free := s.free + k } : State).modPmc t fun p => p.overflow i

/-- The occurrence that a counter at its last value counts: its overflow, PMC_OVF, then its samples. -/
theorem State.pmcOnce_last (h : Tab.get 0 (s.tile t).pmc.cnt i.val = 0xFFFFFFFFFFFF#48) :
    ∃ k c, k ≤ 1 ∧ s.pmcOnce t i =
      ((s.pmcOverflow k t i).raise (tsrc t 25) (1#64 <<< i.val)).sampleN t i c ((s.tile t).pmc.samples i 1) := by
  obtain ⟨k, c, hk, e⟩ := s.pmcChan_eq t i
  refine ⟨k, c, hk, ?_⟩
  let u : State := { s with free := s.free + k }
  have last : Tab.get 0 (u.tile t).pmc.cnt i.val = 0xFFFFFFFFFFFF#48 := h
  have wraps : decide (2 ^ 48 ≤ (Tab.get 0 (u.tile t).pmc.cnt i.val).toNat + 1) = true := by rw [last]; decide
  have add : (u.modPmc t fun p => p.add i 1) = s.pmcOverflow k t i :=
    State.modTile_eq (congrArg (fun p => { u.tile t with pmc := p }) (Pmc.add_last last))
  rw [State.pmcOnce, e]
  show State.pmcAdvance u t i 1 c = _
  rw [State.pmcAdvance, wraps, add]
  rfl

/-- The counters of a tile and their overflow word. -/
def State.pmcCounts (s : State) (t : TileId) : Tab (BitVec 48) × BitVec 64 := ((s.tile t).pmc.cnt, (s.tile t).pmc.ovf)

theorem State.modPmc_pmcCounts (f : Pmc → Pmc) :
    (s.modPmc t f).pmcCounts t = ((f (s.tile t).pmc).cnt, (f (s.tile t).pmc).ovf) := by
  simp [State.pmcCounts]

theorem Pmc.inCycle_counts (p : Pmc) (now : Nat) : ((p.inCycle now).cnt, (p.inCycle now).ovf) = (p.cnt, p.ovf) := by
  unfold Pmc.inCycle
  split <;> rfl

theorem State.raise_pmcCounts (s : State) (t : TileId) (n : Nat) (d : BitVec 64) : (s.raise n d).pmcCounts t = s.pmcCounts t :=
  congrArg (fun T : Tab Tile => ((Tab.get ({} : Tile) T t.val).pmc.cnt, (Tab.get ({} : Tile) T t.val).pmc.ovf)) (s.raise_tiles n d true _)

theorem State.sample_pmcCounts (s : State) (t : TileId) (i : Fin 64) (c : Option Nat) :
    (s.sample t i c).pmcCounts t = s.pmcCounts t :=
  (State.modPmc_pmcCounts (s := { s with free := s.free + 2 }) _).trans ((s.tile t).pmc.inCycle_counts s.now)

theorem State.sampleN_pmcCounts (s : State) (t : TileId) (i : Fin 64) (c : Option Nat) (n : Nat) :
    (s.sampleN t i c n).pmcCounts t = s.pmcCounts t := by
  unfold State.sampleN
  split
  · rfl
  · refine (State.modPmc_pmcCounts _).trans ?_
    exact List.foldlRecOn (motive := fun u : State => u.pmcCounts t = s.pmcCounts t) _ _ rfl
      fun u h _ _ => (u.sample_pmcCounts t i c).trans h

theorem State.sampleN_evt (s : State) (t : TileId) (i : Fin 64) (c : Option Nat) (n : Nat) : (s.sampleN t i c n).evt = s.evt := by
  unfold State.sampleN
  split
  · rfl
  · exact List.foldlRecOn (motive := fun u : State => u.evt = s.evt) _ _ rfl fun _ h _ _ => h

/-- A counter does not sample where PERIOD is 0 (R311). -/
theorem Pmc.samples_of_period_zero {p : Pmc} (h : p.period = 0) (n : Nat) : p.samples i n = 0 := by simp [Pmc.samples, h]

theorem exec_pmcCounterOverflow (hp : s.powered = true) (hrun : s.pmcRuns t i = true)
    (h : Tab.get 0 (s.tile t).pmc.cnt i.val = 0xFFFFFFFFFFFF#48) : exec (.pmcCounterOverflow t i) s = .next (s.pmcOnce t i) :=
  (State.doIf_enabled hp (by rw [hrun, h]; rfl) : execPmcCounterOverflow t i s = _)

end

/-- Settles O41: the samples leave the counters and the EVT block alone, and PMC_OVF the counters. -/
theorem counterOverflowContinuesFromZero : Obligations.CounterOverflowContinuesFromZero := by
  intro t i s hp hrun hlast
  rw [exec_pmcCounterOverflow hp hrun hlast]
  obtain ⟨k, c, hk, e⟩ := State.pmcOnce_last hlast
  let u := s.pmcOverflow k t i
  have evt : (s.pmcOnce t i).evt = (u.raise (tsrc t 25) (1#64 <<< i.val)).evt := by rw [e, State.sampleN_evt]
  have counts : (s.pmcOnce t i).pmcCounts t = (Tab.put 0 (s.tile t).pmc.cnt i.val 0, (s.tile t).pmc.ovf ||| (1#64 <<< i.val)) := by
    rw [e, State.sampleN_pmcCounts, State.raise_pmcCounts]
    exact State.modPmc_pmcCounts _
  have cnt : ((s.pmcOnce t i).tile t).pmc.cnt = Tab.put 0 (s.tile t).pmc.cnt i.val 0 := congrArg Prod.fst counts
  refine ⟨⟨_, rfl, ?_, congrArg Prod.snd counts, fun j hj => ?_, fun hl => ?_, fun hl => ?_⟩, fun hl hper => ⟨k, hk, ?_⟩⟩
  · rw [cnt, Tab.get_put, if_pos rfl]
  · rw [cnt, Tab.get_put, if_neg hj]
  · rw [evt, State.raise_loaded (s := u) (isLimited_pmcOvf t) hl]
    exact State.mem_occur_pend.2 (.inl rfl)
  · rw [evt, State.raise_early (s := u) (isLimited_pmcOvf t) hl]
    exact List.mem_append_right _ (List.mem_singleton.2 rfl)
  · rw [e, Pmc.samples_of_period_zero hper, State.raise_loaded (s := u) (isLimited_pmcOvf t) hl]
    rfl

/-! ### SRAM words (R296, R297) -/

section
variable {s : State} {t : TileId} {k : BitVec 4} {item : Nat} {w : BitVec 24}

/-- The staged line of a staging frame is poisoned (Table 11.2). -/
theorem State.wordLost_staged {f : Staged} (h : Tab.find (s.tile t).adm.staged item = some f) : s.wordLost t 0 item =
    s.modAdm t fun a => { a with staged := Tab.ins item { f with poison := true } a.staged } :=
  State.modTile_eq (by dsimp only; rw [h])

/-- The structures that Table 11.2 does not name. -/
theorem State.wordLost_other (s : State) (t : TileId) (item : Nat) (h : 11 < k.toNat) : s.wordLost t k item = s.tileFault t 2 := by
  have hk : k = 12#4 ∨ k = 13#4 ∨ k = 14#4 ∨ k = 15#4 := by bv_omega
  obtain rfl | rfl | rfl | rfl := hk <;> rfl

/-- A lost word of a tile as it is counted, recorded and reported, before the action of its structure (R297). -/
def State.wordReported (s : State) (t : TileId) (k : BitVec 4) (w : BitVec 24) : State :=
  (s.modTile t fun T => { T with
    eccLast := BitVec.ofNat 32 (k.toNat + 16 + w.toNat * 32)
    eccCnt := Tab.bump T.eccCnt (2 * k.toNat + 1) }).raise (tsrc t 1) (fld 0 k.toNat ||| fld 4 w.toNat)

theorem exec_sramUncorrectable (hp : s.powered = true) {z : SramSite} {v : State} (h : s.sramBad z = v) :
    exec (.sramUncorrectable z) s = .next (s.after v) :=
  (State.doAll_enabled hp rfl : execSramUncorrectable z s = _).trans (by rw [h])

section
variable (ht : s.hasTile t = true) (hon : s.sramOn t = true)
include ht hon

theorem State.sramBad_tile (k : BitVec 4) (item : Nat) (w : BitVec 24) :
    s.sramBad (.tile t k item w) = (s.wordReported t k w).wordLost t k item :=
  if_pos (by rw [ht, hon]; rfl)

theorem State.sramBad_corrected (k : BitVec 4) (w : BitVec 24) : s.sramBad (.corrected t k w) = (s.modTile t fun T => { T with
      eccLast := BitVec.ofNat 32 (k.toNat + w.toNat * 32)
      eccCnt := Tab.bump T.eccCnt (2 * k.toNat) }).raise (tsrc t 2) 1 true
        fun d => BitVec.ofNat 64 (min (d.toNat + 1) 0xFFFFFFFF) :=
  if_pos (by rw [ht, hon]; rfl)

end

end

/-- Settles O39: the word is counted and reported, then `wordLost` takes the action of its structure. -/
theorem sramUncorrectableWords : Obligations.SramUncorrectableWords := by
  intro t k item w b s hp
  refine ⟨fun ht hon => ?_, fun hm => ⟨exec_sramUncorrectable hp (if_pos hm), exec_sramUncorrectable hp (if_pos hm)⟩⟩
  have lost {v : State} (h : (s.wordReported t k w).wordLost t k item = v) :
      exec (.sramUncorrectable (.tile t k item w)) s = .next (s.after v) :=
    exec_sramUncorrectable hp ((State.sramBad_tile ht hon k item w).trans h)
  refine ⟨fun f hk hf => lost ?staged, fun hk => lost ?_, fun hk => lost ?_, fun hk hh => lost ?markerHome,
    fun hk hh => lost ?markerElsewhere, fun hk => lost ?restored, fun hk => lost ?_, fun hk => lost ?_, fun hk => lost ?_, fun hk => lost ?_, fun hk => lost ?_,
    fun hk => lost ?_, fun hk => lost (State.wordLost_other _ t item hk),
    exec_sramUncorrectable hp (State.sramBad_corrected ht hon k w)⟩
  case staged => subst hk; exact State.wordLost_staged hf
  case markerHome => subst hk; exact if_pos hh
  case markerElsewhere => subst hk; exact if_neg hh
  case restored => obtain rfl | rfl := hk <;> rfl
  all_goals subst hk; rfl

end Sys2Proof.Machine
end

section
/-! PROOFS. The level of RESET_N: `ColdResetNeedsFourClocks` (R32, R355, R375, R413). -/

namespace Sys2Proof.Machine

/-! ### PWRFAIL_N falls where nothing is on (R336; log 27) -/

/-- What the supervisor records of a fall of PWRFAIL_N that makes no drain: a final record with cause 3 is due. -/
def Sup.fallRecorded (u : Sup) : Sup :=
  { u with pwrfail := true, pwrHighAt := none, fellIn := u.st, finalReq := false, finalDone := false, finalCause := 3 }

theorem Sup.anyOn_congr {u v : Sup} (hr : u.rails = v.rails) (hd : u.doms = v.doms) : u.anyOn = v.anyOn := by
  unfold Sup.anyOn Sup.rail Sup.dom
  rw [hr, hd]

theorem State.pwrfailFalls_standby {s : State} {n : Nat} (hn : 4 ≤ n) (hp : s.sup.pwrfail = false) (hst : s.sup.st = .standby)
    (ha : s.sup.anyOn = false) :
    s.pwrfailFalls n = { s with ldg := { s.ldg with closeAt := some (s.now + us 10) }, sup := s.sup.fallRecorded } := by
  have off : ∀ u : Sup, u.rails = s.sup.rails → u.doms = s.sup.doms → u.anyOn = false := fun u hr hd =>
    (Sup.anyOn_congr hr hd).trans ha
  simp [State.pwrfailFalls, hp, hst, Nat.not_lt.2 hn, State.modSup, State.modLdg, off, Sup.fallRecorded]

/-! ### What a cold reset leaves (R355, Table 13.5) -/

/-- A state as after a cold reset of `s`: everything but the non-volatile stores, the part and the time is as at reset. -/
structure ColdCleared (s t : State) : Prop where
  st : t.sup.st = .standby
  sess : t.sess = []
  pend : t.evt.pend = []
  mesh : t.mesh = []
  enrQ : t.enrQ = []
  scratch : t.scratch = 0
  rgns : t.rgns = []
  recalling : t.ldg.recalling = true
  adm : ∀ u, (t.tile u).adm = {}
  part : t.part = s.part
  now : t.now = s.now
  powered : t.powered = true
  held : t.held = false

namespace ColdCleared

variable {s t : State}

theorem ses_default (h : ColdCleared s t) (x : SessId) : t.ses x = {} := by
  rw [State.ses, h.sess]
  rfl

theorem dark (h : ColdCleared s t) : t.sup.st = .standby ∧ (∀ x, (t.ses x).st = .idle ∧ (t.ses x).epoch = 0) ∧
    t.evt.pend = [] ∧ t.mesh = [] ∧ t.enrQ = [] ∧ t.scratch = 0 ∧ t.rgns = [] ∧ t.ldg.recalling = true ∧
    (∀ u, (t.tile u).adm.cells = [] ∧ (t.tile u).adm.staged = []) ∧ t.part = s.part ∧ t.now = s.now := by
  refine ⟨h.st, fun x => ?_, h.pend, h.mesh, h.enrQ, h.scratch, h.rgns, h.recalling, fun u => ?_, h.part, h.now⟩
  · rw [h.ses_default]
    exact ⟨rfl, rfl⟩
  · rw [h.adm]
    exact ⟨rfl, rfl⟩

/-- The part and the time stand through a second cold reset. -/
theorem trans {a : State} (g : ColdCleared a t) (ha : a.part = s.part ∧ a.now = s.now) : ColdCleared s t :=
  { g with part := g.part.trans ha.1, now := g.now.trans ha.2 }

theorem rollToken (h : ColdCleared s t) (u : TileId) : ColdCleared s (t.rollToken u) := by
  refine ⟨h.st, h.sess, h.pend, h.mesh, h.enrQ, h.scratch, h.rgns, h.recalling, fun v => ?_, h.part, h.now, h.powered, h.held⟩
  simp only [State.rollToken, State.draw, State.tile_modXlt]
  split
  · exact h.adm u
  · exact h.adm v

theorem rollTokens (h : ColdCleared s t) (l : List TileId) : ColdCleared s (l.foldl State.rollToken t) := by
  induction l generalizing t with
  | nil => exact h
  | cons u l ih => exact ih (h.rollToken u)

/-- PWRFAIL_N, low through the reset, counts as low again: of this the supervisor's state tells nothing. -/
theorem fallRecorded (h : ColdCleared s t) {ldg : Ledger} (hl : ldg.recalling = t.ldg.recalling) :
    ColdCleared s { t with ldg, sup := t.sup.fallRecorded } :=
  ⟨h.st, h.sess, h.pend, h.mesh, h.enrQ, h.scratch, h.rgns, hl.trans h.recalling, h.adm, h.part, h.now, h.powered, h.held⟩

end ColdCleared

/-- A table of tiles that a cold reset has made holds no cell and no staged line. -/
theorem Tile.cold_fold_adm (f : TileId → Tile) (ep k : Nat) (l : List TileId) {m : Tab Tile} (h : (Tab.get {} m k).adm = {}) :
    (Tab.get {} (l.foldl (fun (m : Tab Tile) t => Tab.put {} m t.val ((f t).cold ep)) m) k).adm = {} := by
  induction l generalizing m with
  | nil => exact h
  | cons t l ih =>
    refine ih ?_
    rw [Tab.get_put]
    split
    · rfl
    · exact h

@[simp] theorem State.tear_outside (s : State) (w : CopyWrite) : (s.tear w).outside = s.outside := by
  unfold State.tear
  extract_lets offs
  refine State.foldl_outside (fun v o => ?_) offs s
  rfl

@[simp] theorem State.cutCommit_outside (s : State) : s.cutCommit.outside = s.outside := by
  unfold State.cutCommit
  rw [State.modLdg_outside]
  refine State.foldl_outside (fun s w => ?_) _ _
  rw [apply_ite State.outside]
  split
  · exact State.tear_outside _ _
  · rw [apply_ite State.outside]
    split <;> rfl

theorem Sup.reset_anyOn : Sup.reset.anyOn = false := by decide

theorem State.coldReset_cleared (s : State) : ColdCleared s s.coldReset := by
  unfold State.coldReset
  extract_lets s1 s2 low dark made fallen
  have work : s2.outside = s.outside := by simp [s2, s1]
  have part : s2.part = s.part := State.part_eq_of_outside work
  have now : s2.now = s.now := (congrArg State.now work :)
  have cleared : ColdCleared s made :=
    ⟨rfl, rfl, rfl, rfl, rfl, rfl, rfl, rfl, fun u => Tile.cold_fold_adm _ _ _ _ (m := []) rfl,
      part, now, rfl, rfl⟩
  refine ColdCleared.rollTokens ?_ _
  simp only [fallen]
  split
  · rw [State.pwrfailFalls_standby le_rfl rfl rfl Sup.reset_anyOn]
    exact cleared.fallRecorded rfl
  · exact cleared

/-! ### The pin (R32, R413) -/

section
variable {s : State} {n : Nat} (hp : s.powered = true) (hh : s.held = false)
include hp hh

theorem State.cold_resetN_short (hn : n < 4) : s.cold (.resetN n) = s := by simp [State.cold, hp, hh, hn]

theorem State.cold_resetN_long (hn : 4 ≤ n) : s.cold (.resetN n) = s.coldReset := by
  simp [State.cold, hp, hh, Nat.not_lt.2 hn]

end

theorem State.cold_resetLow {s : State} (hp : s.powered = true) :
    s.cold .resetLow = { s.coldReset with powered := false, held := true } :=
  if_pos hp

theorem State.cold_resetN_held {s : State} (hh : s.held = true) (n : Nat) :
    s.cold (.resetN n) = ({ s with powered := true, held := false } : State).coldReset :=
  if_pos hh

theorem exec_coldReset {s t : State} {c : ColdCause} (h : s.cold c = t) : exec (.coldReset c) s = .next t :=
  congrArg Host.Outcome.next h

/-- Settles O52: the three levels of the pin, and what a cold reset leaves, twice where the level is held. -/
theorem coldResetNeedsFourClocks : Obligations.ColdResetNeedsFourClocks := by
  intro n s hp hh
  refine ⟨fun hn => exec_coldReset (State.cold_resetN_short hp hh hn),
    fun hn => ⟨_, exec_coldReset (State.cold_resetN_long hp hh hn), s.coldReset_cleared.dark, s.coldReset_cleared.powered⟩,
    _, exec_coldReset (State.cold_resetLow hp), s.coldReset_cleared.dark, rfl, rfl,
    _, exec_coldReset (State.cold_resetN_held rfl n), ?_⟩
  have once := s.coldReset_cleared
  have again := (State.coldReset_cleared { s.coldReset with powered := true, held := false }).trans ⟨once.part, once.now⟩
  exact ⟨again.dark, again.powered, again.held⟩

end Sys2Proof.Machine
end

section
/-! PROOFS. The ledger's commits and the configuration's retry: `LedgerAndConfiguration` (R369, R370, R375, R380, R381). -/

namespace Sys2Proof.Machine

/-! ### A copy written (R375, R381) -/

/-- A copy write that joins the queue, or waits for room in it, changes nothing else of the ledger. -/
theorem Ledger.push_frame (l : Ledger) (w : CopyWrite) : { l.push w with queue := l.queue, late := l.late } = l := by
  unfold Ledger.push
  split
  · rfl
  · dsimp only
    split <;> rfl

/-- A copy that has been written changes the cells and no count of commits. -/
theorem Ledger.landed_cells_commits (l : Ledger) (w : CopyWrite) :
    (l.landed w).cells = w.store l.cells ∧ (l.landed w).commits = l.commits := by
  unfold Ledger.landed
  dsimp only
  split
  · split <;> exact ⟨rfl, rfl⟩
  · split
    · split
      · exact ⟨rfl, rfl⟩
      · exact ⟨(congrArg Ledger.cells (Ledger.push_frame _ _) :), (congrArg Ledger.commits (Ledger.push_frame _ _) :)⟩
    · exact ⟨rfl, rfl⟩

theorem Ledger.foldl_landed_commits (l : Ledger) (ws : List CopyWrite) : (ws.foldl Ledger.landed l).commits = l.commits := by
  induction ws generalizing l with
  | nil => rfl
  | cons w ws ih => exact (ih _).trans (l.landed_cells_commits w).2

theorem CopyWrite.store_record {w : CopyWrite} (cells : Tab Copy) (h : ∀ g vs, w.copy ≠ .ok g (.user vs)) :
    w.store cells = Tab.put .empty cells w.off w.copy := by
  unfold CopyWrite.store
  split
  · exact absurd ‹_› (h _ _)
  · rfl

theorem CopyWrite.store_user {w : CopyWrite} {g : Word} {vs : List Word} (cells : Tab Copy) (h : w.copy = .ok g (.user vs)) :
    w.store cells =
      vs.zipIdx.foldl (fun (m : Tab Copy) e => Tab.put .empty m (w.off + 4 * e.2) (.ok g (.user [e.1]))) cells := by
  unfold CopyWrite.store
  rw [h]

/-- Words written one after the other from word `k` on: each is found at its own place, and what lies before is as it was. -/
theorem Tab.get_userWords (off : Nat) (g : Word) (vs : List Word) (k j : Nat) (m : Tab Copy) :
    Tab.get .empty ((vs.zipIdx k).foldl (fun (m : Tab Copy) e => Tab.put .empty m (off + 4 * e.2) (.ok g (.user [e.1]))) m) (off + 4 * j) =
      if j < k then Tab.get .empty m (off + 4 * j)
      else (vs[j - k]?).elim (Tab.get .empty m (off + 4 * j)) fun x => .ok g (.user [x]) := by
  induction vs generalizing k m with
  | nil => simp
  | cons v vs ih =>
    rw [List.zipIdx_cons, List.foldl_cons, ih, Tab.get_put]
    obtain lt | rfl | gt := Nat.lt_trichotomy j k
    · simp [lt, Nat.lt_succ_of_lt lt, show ¬j = k by omega]
    · simp
    · obtain ⟨i, rfl⟩ : ∃ i, j = k + 1 + i := ⟨j - (k + 1), by omega⟩
      simp [show ¬k + 1 + i < k by omega, show ¬k + 1 + i ≤ k by omega, show ¬k + 1 + i = k by omega, show k + 1 + i - k = i + 1 by omega]

/-! ### The end of a commit (R372, R375) -/

theorem State.commitDone_flight {s : State} (h : s.ldg.flight ≠ []) :
    s.commitDone =
      let l := s.ldg.flight.foldl Ledger.landed s.ldg
      let s1 : State := { s with ldg := { l with flight := [], commits := BitVec.ofNat 32 (min (l.commits.toNat + 1) 0xFFFFFFFF) } }
      let s2 := (s.ldg.flight.flatMap fun (w : CopyWrite) => w.post).foldl (fun (s : State) d => s.runDeferred d) s1
      s2.modLdg fun l => (l.shut s2.now).pump := by
  dsimp only
  rw [Ledger.foldl_landed_commits, State.commitDone, if_neg h]
  rfl

/-! ### The window and the two requests (R369, R370, R381) -/

/-- A register that answers lies at a multiple of 4 (R394). -/
theorem State.reach_aligned {s : State} {a : Nat} (h : s.reach a = true) : a % 4 = 0 := by
  unfold State.reach at h
  split at h
  · simp_all
  · cases h

/-- `o`: the word's offset in the ledger, of which 0x70000 on are the user area. -/
theorem State.windowWrite_user {s : State} {o : Nat} (v : Word) (lo : 0x70000 ≤ o) (hi : o < 0x7F000) (al : o % 4 = 0) :
    s.windowWrite o [v] = s.commit o (.user [v]) [] := by
  have skip : (0x70000 - o + 3) / 4 = 0 := by omega
  have room : (0x7F000 - o) / 4 = (0x7F000 - o) / 4 - 1 + 1 := by omega
  simp only [State.windowWrite, skip, List.drop_zero, Nat.mul_zero, Nat.add_zero]
  rw [room]
  simp

theorem State.windowWrite_rest {s : State} {o : Nat} (v : Word) (h : o < 0x70000) : s.windowWrite o [v] = s := by
  have skip : (0x70000 - o + 3) / 4 = (0x70000 - o + 3) / 4 - 1 + 1 := by omega
  simp only [State.windowWrite]
  rw [skip]
  simp

/-! ### The commands -/

section
variable {s : State} (hp : s.powered = true)
include hp

theorem exec_ledgerCommitComplete : exec .ledgerCommitComplete s = .next (s.after s.commitDone) :=
  (State.doAll_enabled hp rfl : execLedgerCommitComplete s = _)

theorem exec_ledgerWindowWrite {a v : Word} (hr : s.reach a.toNat = true) (ha : 0x80000 ≤ a.toNat ∧ a.toNat < 0xFF000) :
    exec (.ledgerWindowWrite a v) s = .next (s.windowWrite (a.toNat - 0x80000) [v]) :=
  (State.doIf_enabled hp (by simp [hr, ha]) : execLedgerWindowWrite a v s = _)

theorem exec_commit (hr : s.reach 0xFF060 = true) : exec .commit s = .next s.provision :=
  (State.doIf_enabled hp hr : execCommit s = _)

theorem exec_retry (hr : s.reach 0x50004 = true) : exec .retry s = .next s.retryConfig :=
  (State.doIf_enabled hp hr : execRetry s = _)

end

/-- Settles O56: the commit in flight, the cells copy by copy, then the three writes by where they go and what they find. -/
theorem ledgerAndConfiguration : Obligations.LedgerAndConfiguration := by
  intro a v s hp
  refine ⟨fun hf => ?_, fun l w => ⟨fun h => ?_, fun g vs h j x hx => ?_⟩, fun hr => ⟨fun lo hi => ?_, fun lo hi => ?_⟩,
    fun hr => ⟨fun hk => ?_, fun hk => ?_⟩, fun hr => ⟨fun hc => ?_, fun hc => ?_⟩⟩
  · rw [exec_ledgerCommitComplete hp, State.commitDone_flight hf]
  · rw [(l.landed_cells_commits w).1, CopyWrite.store_record _ h, Tab.get_put, if_pos rfl]
  · rw [(l.landed_cells_commits w).1, CopyWrite.store_user _ h, Tab.get_userWords, if_neg (Nat.not_lt_zero j), Nat.sub_zero, hx]
    rfl
  · have al := State.reach_aligned hr
    rw [exec_ledgerWindowWrite hp hr (by omega), State.windowWrite_user v (by omega) (by omega) (by omega)]
  · rw [exec_ledgerWindowWrite hp hr (by omega), State.windowWrite_rest v (by omega)]
  · exact (exec_commit hp hr).trans (congrArg _ (if_neg (by simp [hk])))
  · exact (exec_commit hp hr).trans (congrArg _ (if_pos hk))
  · exact (exec_retry hp hr).trans (congrArg _ (if_pos hc))
  · exact (exec_retry hp hr).trans (congrArg _ (if_neg hc))

end Sys2Proof.Machine
end

section
/-! PROOFS. Thermal falls, stops and RESUME: `ThermalStopsAndResume` (R384, R387, R388, R390). -/

namespace Sys2Proof.Machine

variable {s : State} {t : TileId}

/-! ### Falls (R384, R387) -/

section
variable (live : s.thmLive t = true)
include live

theorem State.thmFall_warm (hw : (s.thmT t).st = .warm) (hc : (s.thmT t).below s.cfg.fallRounds s.cfg.warmClr = true) :
    s.thmFall t = (s.modThm t fun h => { h with st := .normal }).raise (tsrc t 18) (thmDetail (s.thmT t).temp false) := by
  simp only [State.thmFall, live, hw, hc, Bool.true_eq_false, if_false, if_true]

/-- A HOT tile that is no longer so is WARM or, once below WARM_CLR too, NORMAL; the second step is reported as well. -/
theorem State.thmFall_hot (hh : (s.thmT t).st = .hot) (hc : (s.thmT t).below s.cfg.fallRounds s.cfg.hotClr = true) :
    s.thmFall t =
      let cool := (s.thmT t).below s.cfg.fallRounds s.cfg.warmClr
      let s1 := (s.modThm t fun h => { h with st := if cool then .normal else .warm }).raise (tsrc t 19)
        (thmDetail (s.thmT t).temp false) false
      if cool then s1.raise (tsrc t 18) (thmDetail (s.thmT t).temp false) else s1 := by
  simp only [State.thmFall, live, hh, hc, Bool.true_eq_false, if_false, if_true]

/-! ### Stops (R388) -/

theorem State.thermalStop_acts (hold : (s.thmT t).hold = false) (h : 2 ≤ (s.thmT t).hotRun) :
    s.thermalStop t = ((s.modThm t fun h => { h with st := .tooHot, hold := true, holdCause := 1 }).raise (tsrc t 20)
      (fld 0 (tempField (s.thmT t).temp))).soloDrain t 2 :=
  if_pos ⟨hold, h, live⟩

theorem State.sensorStop_acts (hold : (s.thmT t).hold = false) (h0 : 0 < (s.thmT t).badRun)
    (h : s.cfg.invalidRounds ≤ (s.thmT t).badRun) :
    s.sensorStop t = ((s.modThm t fun h => { h with st := .tooHot, hold := true, holdCause := 2, badHold := true }).raise (tsrc t 21)
      (fld 16 (s.thmT t).kind.toNat)).soloDrain t 3 :=
  if_pos ⟨hold, h0, h, live⟩

end

/-! ### RESUME (R390) -/

theorem State.resume1_free (hold : (s.thmT t).hold = false) : s.resume1 t = s := if_pos hold

/-- Fewer rounds than the fall count cannot show that the tile has cooled. -/
theorem State.resume1_refused (hold : (s.thmT t).hold = true) (h : (s.thmT t).last.length < s.cfg.fallRounds) :
    s.resume1 t = s.modThm t fun h => { h with refused := min 255 (h.refused + 1) } := by
  simp [State.resume1, hold, Nat.not_le.2 h]

/-! ### The commands -/

section
variable (hp : s.powered = true)
include hp

theorem exec_thermalStateFall (live : s.thmLive t = true) : exec (.thermalStateFall t) s = .next (s.thmFall t) :=
  (State.doIf_enabled hp (by simp_all [State.thmLive]) : execThermalStateFall t s = _)

theorem exec_thermalStop : exec (.thermalStop t) s = .next (s.after (s.thermalStop t)) :=
  (State.doAll_enabled hp rfl : execThermalStop t s = _)

theorem exec_sensorStop : exec (.sensorStop t) s = .next (s.after (s.sensorStop t)) :=
  (State.doAll_enabled hp rfl : execSensorStop t s = _)

theorem exec_resume {m : Byte} (hr : s.reach 0x30000 = true) : exec (.resume m) s = .next (s.resumeAll m) :=
  (State.doIf_enabled hp hr : execResume m s = _)

end

/-- Settles O57: the falls by the state of the tile and how far it has cooled, the stops, then one tile of RESUME. -/
theorem thermalStopsAndResume : Obligations.ThermalStopsAndResume := by
  intro t m s hp
  refine ⟨fun live hw hc => ?_, fun live hh hc => ?_, fun live hold => ⟨fun h => ?_, fun h0 h => ?_⟩, exec_resume hp,
    State.resume1_free, State.resume1_refused⟩
  · rw [exec_thermalStateFall hp live, State.thmFall_warm live hw hc]
  · rw [exec_thermalStateFall hp live, State.thmFall_hot live hh hc]
    exact ⟨fun hw => by simp only [hw, Bool.false_eq_true, if_false], fun hw => by simp only [hw, if_true]⟩
  · rw [exec_thermalStop hp, State.thermalStop_acts live hold h]
  · rw [exec_sensorStop hp, State.sensorStop_acts live hold h0 h]

end Sys2Proof.Machine
end

section
/-! PROOFS. Resets, clocks and what waits for them: `ResetsAndClocks` (R348, R349, R351 to R357, R375). -/

namespace Sys2Proof.Machine

variable {s : State} {t : TileId}

/-! ### A warm reset asked for (R348, R353 to R355, R360) -/

theorem State.warmReset_held {w : BitVec 4} (hw : s.clk.warmReq = some w) (hh : s.clk.refHold = true) : s.warmReset = s.mergeWarm := by
  simp [State.warmReset, hw, hh]

/-! ### TCTL_CTL.ENABLE (R334, R357) -/

theorem State.tileStop_serving (h : (s.tile t).ctl.st = .inService ∨ (s.tile t).ctl.st = .replay ∨ (s.tile t).ctl.st = .faultReset) :
    s.tileStop t = ((s.modCtl t fun c => { c with enable := false, pendEn := false }).packTile t 1).stopPorts t :=
  if_pos h

theorem State.tileStop_other (h1 : (s.tile t).ctl.st ≠ .inService) (h2 : (s.tile t).ctl.st ≠ .replay)
    (h3 : (s.tile t).ctl.st ≠ .faultReset) : s.tileStop t = s.modCtl t fun c => { c with enable := false, pendEn := false } :=
  if_neg (by simp [h1, h2, h3])

theorem State.tileStart_free (h : (s.tile t).ctl.st = .stopped) (hold : (s.thmT t).hold = false) :
    s.tileStart t = (s.modCtl t fun c => { c with enable := true }).restartTile t := by
  simp [State.tileStart, h, hold]

/-- A tile that holds a thermal stop stays stopped. -/
theorem State.tileStart_held (h : (s.tile t).ctl.st = .stopped) (hold : (s.thmT t).hold = true) :
    s.tileStart t = s.modCtl t fun c => { c with enable := true } := by
  simp [State.tileStart, h, hold]

theorem State.tileStart_stopping (h : (s.tile t).ctl.st = .stopping) :
    s.tileStart t = (s.modCtl t fun c => { c with enable := true }).modCtl t fun c => { c with pendEn := true } := by
  simp only [State.tileStart, h]

theorem State.tileStart_other (h1 : (s.tile t).ctl.st ≠ .stopped) (h2 : (s.tile t).ctl.st ≠ .stopping) :
    s.tileStart t = s.modCtl t fun c => { c with enable := true } := by
  unfold State.tileStart
  dsimp only
  split
  · exact absurd ‹_› h2
  · exact absurd ‹_› h1
  · rfl

/-! ### REFCLK (R348) -/

theorem State.refLoss_present (hp : s.powered = true) (hh : s.clk.refHold = false) :
    s.refLoss = (((s.fitted.foldl (fun (v : State) u => v.modThm u Thm.blind)
      { s with clk := { s.clk with refLost := true, refOk := false } }).warmClear 3).raise 4 0xFF).modClk
        fun k => { k with refHold := true } :=
  if_neg (by simp [hp, hh])

/-- The return of REFCLK, with the state that a reset asked for meanwhile leaves. -/
theorem State.refBack_held (hh : s.clk.refHold = true) :
    s.refBack = let v := if s.clk.warmReq.isSome then s.mergeWarm else s
      (v.raise 12 3).modClk fun k =>
        { k with refHold := false, refOk := true, warmCause := 3, lastWarm := true, t0 := (v.raise 12 3).now } :=
  if_pos hh

/-! ### Lock losses (R349, Table 13.1) -/

/-- A lock loss counted and reported, its generator gated for the 10 µs of the relock. -/
def State.lockLost (s : State) (g : GenId) : State :=
  ({ s with clk := { s.clk with
    losses := Tab.put 0 s.clk.losses g.val (min 255 (Tab.get 0 s.clk.losses g.val + 1))
    lockAt := Tab.put 0 s.clk.lockAt g.val (s.now + us 10) } } : State).raise 4 (fld 0 g.val)

theorem State.locked_of_relocked {g : Nat} (hd : s.genDom g = .on ∨ s.genDom g = .stopping) (hl : Tab.get 0 s.clk.lockAt g ≤ s.now) :
    s.locked g = true := by
  simp [State.locked, State.gated, hd, hl]

section
variable {g : GenId} (hl : s.locked g.val = true)
include hl

theorem State.pllLoss_tile {u : TileId} (hu : u.val = g.val / 8) (hg : g.val % 8 < 2) : s.pllLoss g = (s.lockLost g).tileFault u 4 := by
  have tile : ∀ h, (⟨g.val / 8, h⟩ : TileId) = u := fun _ => Fin.ext hu.symm
  simp [State.pllLoss, hl, hg, tile, State.lockLost, State.modClk]

theorem State.pllLoss_mesh (hg : g.val % 8 = 2) : s.pllLoss g = (s.lockLost g).askWarm 3 := by
  simp [State.pllLoss, hl, hg, State.lockLost, State.modClk]

theorem State.pllLoss_port {p : PortId} (hg : 3 ≤ g.val % 8) (hp : p.val = 2 * (g.val / 8) + (g.val % 8 - 3) % 2) :
    s.pllLoss g = (s.lockLost g).portRst p := by
  have port : ∀ h, (⟨2 * (g.val / 8) + (g.val % 8 - 3) % 2, h⟩ : PortId) = p := fun _ => Fin.ext hp.symm
  simp [State.pllLoss, hl, port, show ¬g.val % 8 < 2 by omega, show ¬g.val % 8 = 2 by omega, State.lockLost, State.modClk]

end

/-! ### Pending accesses (R351, R352, R392) -/

theorem State.pendReady_iff {d : Pend} : s.pendReady d = true ↔ d.due = false ∧ s.stoppedAt d.addr.toNat = none := by
  simp [State.pendReady]

/-- The in-band bridge's access goes on alone, unless that of the SMBus bridge is ready in the same block. -/
theorem State.pendGoesOn_alone {d : Pend} (hd : s.clk.ib = some d)
    (h : ∀ e, s.clk.smb = some e → ¬(e.due = false ∧ s.stoppedAt e.addr.toNat = none ∧
      (blockOf e.addr.toNat).map Prod.fst = (blockOf d.addr.toNat).map Prod.fst)) : s.pendGoesOn true = s.pendOn true := by
  cases hs : s.clk.smb with
  | none => simp [State.pendGoesOn, hd, hs]
  | some e =>
    have g := h e hs
    rw [← and_assoc, ← State.pendReady_iff] at g
    simp [State.pendGoesOn, hd, hs, -not_and, g]

theorem State.pendGoesOn_both {d e : Pend} (hd : s.clk.ib = some d) (he : s.clk.smb = some e)
    (h : e.due = false ∧ s.stoppedAt e.addr.toNat = none ∧ (blockOf e.addr.toNat).map Prod.fst = (blockOf d.addr.toNat).map Prod.fst) :
    s.pendGoesOn true = (s.pendOn false).pendOn true := by
  rw [← and_assoc, ← State.pendReady_iff] at h
  simp [State.pendGoesOn, hd, he, h]

/-- An access of the SMBus bridge, a write all of whose registers answer: it ends with the write. -/
theorem State.pendOn_smbWrite {d : Pend} (hd : s.clk.smb = some d) (hr : s.pendReady d = true) (hq : d.req = none) (hw : d.write = true)
    {acc : Acc} {v : State}
    (hv : State.writeAll [] d.vals d.addr.toNat { s with clk := { s.clk with smb := none } } = (acc, v)) (ha : acc.stop = none) :
    s.pendOn false = v.smbPendEnds d (readStatus acc.uns) acc.got := by
  simp [State.pendOn, hd, hr, hq, hw, State.modClk, hv, ha]

theorem State.pendGoesOn_smb : s.pendGoesOn false = s.pendOn false := by
  unfold State.pendGoesOn
  split <;> rfl

/-- What has been released with no request behind it: a write and an access of the debug port end with nothing read. -/
theorem State.pendReleased_write {d : Pend} (hd : s.clk.smb = some d) (due : d.due = true) (hq : d.req = none)
    (hw : (d.dap || d.write) = true) : s.pendReleased false = s.smbPendEnds d smAborted [] := by
  simp [State.pendReleased, hd, due, hq, hw]

theorem State.pendReleased_read {d : Pend} (hd : s.clk.smb = some d) (due : d.due = true) (hq : d.req = none)
    (hw : (d.dap || d.write) = false) :
    s.pendReleased false = (State.drawWords d.got.length s).2.smbPendEnds d smAborted
      ((State.drawWords d.got.length s).1 ++ List.replicate d.left 0) := by
  simp [State.pendReleased, hd, due, hq, hw]

section
variable {b : Bool} {d : Pend} (hd : (if b then s.clk.ib else s.clk.smb) = some d) (h2 : 2 ≤ d.dom)
include hd h2

theorem State.resetPend_tile {u : TileId} (hu : u.val = (d.dom - 2) / 29 % 8) (hj : (d.dom - 2) % 29 < 9 ∨ 27 ≤ (d.dom - 2) % 29) :
    s.resetPend b = (s.tileFault u 8).hitPends fun i => decide (i = d.dom) := by
  have tile : ∀ h, (⟨(d.dom - 2) / 29 % 8, h⟩ : TileId) = u := fun _ => Fin.ext hu.symm
  have out : ¬(9 ≤ (d.dom - 2) % 29 ∧ (d.dom - 2) % 29 < 27) := by omega
  simp only [State.resetPend, hd, if_neg (Nat.not_lt.2 h2), if_neg out, tile]

theorem State.resetPend_port {p : PortId} (lo : 9 ≤ (d.dom - 2) % 29) (hi : (d.dom - 2) % 29 < 27)
    (hp : p.val = 2 * ((d.dom - 2) / 29 % 8) + (if (d.dom - 2) % 29 < 17 ∨ (d.dom - 2) % 29 = 25 then 0 else 1)) :
    s.resetPend b = s.portRst p := by
  have port : ∀ h, (⟨(2 * ((d.dom - 2) / 29 % 8) + (if (d.dom - 2) % 29 < 17 ∨ (d.dom - 2) % 29 = 25 then 0 else 1)) % 16, h⟩ : PortId) = p :=
    fun _ => Fin.ext ((congrArg (· % 16) hp.symm).trans (Nat.mod_eq_of_lt p.isLt))
  simp only [State.resetPend, hd, if_neg (Nat.not_lt.2 h2), if_pos (And.intro lo hi), port]

end

/-! ### VAON (R375) -/

theorem State.cold_vaonUp (hh : s.held = false) : s.cold .vaonUp = ({ s with powered := true } : State).coldReset := by
  simp [State.cold, hh]

theorem State.loseVaon_powered (hp : s.powered = true) :
    s.loseVaon = { ({ s.coldReset with powered := false, held := false } : State) with
      sup := { s.coldReset.sup with rails := [], doms := [] } } :=
  if_pos (.inl hp)

/-! ### The commands -/

section
variable (hp : s.powered = true)
include hp

theorem exec_warmReset_held {w : BitVec 4} (hw : s.clk.warmReq = some w) (hh : s.clk.refHold = true) :
    exec .warmReset s = .next s.mergeWarm :=
  (State.doIf_enabled hp rfl : execWarmReset s = _).trans (congrArg _ (State.warmReset_held hw hh))

theorem exec_warm (hr : s.reach 0x8 = true) : exec .warm s = .next (s.askWarm 0) :=
  (State.doIf_enabled hp hr : execWarm s = _)

theorem exec_tileFaultReset (ht : s.hasTile t = true) (hc : s.coreOn t = true) (hh : s.clk.refHold = false) {c : Byte}
    (hf : faultCause c = true) : exec (.tileFaultReset t c) s = .next (s.tileFault t c) :=
  (State.doIf_enabled hp (by simp [ht, hc, hh, hf]) : execTileFaultReset t c s = _)

theorem exec_watchdog (ht : s.hasTile t = true) (hc : s.coreOn t = true) (hh : s.clk.refHold = false) :
    exec (.watchdog t) s = .next (s.tileFault t 7) :=
  (State.doIf_enabled hp (by simp [ht, hc, hh]) : execWatchdog t s = _)

section
variable (hr : s.reach (tileAddr t 0) = true)
include hr

theorem exec_faultReset : exec (.faultReset t) s = .next (s.tileFault t 1) := (State.doIf_enabled hp hr : execFaultReset t s = _)

theorem exec_tileStop : exec (.tileStop t) s = .next (s.tileStop t) := (State.doIf_enabled hp hr : execTileStop t s = _)

theorem exec_tileStart : exec (.tileStart t) s = .next (s.tileStart t) := (State.doIf_enabled hp hr : execTileStart t s = _)

end

theorem exec_refclkLoss : exec .refclkLoss s = .next s.refLoss := (State.doIf_enabled hp rfl : execRefclkLoss s = _)

theorem exec_refclkRestored : exec .refclkRestored s = .next s.refBack := (State.doIf_enabled hp rfl : execRefclkRestored s = _)

theorem exec_pllLockLoss {g : GenId} : exec (.pllLockLoss g) s = .next (s.pllLoss g) :=
  (State.doIf_enabled hp rfl : execPllLockLoss g s = _)

theorem exec_pendingAccessComplete {b : Bool} : exec (.pendingAccessComplete b) s = .next (s.after (s.pendGoesOn b)) :=
  (State.doAll_enabled hp rfl : execPendingAccessComplete b s = _)

theorem exec_pendingAccessRelease {b : Bool} : exec (.pendingAccessRelease b) s = .next (s.after (s.pendReleased b)) :=
  (State.doAll_enabled hp rfl : execPendingAccessRelease b s = _)

theorem exec_resetPend {b : Bool} (hr : s.reach 0x20004 = true) : exec (.resetPend b) s = .next (s.resetPend b) :=
  (State.doIf_enabled hp hr : execResetPend b s = _)

theorem exec_lossOfVaon :
    exec .lossOfVaon s = .next { ({ s.coldReset with powered := false, held := false } : State) with
      sup := { s.coldReset.sup with rails := [], doms := [] } } :=
  congrArg Host.Outcome.next (State.loseVaon_powered hp)

end

/-- Settles O54, reset by reset: what each command does where it acts, by the state of the tile, of the clock or of the bridge. -/
theorem resetsAndClocks : Obligations.ResetsAndClocks := by
  intro t c g b s hp
  refine ⟨fun w hw => ⟨exec_warmReset hp hw, exec_warmReset_held hp hw⟩, exec_warm hp,
    fun ht hc hh => ⟨exec_tileFaultReset hp ht hc hh, exec_watchdog hp ht hc hh⟩, fun hr => ?_, fun hh => ?_, fun hh => ?_,
    fun hd hl => ?_, fun d hd hdue hst => ⟨fun hs => ?_, fun e he => ⟨fun same => ?_, fun diff => ?_⟩⟩,
    fun d hd hdue hst hq hw acc v hv ha => ?_, fun d hd hdue hq => ⟨fun hw => ?_, fun hw => ?_⟩,
    fun d hd hr h2 => ⟨fun u hu hj => ?_, fun p lo hi hj => ?_⟩, fun hh => exec_coldReset (State.cold_vaonUp hh), exec_lossOfVaon hp⟩
  · rw [exec_faultReset hp hr, exec_tileStop hp hr, exec_tileStart hp hr]
    exact ⟨rfl, fun h => congrArg _ (State.tileStop_serving h), fun h1 h2 h3 => congrArg _ (State.tileStop_other h1 h2 h3),
      fun h hold => congrArg _ (State.tileStart_free h hold), fun h hold => congrArg _ (State.tileStart_held h hold),
      fun h => congrArg _ (State.tileStart_stopping h), fun h1 h2 => congrArg _ (State.tileStart_other h1 h2)⟩
  · rw [exec_refclkLoss hp, State.refLoss_present hp hh]
  · rw [exec_refclkRestored hp, State.refBack_held hh]
    exact ⟨fun hw => by simp [hw], fun hw => by simp [Option.isSome_iff_ne_none.2 hw]; rfl⟩
  · have locked := State.locked_of_relocked hd hl
    rw [exec_pllLockLoss hp]
    exact ⟨fun u hu hg => congrArg _ (State.pllLoss_tile locked hu hg), fun hg => congrArg _ (State.pllLoss_mesh locked hg),
      fun p hg hpv => congrArg _ (State.pllLoss_port locked hg hpv)⟩
  · rw [exec_pendingAccessComplete hp, State.pendGoesOn_alone hd (by simp [hs])]
  · rw [exec_pendingAccessComplete hp, State.pendGoesOn_both hd he same]
  · rw [exec_pendingAccessComplete hp, State.pendGoesOn_alone hd fun a ha => by rwa [Option.some.inj (ha.symm.trans he)]]
  · rw [exec_pendingAccessComplete hp, State.pendGoesOn_smb, State.pendOn_smbWrite hd (State.pendReady_iff.2 ⟨hdue, hst⟩) hq hw hv ha]
  · rw [exec_pendingAccessRelease hp, State.pendReleased_write hd hdue hq hw]
  · rw [exec_pendingAccessRelease hp, State.pendReleased_read hd hdue hq hw]
  · rw [exec_resetPend hp hr, State.resetPend_tile hd h2 hu hj]
  · rw [exec_resetPend hp hr, State.resetPend_port hd h2 lo hi hj]

end Sys2Proof.Machine
end

section
/-! PROOFS. Power loss and its records: `PowerLossAndItsRecords` (R329, R336 to R340, R348). -/

namespace Sys2Proof.Machine

/-! ### A commit leaves the warning of VAON as it is (R339, R375) -/

theorem Ledger.kick_warned (l : Ledger) : l.kick.warned = l.warned := by
  unfold Ledger.kick
  split <;> rfl

theorem Ledger.shut_warned (l : Ledger) (now : Nat) : (l.shut now).warned = l.warned := by
  unfold Ledger.shut
  repeat' split
  all_goals rfl

theorem Ledger.commit_warned (l : Ledger) (base : Nat) (b : Body) (post : List Deferred) : (l.commit base b post).warned = l.warned := by
  unfold Ledger.commit
  dsimp only
  split
  · rfl
  · exact (Ledger.kick_warned _).trans (congrArg Ledger.warned (Ledger.push_frame _ _) :)

theorem State.commit_warned (s : State) (base : Nat) (b : Body) (post : List Deferred) :
    (s.commit base b post).ldg.warned = s.ldg.warned :=
  (Ledger.commit_warned _ base b post).trans (Ledger.shut_warned _ _)

/-! ### PWRFAIL_N falls (R336, R340, R348) -/

variable {s : State} {n : Nat}

theorem State.pwrfailFalls_short (hn : n < 4) : s.pwrfailFalls n = s := if_pos (.inl hn)

/-- The supervisor that drains: the programme and every action given up, the tiles whose records stand counted as seen. -/
def Sup.draining (u : Sup) (seen : List TileId) : Sup :=
  { u with
    pwrfail := true, pwrHighAt := none, fellIn := u.st, finalReq := false, finalDone := false
    st := .draining, finalCause := 1, byPwrfail := true, running := false, busy := false, subset := none, resume := none
    action := none, waiting := [], sysPhase := 0, held := [], heldOff := false, drainSeen := seen
    drainTiles := seen, retryDoms := [], clean := false }

section
variable (hn : 4 ≤ n) (hp : s.sup.pwrfail = false)
include hn hp

theorem State.pwrfailFalls_drains (hst : s.sup.st = .on ∨ s.sup.st = .degraded ∨ s.sup.st = .recovering ∨ s.sup.st = .stopping) :
    s.pwrfailFalls n =
      let s1 : State := { s with ldg := { s.ldg with closeAt := some (s.now + us 10) }, sup := s.sup.draining s.seenTiles }
      if s.clk.refHold then s1 else s1.signalDrain := by
  have nd : s.sup.st ≠ .draining := by rintro h; simp [h] at hst
  have go : decide (s.sup.st = .on ∨ s.sup.st = .degraded ∨ s.sup.st = .recovering ∨ s.sup.st = .stopping) = true := decide_eq_true hst
  simp only [State.pwrfailFalls, Nat.not_lt.2 hn, hp, Bool.false_eq_true, or_self, if_false, nd, go, if_true]
  rfl

/-- Where a programme runs, or something is on in STANDBY, the off programme begins. -/
theorem State.pwrfailFalls_powersDown
    (hst : s.sup.st = .poweringUp ∨ s.sup.st = .poweringDown ∨ (s.sup.st = .standby ∧ s.sup.anyOn = true)) :
    s.pwrfailFalls n = { s with
      ldg := { s.ldg with closeAt := some (s.now + us 10) }
      sup := { ({ s.sup with
        pwrfail := true, pwrHighAt := none, fellIn := s.sup.st, finalReq := false, finalDone := false } : Sup).powerDown with
          finalCause := 3, byPwrfail := true } } := by
  have on : s.sup.anyOn = true → ∀ u : Sup, u.rails = s.sup.rails → u.doms = s.sup.doms → u.anyOn = true := fun h u hr hd =>
    (Sup.anyOn_congr hr hd).trans h
  obtain h | h | ⟨h, ha⟩ := hst
  · simp [State.pwrfailFalls, hp, h, Nat.not_lt.2 hn, State.modSup, State.modLdg]
  · simp [State.pwrfailFalls, hp, h, Nat.not_lt.2 hn, State.modSup, State.modLdg]
  · simp [State.pwrfailFalls, hp, h, Nat.not_lt.2 hn, State.modSup, State.modLdg, on ha]

theorem State.pwrfailFalls_quiet (hst : (s.sup.st = .standby ∧ s.sup.anyOn = false) ∨ s.sup.st = .offWait ∨ s.sup.st = .off) :
    s.pwrfailFalls n = { s with ldg := { s.ldg with closeAt := some (s.now + us 10) }, sup := s.sup.fallRecorded } := by
  obtain ⟨h, ha⟩ | h | h := hst
  · exact State.pwrfailFalls_standby hn hp h ha
  · simp [State.pwrfailFalls, hp, h, Nat.not_lt.2 hn, State.modSup, State.modLdg, Sup.fallRecorded]
  · simp [State.pwrfailFalls, hp, h, Nat.not_lt.2 hn, State.modSup, State.modLdg, Sup.fallRecorded]

end

/-! ### The tiles' records, and the final record (R337, R339) -/

theorem State.requestRecord_drained {t : TileId} (hq : (s.tile t).ctl.recReq = false) (hd : (s.tile t).ctl.draining = true)
    (hc : (s.tile t).ctl.cairnLeft = 0) : s.requestRecord t = (s.writeCairn t).drainRecord t 1 s.ldg.start := by
  simp [State.requestRecord, hq, hd, hc]

theorem State.requestRecord_packed {t : TileId} (hq : (s.tile t).ctl.recReq = false) (hd : (s.tile t).ctl.draining = false)
    (hk : (s.tile t).ctl.packing = true) (hp : s.packed t = true) (hc : (s.tile t).ctl.lastCkpt = 2) :
    s.requestRecord t = s.drainRecord t 2 s.ldg.start := by
  simp [State.requestRecord, hq, hd, hk, hp, hc]

/-- The final record is requested once what it waits for is in. -/
theorem State.finalRecord_due (hf : s.sup.finalCause ≠ 0) (hq : s.sup.finalReq = false)
    (hd : s.sup.finalCause = 1 → s.sup.drained = true) (hw : s.ldg.warned = false) :
    s.finalRecord = ({ s with sup := { s.sup with finalReq := true } } : State).commit baseFinal
      (.final s.sup.finalCause (BitVec.ofNat 8 s.sup.fellIn.code)
        (BitVec.ofNat 8 ((s.sup.drainSeen.map fun u => bit u.val true).sum)) s.ldg.start s.sf (BitVec.ofNat 16 s.sup.lastUs))
      [.finalDone] := by
  have waits : ¬(s.sup.finalCause = 0 ∨ s.sup.finalReq = true ∨ (s.sup.finalCause = 1 ∧ s.sup.drained = false)) := by
    simp_all
  have calm : ((s.modSup fun u => { u with finalReq := true }).ldg).warned = false := hw
  unfold State.finalRecord
  dsimp only
  rw [if_neg waits, State.commit_warned, calm]
  rfl

theorem State.vaonWarns_requested (hq : s.sup.finalReq = true) :
    s.vaonWarns = { s with ldg := ({ s.ldg with closed := true, warned := true } : Ledger).finalFirst } :=
  if_pos hq

theorem State.vaonWarns_first (hq : s.sup.finalReq = false) :
    s.vaonWarns = ({ s with
      ldg := ({ s.ldg with closed := true, warned := true } : Ledger).finalFirst
      sup := { s.sup with finalCause := 2, fellIn := if s.sup.pwrfail then s.sup.fellIn else s.sup.st } } : State).finalRecord :=
  if_neg (by simp [hq])

/-! ### PWRFAIL_N rises, AUTO_ON (R336, R340; log 55) -/

theorem State.pwrfailRises_standing (hp : s.sup.pwrfail = true) (h : s.sup.st ≠ .standby) :
    s.pwrfailRises = { s with sup := { s.sup with pwrfail := false, pwrHighAt := some s.now } } := by
  simp [State.pwrfailRises, hp, h, State.modSup]

theorem State.pwrfailRises_standby (hp : s.sup.pwrfail = true) (h : s.sup.st = .standby) :
    s.pwrfailRises = { s with
      sup := { s.sup with pwrfail := false, pwrHighAt := some s.now }
      ldg := ({ s.ldg with closed := s.ldg.warned, closeAt := none } : Ledger).pump } := by
  simp [State.pwrfailRises, hp, h, State.modSup, State.modLdg]

theorem State.autoOns_due {m : Nat} (hm : s.sup.pwrHighAt = some m) (hst : s.sup.st = .off) (ha : s.sup.autoOn = true)
    (hb : s.sup.byPwrfail = true) (hp : s.sup.pwrfail = false) :
    s.autoOns = ((s.till (m + ms 10)).modSup fun u => { u with byPwrfail := false }).onReq := by
  simp [State.autoOns, hm, hst, ha, hb, hp]

/-! ### The commands -/

section
variable (hp : s.powered = true)
include hp

theorem exec_pwrfailFall : exec (.pwrfailFall n) s = .next (s.after (s.pwrfailFalls n)) :=
  (State.doAll_enabled hp rfl : execPwrfailFall n s = _)

theorem exec_drainRecordCommit {t : TileId} (ht : s.hasTile t = true) (hh : s.clk.refHold = false) :
    exec (.drainRecordCommit t) s = .next (s.requestRecord t) :=
  (State.doIf_enabled hp (by simp [ht, hh]) : execDrainRecordCommit t s = _)

theorem exec_finalRecord : exec .finalRecord s = .next s.finalRecord := (State.doIf_enabled hp rfl : execFinalRecord s = _)

theorem exec_vaonWarning : exec .vaonWarning s = .next s.vaonWarns := (State.doIf_enabled hp rfl : execVaonWarning s = _)

theorem exec_pwrfailRise : exec .pwrfailRise s = .next s.pwrfailRises := (State.doIf_enabled hp rfl : execPwrfailRise s = _)

theorem exec_autoOn : exec .autoOn s = .next s.autoOns := (State.doIf_enabled hp rfl : execAutoOn s = _)

end

/-- Settles O48: the fall by its length and the supervisor's state, each record by what it waits for, the warning, the rise. -/
theorem powerLossAndItsRecords : Obligations.PowerLossAndItsRecords := by
  intro n t s hp
  rw [exec_pwrfailFall hp, exec_finalRecord hp, exec_vaonWarning hp, exec_pwrfailRise hp, exec_autoOn hp]
  refine ⟨fun hn => ?_, fun hn low => ⟨fun hst => ?_, fun hst => ?_, fun hst => ?_⟩,
    fun ht hh hq => ?_, fun hf hq hd hw => congrArg _ (State.finalRecord_due hf hq hd hw),
    fun hq => congrArg _ (State.vaonWarns_requested hq), fun hq => congrArg _ (State.vaonWarns_first hq),
    fun low => ⟨fun h => congrArg _ (State.pwrfailRises_standing low h), fun h => congrArg _ (State.pwrfailRises_standby low h)⟩,
    fun m hm hst ha hb high => congrArg _ (State.autoOns_due hm hst ha hb high)⟩
  · rw [State.pwrfailFalls_short hn]
  · rw [State.pwrfailFalls_drains hn low hst]
    exact ⟨fun hh => by rw [hh]; rfl, fun hh => by rw [hh]; rfl⟩
  · rw [State.pwrfailFalls_powersDown hn low hst]
  · rw [State.pwrfailFalls_quiet hn low hst]
    rfl
  · rw [exec_drainRecordCommit hp ht hh]
    exact ⟨fun hd hc => congrArg _ (State.requestRecord_drained hq hd hc),
      fun hd hk hpk hc => congrArg _ (State.requestRecord_packed hq hd hk hpk hc)⟩

end Sys2Proof.Machine
end

section
/-! PROOFS. Off and on, the prelude and their times: `OffOnAndTheirTimes` (R317, R322, R328 to R332, R336, R362, R378, R397). -/

namespace Sys2Proof.Machine

variable {s : State}

/-! ### Requests (R328 to R332, Table 12.9) -/

theorem State.offReq_serving (h : s.sup.st = .on ∨ s.sup.st = .degraded) : s.offReq = s.cleanStop := by
  obtain h | h := h <;> simp only [State.offReq, h]

/-- On its way down, and in OFF, the supervisor forgets the on request that waits. -/
theorem State.offReq_down
    (h : (s.sup.st = .stopping ∨ s.sup.st = .draining ∨ s.sup.st = .poweringDown ∨ s.sup.st = .offWait) ∨ s.sup.st = .off) :
    s.offReq = { s with sup := { s.sup with pendOn := false } } := by
  obtain (h | h | h | h) | h := h <;> simp only [State.offReq, h, State.modSup]

theorem State.offReq_systemAction {x : RailId} (h : s.sup.st = .recovering) (ha : s.sup.action = some (.system x)) :
    s.offReq = { s with sup := { s.sup with sysOff := true, pendOn := false } } := by
  simp only [State.offReq, h, ha, State.modSup]

/-- Any other action has the request held. -/
theorem State.offReq_held (h : s.sup.st = .recovering) (ha : ∀ x, s.sup.action ≠ some (.system x)) :
    s.offReq = { s with sup := { s.sup with held := s.sup.held ++ [false], pendOn := false } } := by
  simp only [State.offReq, h, State.modSup]

theorem State.onReq_off (h : s.sup.st = .off) : s.onReq = s.askWarm 6 := by simp only [State.onReq, h]

theorem State.onReq_down (h : s.sup.st = .stopping ∨ s.sup.st = .draining ∨ s.sup.st = .poweringDown ∨ s.sup.st = .offWait) :
    s.onReq = { s with sup := { s.sup with pendOn := true } } := by
  obtain h | h | h | h := h <;> simp only [State.onReq, h, State.modSup]

/-! ### The times of a stop (R329, R331, R332, R327) -/

theorem State.cleanStopLate_due {t : TileId} (h : s.sup.st = .stopping) (ht : s.sup.drainTiles.contains t = true)
    (hs : s.sup.drainSeen.contains t = false) : s.cleanStopLate t = (s.till (s.sup.drainAt + ms 1000)).drainTile t :=
  if_pos ⟨h, ht, hs⟩

/-- The state once the minimum off time of a programme of the device has passed: 50 ms. -/
def State.offTimePassed (s : State) : State :=
  (s.till (s.sup.offAt + ms 50)).modSup fun u => { u with st := .off, action := none, waiting := [], sysPhase := 0, sysOff := false }

/-- An on request that waits asks for its warm reset, where PWRFAIL_N has been high for 10 ms. -/
theorem State.offTimeEnds_offWait (h : s.sup.st = .offWait) :
    s.offTimeEnds =
      if s.sup.pendOn = true ∧ s.sup.pwrfail = false ∧ ∀ m, s.sup.pwrHighAt = some m → m + ms 10 ≤ s.offTimePassed.now then
        (s.offTimePassed.modSup fun u => { u with pendOn := false }).askWarm 6
      else s.offTimePassed := by
  unfold State.offTimeEnds
  dsimp only
  simp only [h]
  congr 1
  cases hm : s.sup.pwrHighAt <;> simp [State.modSup, State.offTimePassed, hm]

/-- The end of a SYSTEM action, 50 ms after its off programme. -/
theorem State.offTimeEnds_system {x : RailId} (h : s.sup.st = .recovering) (ha : s.sup.action = some (.system x))
    (hp : s.sup.sysPhase = 3) :
    s.offTimeEnds =
      let s1 := (s.till (s.sup.offAt + ms 50)).modSup fun u => { u with action := none, waiting := [], sysPhase := 0, sysOff := false }
      if s.sup.sysOff then
        s1.modSup fun u => { u with st := .off, rails := u.rails.map fun e => (e.1, { e.2 with forced := false }) }
      else s1.askWarm 5 := by
  by_cases ho : s.sup.sysOff = true
  · simp [State.offTimeEnds, h, ha, hp, ho, Sup.unforced, State.modSup]
  · simp [State.offTimeEnds, h, ha, hp, ho, State.modSup]

/-! ### The prelude (R317, R322, R358, R378, R397) -/

theorem State.prelude_begins {p : Prelude} (hu : s.sup.startsUp = true) (hr : s.boot.recalled = true) (hv : s.boot.vgpio = false)
    (hf : s.sup.preludeFail = false) (hp : s.sup.prelude = false) (hh : s.clk.refHold = false) :
    s.prelude_ p = { s with
      dbg := { s.dbg with en := p.dbgEn }, smb := { s.smb with pins := p.smbAddr }
      sup := { s.sup.modRail 1 fun r => { r with en := true, st := if r.st = .on then .on else .checking, trans := 0 } with
        prelude := true, preludeAt := s.now } } :=
  if_neg (by simp [hu, hr, hv, hf, hp, hh])

/-- VGPIO in regulation, its check passed with `n` transitions. -/
def State.vgpioOn (s : State) (n : Byte) : State :=
  ((s.till (s.sup.preludeAt + aon s.sup.dwell)).modSup fun u => { u with prelude := false }).modRail 1 fun r =>
    { r with pg := true, st := .on, forced := false, retrying := false, trans := n }

theorem State.checkPasses_prelude (hc : s.sup.preludeCheck = true) (n : Byte) :
    s.checkPasses n = (if n ≠ 0 then (s.vgpioOn n).raise 2 (fld 0 1 ||| fld 8 n.toNat) else s.vgpioOn n).vgpioUp :=
  if_pos hc

theorem State.checkFails_prelude (hc : s.sup.preludeCheck = true) (n : Byte) : s.checkFails n = s.preludeFails n := if_pos hc

theorem State.preludeAgain_failed (hf : s.sup.preludeFail = true) :
    s.preludeAgain = (s.till (s.sup.preludeAt + ms 1000)).modSup fun u =>
      ({ u with preludeFail := false } : Sup).modRail 1 fun r => { r with st := .off } :=
  if_pos hf

/-! ### The on programme of start-up, and a waiting on request (R332, R336, R358) -/

section
variable {m : Nat} (hm : s.sup.pwrHighAt = some m) (hp : s.sup.pwrfail = false)
include hm hp

theorem State.onBegins_startUp (hu : s.sup.startsUp = true) (hd : s.sup.onDue = true) :
    s.onBegins = ((s.till (m + ms 10)).modSup fun u => { u with onDue := false }).powerUp := by
  have settled : (s.till (m + ms 10)).pwrSettled = true := by simp [State.pwrSettled, hm, hp]
  simp [State.onBegins, hm, hp, hu, hd, State.startOn, settled]

theorem State.onBegins_off (hst : s.sup.st = .off) (ho : s.sup.pendOn = true) :
    s.onBegins = ((s.till (m + ms 10)).modSup fun u => { u with pendOn := false }).askWarm 6 := by
  simp [State.onBegins, hm, hp, hst, ho, Sup.startsUp]

end

/-! ### The commands -/

section
variable (hp : s.powered = true)
include hp

theorem exec_off (hr : s.reach 0x10000 = true) : exec .off s = .next (s.after s.offReq) :=
  (State.doAll_enabled hp hr : execOff s = _)

theorem exec_on (hr : s.reach 0x10000 = true) : exec .on s = .next s.onReq :=
  (State.doIf_enabled hp hr : execOn s = _)

theorem exec_cleanStopTimeout {t : TileId} : exec (.cleanStopTimeout t) s = .next (s.after (s.cleanStopLate t)) :=
  (State.doAll_enabled hp rfl : execCleanStopTimeout t s = _)

theorem exec_minimumOffTimeExpiry : exec .minimumOffTimeExpiry s = .next s.offTimeEnds :=
  (State.doIf_enabled hp rfl : execMinimumOffTimeExpiry s = _)

theorem exec_vgpioPrelude {p : Prelude} : exec (.vgpioPrelude p) s = .next (s.prelude_ p) :=
  (State.doIf_enabled hp rfl : execVgpioPrelude p s = _)

theorem exec_checkPass {n : Byte} : exec (.checkPass n) s = .next (s.checkPasses n) :=
  (State.doIf_enabled hp rfl : execCheckPass n s = _)

theorem exec_checkTimeoutRailFail {n : Byte} : exec (.checkTimeoutRailFail n) s = .next (s.after (s.checkFails n)) :=
  (State.doAll_enabled hp rfl : execCheckTimeoutRailFail n s = _)

theorem exec_preludeRepeat : exec .preludeRepeat s = .next s.preludeAgain :=
  (State.doIf_enabled hp rfl : execPreludeRepeat s = _)

theorem exec_onProgrammeBegins : exec .onProgrammeBegins s = .next s.onBegins :=
  (State.doIf_enabled hp rfl : execOnProgrammeBegins s = _)

end

/-- Settles O49: the two requests by the supervisor's state, the off times, the prelude from its begin to its repetition, the on
programme. -/
theorem offOnAndTheirTimes : Obligations.OffOnAndTheirTimes := by
  intro t n s hp
  rw [exec_minimumOffTimeExpiry hp, exec_preludeRepeat hp, exec_onProgrammeBegins hp]
  refine ⟨fun hr => ?_, fun h ht hs => ?_, fun h => ?_, fun x h ha hph => ?_, fun hu hr hv hf hpr hh b a => ?_, fun hpr hrun => ?_,
    fun hf => congrArg _ (State.preludeAgain_failed hf), fun m hm hl hu hd => congrArg _ (State.onBegins_startUp hm hl hu hd),
    fun m hm hl hst ho => congrArg _ (State.onBegins_off hm hl hst ho)⟩
  · rw [exec_off hp hr, exec_on hp hr]
    exact ⟨fun h => by rw [State.offReq_serving h], fun h => congrArg _ (State.onReq_off h),
      fun h => ⟨by rw [State.offReq_down (.inl h)], congrArg _ (State.onReq_down h)⟩, fun h => by rw [State.offReq_down (.inr h)],
      fun x h ha => by rw [State.offReq_systemAction h ha], fun h ha => by rw [State.offReq_held h ha]⟩
  · rw [exec_cleanStopTimeout hp, State.cleanStopLate_due h ht hs]
  · rw [State.offTimeEnds_offWait h]
    exact ⟨fun hn => congrArg _ (if_neg (by rintro ⟨ho, hl, -⟩; simp_all)), fun ho hl hs => congrArg _ (if_pos ⟨ho, hl, hs⟩)⟩
  · rw [State.offTimeEnds_system h ha hph]
    exact ⟨fun ho => congrArg _ (if_pos ho), fun ho => congrArg _ (if_neg (by simp [ho]))⟩
  · rw [exec_vgpioPrelude hp, State.prelude_begins hu hr hv hf hpr hh]
  · have hc : s.sup.preludeCheck = true := by simp [Sup.preludeCheck, hpr, hrun]
    rw [exec_checkPass hp, exec_checkPass hp, exec_checkTimeoutRailFail hp, State.checkPasses_prelude hc, State.checkPasses_prelude hc,
      State.checkFails_prelude hc]
    exact ⟨rfl, fun hn => by rw [if_pos hn]; rfl, rfl⟩

end Sys2Proof.Machine
end

section
/-! PROOFS. What a read of the supervisor gives after a change of a rail (R313, R314). -/

namespace Sys2Proof.Machine

/-! ### Of the supervisor -/

theorem Sup.rail_modRail (u : Sup) (x : RailId) (f : Rail → Rail) (y : RailId) :
    (u.modRail x f).rail y = if y = x then f (u.rail x) else u.rail y := by
  simp only [Sup.rail, Sup.modRail, Tab.get_upd, Fin.ext_iff]

theorem Sup.rail_advance (u : Sup) (y : RailId) : u.advance.rail y = u.rail y := by
  unfold Sup.advance
  dsimp only
  split <;> rfl

theorem Sup.rail_startDom (u : Sup) (d : DomainId) (y : RailId) : (u.startDom d).rail y = u.rail y := by
  unfold Sup.startDom
  repeat' split
  all_goals rfl

/-! ### Of the state -/

@[simp] theorem State.rail_modRail (s : State) (x : RailId) (f : Rail → Rail) (y : RailId) :
    (s.modRail x f).sup.rail y = if y = x then f (s.sup.rail x) else s.sup.rail y := s.sup.rail_modRail x f y

@[simp] theorem State.modRail_st (s : State) (x : RailId) (f : Rail → Rail) : (s.modRail x f).sup.st = s.sup.st := rfl
@[simp] theorem State.modRail_pc (s : State) (x : RailId) (f : Rail → Rail) : (s.modRail x f).sup.pc = s.sup.pc := rfl
@[simp] theorem State.modRail_passed (s : State) (x : RailId) (f : Rail → Rail) : (s.modRail x f).sup.passed = s.sup.passed := rfl

end Sys2Proof.Machine
end

section
/-! PROOFS. Domains, power-good falls and fault actions: `DomainsRailsAndActions` (R316, R323 to R327, R334). -/

namespace Sys2Proof.Machine

variable {s : State} {d : DomainId} {x : RailId} {n : Nat}

/-! ### A fall of PG (R314, R323, R324; log 100, log 155) -/

/-- The rail's PG counts as low. -/
def State.pgLow (s : State) (x : RailId) : State := s.modRail x fun r => { r with pg := false }

theorem State.pgPulse_zero (hx : x.val ≠ 0) : s.pgPulse x 0 = s.modRail x fun r => { r with pg := r.en } := if_neg hx

theorem State.pgPulse_fall (hx : x.val ≠ 0) (hn : 0 < n) :
    s.pgPulse x n = (s.pgFalls x (decide (s.sup.filt ≤ n))).modRail x fun r => { r with pg := r.en } := by
  simp [State.pgPulse, hx, Nat.pos_iff_ne_zero.1 hn]

section
variable (hx : x.val ≠ 0) (on : (s.sup.rail x).st = .on)
include hx on

theorem State.pgFalls_running (hst : s.sup.st = .on ∨ s.sup.st = .degraded ∨ s.sup.st = .recovering ∨ s.sup.st = .stopping) :
    s.pgFalls x true = (s.pgLow x).railFault x ∧
      s.pgFalls x false = s.modRail x fun r => { r with glitch := min (r.glitch + 1) 65535 } := by
  obtain h | h | h | h := hst <;>
    simp [State.pgFalls, hx, on, h, State.pgLow, Rail.counted]

/-- In the on programme a rail that had passed its CHECK fails to come up, whatever the length of the fall (R323). -/
theorem State.pgFalls_poweringUp (long : Bool) (hst : s.sup.st = .poweringUp) (hp : s.sup.passed.contains x = true) :
    s.pgFalls x long = (if long then s.pgLow x else s).comeUpFails x (s.sup.rail x).trans s.sup.pc := by
  cases long <;> simp_all [State.pgFalls, State.pgLow]

theorem State.pgFalls_quiet (long : Bool) (hst : s.sup.st = .standby ∨ s.sup.st = .off) :
    s.pgFalls x long = if long then s.pgLow x else s := by
  obtain h | h := hst <;> cases long <;> simp [State.pgFalls, hx, on, h, State.pgLow]

end

/-! ### RETRY and SYSTEM actions (R325 to R327) -/

theorem State.retryAgain_due (ha : s.sup.action = some (.retry x)) (he : (s.sup.rail x).en = false) :
    s.retryAgain x = ((s.till (s.sup.since + ms s.sup.retryOff)).modRail x
      fun r => { r with en := true, st := .checking, trans := 0 }).modSup fun u =>
        { u with since := (s.till (s.sup.since + ms s.sup.retryOff)).now } :=
  if_pos ⟨ha, he⟩

/-- The rails that a drain needs are in regulation (R327). -/
def Sup.drainFed (u : Sup) : Prop := ∀ y : RailId, y = 2 ∨ y = 3 ∨ y = 6 ∨ y = 7 → (u.rail y).pg = true ∧ (u.rail y).st = .on

/-- The drain of a SYSTEM action, signalled to every tile that takes part. -/
def State.systemDrain (s : State) : State :=
  (s.modSup fun u => { u with sysPhase := 1, drainSeen := s.seenTiles, drainTiles := s.seenTiles, clean := false }).signalDrain

section
variable (ha : s.sup.action = some (.system x))
include ha

theorem State.systemBegins_fed (hp : s.sup.sysPhase = 0) (fed : s.sup.drainFed) :
    s.systemBegins = if s.systemDrain.sup.drained then s.systemDrain.systemDown true else s.systemDrain := by
  have ok : ([2, 3, 6, 7].all fun (y : RailId) => (s.sup.rail y).pg && decide ((s.sup.rail y).st = .on)) = true := by
    simpa using ⟨fed 2 (by simp), fed 3 (by simp), fed 6 (by simp), fed 7 (by simp)⟩
  unfold State.systemBegins
  simp only [ha, hp, ok, if_true, ne_eq, not_true_eq_false, if_false]
  rfl

theorem State.systemBegins_unfed (hp : s.sup.sysPhase = 0) (unfed : ¬s.sup.drainFed) : s.systemBegins = s.systemDown false := by
  have bad : ¬([2, 3, 6, 7].all fun (y : RailId) => (s.sup.rail y).pg && decide ((s.sup.rail y).st = .on)) = true := by
    intro h
    refine unfed fun y hy => ?_
    simp only [List.all_cons, List.all_nil, Bool.and_true, Bool.and_eq_true, decide_eq_true_eq] at h
    obtain ⟨h2, h3, h6, h7⟩ := h
    obtain rfl | rfl | rfl | rfl := hy <;> assumption
  unfold State.systemBegins
  simp only [ha, hp, bad, ne_eq, not_true_eq_false, if_false]
  rfl

theorem State.systemTimeout_due (hp : s.sup.sysPhase = 1) :
    s.systemTimeout = ((s.sup.drainTiles.filter fun t => !s.sup.drainSeen.contains t).foldl (fun s t => s.dropDrain t)
      (s.till (s.sup.drainAt + us 1500))).systemDown true := by
  simp [State.systemTimeout, ha, hp]

end

/-! ### The commands -/

section
variable (hp : s.powered = true)
include hp

section
variable (hd : s.hasDom d = true)
include hd

theorem exec_domainOn (hst : (s.sup.dom d).st = .starting) :
    exec (.domainOn d) s = .next (s.after (s.domStarted d).seqGoOn.retryEnds) :=
  (State.doAll_enabled hp (by simp [hd, hst]) : execDomainOn d s = _)

theorem exec_domainStartTimeout (hst : (s.sup.dom d).st = .starting) :
    exec (.domainStartTimeout d) s = .next (s.after
      ((s.till (s.sup.since + us 20)).modDom d fun y => { y with st := .off, failed := true }).seqGoOn.retryEnds) :=
  (State.doAll_enabled hp (by simp [hd, hst]) : execDomainStartTimeout d s = _)

theorem exec_domainOff (hst : (s.sup.dom d).st = .stopping) :
    exec (.domainOff d) s = .next (s.after (((s.domLost d).modDom d fun y =>
      if y.pendEn then { y with st := .starting, pendEn := false, failed := false } else y).seqGoOn.retryFalls)) :=
  (State.doAll_enabled hp (by simp [hd, hst]) : execDomainOff d s = _)

end

theorem exec_pgFall : exec (.pgFall x n) s = .next (s.after (s.pgPulse x n)) :=
  (State.doAll_enabled hp rfl : execPgFall x n s = _)

theorem exec_runningFault : exec (.runningFault x) s = .next (s.after (s.pgFalls x true)) :=
  (State.doAll_enabled hp rfl : execRunningFault x s = _)

theorem exec_retryOffExpiry : exec (.retryOffExpiry x) s = .next (s.after (s.retryAgain x)) :=
  (State.doAll_enabled hp rfl : execRetryOffExpiry x s = _)

theorem exec_systemAction : exec .systemAction s = .next (s.after s.systemBegins) :=
  (State.doAll_enabled hp rfl : execSystemAction s = _)

theorem exec_systemDrainTimeout : exec .systemDrainTimeout s = .next s.systemTimeout :=
  (State.doIf_enabled hp rfl : execSystemDrainTimeout s = _)

end

/-- Settles O51: the domains as the commands say, a fall of PG by its length and the supervisor's state, the actions by their phase. -/
theorem domainsRailsAndActions : Obligations.DomainsRailsAndActions := by
  intro d x n s hp
  rw [exec_pgFall hp, exec_runningFault hp, exec_retryOffExpiry hp, exec_systemAction hp, exec_systemDrainTimeout hp]
  refine ⟨fun hd hst => ⟨exec_domainOn hp hd hst, exec_domainStartTimeout hp hd hst⟩, exec_domainOff hp,
    fun hx => ⟨fun hn => ?_, fun hn on => ⟨fun hst => ⟨fun short => ?_, fun long => ?_, ?_⟩, fun hst hps => ?_, fun hst => ?_⟩⟩,
    fun ha he => ?_, fun ha hph => ⟨fun fed hd => ?_, fun fed hd => ?_, fun unfed => ?_⟩,
    fun ha hph => congrArg _ (State.systemTimeout_due ha hph)⟩
  · rw [hn, State.pgPulse_zero hx]
  · rw [State.pgPulse_fall hx hn, decide_eq_false (Nat.not_le.2 short), (State.pgFalls_running hx on hst).2]
  · rw [State.pgPulse_fall hx hn, decide_eq_true long, (State.pgFalls_running hx on hst).1]
    rfl
  · rw [(State.pgFalls_running hx on hst).1]
    rfl
  · rw [State.pgPulse_fall hx hn, State.pgFalls_poweringUp hx on _ hst hps]
    simp only [decide_eq_true_eq]
    rfl
  · rw [State.pgPulse_fall hx hn, State.pgFalls_quiet hx on _ hst]
    simp only [decide_eq_true_eq]
    rfl
  · rw [State.retryAgain_due ha he]
  · rw [State.systemBegins_fed ha hph fed]
    exact congrArg (fun v => Host.Outcome.next (s.after v)) (if_neg (Bool.eq_false_iff.1 hd))
  · rw [State.systemBegins_fed ha hph fed]
    exact congrArg (fun v => Host.Outcome.next (s.after v)) (if_pos hd)
  · rw [State.systemBegins_unfed ha hph unfed]

end Sys2Proof.Machine
end

section
/-! PROOFS. A domain that goes dark leaves the supervisor alone, and one that is lost its own entry apart (R316). -/

namespace Sys2Proof.Machine

variable (s : State)

/-! ### What ends with a domain -/

theorem State.sup_eq_of_outside {s t : State} (h : s.outside = t.outside) : s.sup = t.sup := (congrArg State.sup h :)

theorem State.foldl_sup {α : Type} {f : State → α → State} (hf : ∀ s a, (f s a).sup = s.sup) (l : List α) (s : State) :
    (l.foldl f s).sup = s.sup :=
  List.foldlRecOn (motive := fun v : State => v.sup = s.sup) l f rfl fun v h a _ => (hf v a).trans h

@[simp] theorem State.dropLogic_outside (t : TileId) : (s.dropLogic t).outside = s.outside := by
  unfold State.dropLogic
  extract_lets s1 s2 s3 s4 s5 s6 s7
  have work : s7.outside = s.outside := by
    rw [show s7.outside = s6.outside from State.foldl_outside (fun v f => State.foldl_outside (fun v a => by simp) _ _) _ _,
      show s6.outside = s5.outside from State.foldl_outside (fun v e => ?_) _ _,
      show s5.outside = s4.outside from State.foldl_outside (fun v e => State.foldl_outside (fun v a => by simp) _ _) _ _]
    · simp [s4, s3, s2, s1]
    · split
      · exact State.foldl_outside (fun v a => by simp) _ _
      · rfl
  split
  · exact (State.foldl_outside (fun v a => by simp) _ _).trans work
  · exact work

@[simp] theorem State.engineDark_outside (t : TileId) : (s.engineDark t).outside = s.outside := by simp [State.engineDark]
@[simp] theorem State.logicLost_outside (t : TileId) : (s.logicLost t).outside = s.outside := by simp [State.logicLost]
@[simp] theorem State.sramLost_outside (t : TileId) : (s.sramLost t).outside = s.outside := by simp [State.sramLost]

theorem State.raise_sup (n : Nat) (detail : BitVec 64) (bit : Bool) (f : BitVec 64 → BitVec 64) :
    (s.raise n detail bit f).sup = s.sup :=
  State.sup_eq_of_outside (s.raise_outside n detail bit f)

theorem State.endSession_sup (x : SessId) (c : BitVec 3) : (s.endSession x c).sup = s.sup :=
  State.sup_eq_of_outside (s.endSession_outside x c)

theorem State.forgetEnr_sup (dark : PortId → Bool) : (s.forgetEnr dark).sup = s.sup := by
  unfold State.forgetEnr
  dsimp only
  rw [State.foldl_sup]
  exact fun v x => v.modSes_sup x _

theorem State.setLink_sup (p : PortId) (j : LinkId) (st : LinkSt) : (s.setLink p j st).sup = s.sup := by
  unfold State.setLink
  dsimp only
  split
  · rfl
  · split
    · exact (State.sup_eq_of_outside (State.endLink_outside _ p j)).trans (State.raise_sup _ _ _ _ _)
    · exact State.raise_sup _ _ _ _ _

theorem State.portDark_sup (p : PortId) : (s.portDark p).sup = s.sup := by
  unfold State.portDark
  exact (State.modPort_sup _ p _).trans (State.foldl_sup (fun v j => v.setLink_sup p j .down) _ _)

/-! ### The domain -/

theorem State.domDark_sup (d : DomainId) : (s.domDark d).sup = s.sup := by
  unfold State.domDark
  split
  · rfl
  · split
    · dsimp only
      rw [State.foldl_sup fun v x => v.endSession_sup x 3, State.forgetEnr_sup]
    · split
      · exact (State.sup_eq_of_outside (State.logicLost_outside (s.modThm (domTile d) Thm.blind) _)).trans (s.modThm_sup _ _)
      · rfl
      · exact (State.forgetEnr_sup _ _).trans (State.foldl_sup (fun v p => v.portDark_sup p) _ _)
      · exact State.sup_eq_of_outside (s.logicLost_outside _)

theorem State.domLost_sup (d : DomainId) : (s.domLost d).sup = s.sup.modDom d fun x => { x with st := .off } := by
  unfold State.domLost
  extract_lets st s1 s2
  have h : s2.sup = s1.sup := by
    simp only [s2]
    split
    · rfl
    · exact s1.domDark_sup d
  split
  · exact (State.sup_eq_of_outside (s2.sramLost_outside _)).trans h
  · exact h

end Sys2Proof.Machine
end

section
/-! PROOFS. The sequencer's instructions: `SequencerInstructions` (R318 to R320, R322, R323). -/

namespace Sys2Proof.Machine

/-- What one element's step brings about (`P` to `Q`), and every other step leaves as it is, a fold over it brings about. -/
theorem foldl_brings_about {α σ : Type} [DecidableEq α] {f : σ → α → σ} {P Q : σ → Prop} {x : α} (hx : ∀ s, P s → Q (f s x))
    (hP : ∀ s y, y ≠ x → P s → P (f s y)) (hQ : ∀ s y, Q s → Q (f s y)) {l : List α} (hl : x ∈ l) {s : σ} (hs : P s) :
    Q (l.foldl f s) := by
  induction l generalizing s with
  | nil => cases hl
  | cons y l ih =>
    by_cases h : y = x
    · subst h
      exact List.foldlRecOn (motive := Q) l f (hx s hs) fun v g z _ => hQ v z g
    · exact ih ((List.mem_cons.1 hl).resolve_left (Ne.symm h)) (hP s y h hs)

variable {s : State}

/-! ### An instruction that completes at once -/

theorem State.seqGoOn_rail (s : State) (x : RailId) : s.seqGoOn.sup.rail x = s.sup.rail x := by
  unfold State.seqGoOn
  split
  · exact s.sup.rail_advance x
  · rfl

/-! ### SEQ_ENABLE (R319) -/

/-- A rail is cut off: it has failed, or depends on one that has. -/
def Sup.cutOff (u : Sup) (x : RailId) : Bool :=
  decide ((u.rail x).st = .failed) || (List.finRange 8).any fun y => decide ((u.rail y).st = .failed) && (u.dependants y).contains x

/-- What an ENABLE makes of one rail. -/
def Sup.enableRail (w : Word) (u : Sup) (x : RailId) : Sup :=
  if seqRail w x && u.inRail x && decide ((u.rail x).st ≠ .on) && u.depsOn x && !u.cutOff x then
    u.modRail x fun r => { r with en := true, st := .checking }
  else u

/-- An ENABLE may enable the rail: it is in the run, not on, fed and not cut off. -/
structure Sup.MayEnable (u : Sup) (x : RailId) : Prop where
  run : u.inRail x = true
  off : (u.rail x).st ≠ .on
  fed : u.depsOn x = true
  able : (u.rail x).st ≠ .failed
  linked : ∀ y, (u.rail y).st = .failed → (u.dependants y).contains x = false

theorem Sup.cutOff_eq_false {u : Sup} {x : RailId} :
    u.cutOff x = false ↔ (u.rail x).st ≠ .failed ∧ ∀ y, (u.rail y).st = .failed → (u.dependants y).contains x = false := by
  simp [Sup.cutOff]

theorem Sup.enableRail_enabled {u : Sup} {w : Word} {x : RailId} (hw : seqRail w x = true) (h : u.MayEnable x) :
    ((u.enableRail w x).rail x).en = true ∧ ((u.enableRail w x).rail x).st = .checking := by
  have go : (seqRail w x && u.inRail x && decide ((u.rail x).st ≠ .on) && u.depsOn x && !u.cutOff x) = true := by
    simp [hw, h.run, h.off, h.fed, Sup.cutOff_eq_false.2 ⟨h.able, h.linked⟩]
  rw [Sup.enableRail, if_pos go, Sup.rail_modRail, if_pos rfl]
  exact ⟨rfl, rfl⟩

/-- An ENABLE of another rail leaves the rail as it is; one of the rail itself leaves it enabled. -/
theorem Sup.enableRail_keeps {u : Sup} {x : RailId} (w : Word) (y : RailId)
    (h : (u.rail x).en = true ∧ (u.rail x).st = .checking) :
    ((u.enableRail w y).rail x).en = true ∧ ((u.enableRail w y).rail x).st = .checking := by
  unfold Sup.enableRail
  split
  · rw [Sup.rail_modRail]
    split
    · exact ⟨rfl, rfl⟩
    · exact h
  · exact h

theorem Sup.dependants_congr {u v : Sup} (h : ∀ a b, u.needs a b = v.needs a b) (x : RailId) : u.dependants x = v.dependants x := by
  simp only [Sup.dependants, h]

/-- A rail that was not on becomes CHECKING: what may be enabled beside it still may. -/
theorem Sup.MayEnable.other {u : Sup} {x y : RailId} (h : u.MayEnable x) (hy : x ≠ y) (off : (u.rail y).st ≠ .on) :
    (u.modRail y fun r => { r with en := true, st := .checking }).MayEnable x := by
  set v := u.modRail y fun r => { r with en := true, st := .checking }
  have rail : ∀ z, v.rail z = if z = y then { u.rail y with en := true, st := .checking } else u.rail z := fun z => u.rail_modRail y _ z
  have needs : ∀ a b, v.needs a b = u.needs a b := fun a b => by
    unfold Sup.needs
    rw [rail]
    split <;> simp_all
  have failed : ∀ z, (v.rail z).st = .failed → (u.rail z).st = .failed := fun z => by
    rw [rail]
    split
    · intro e; cases e
    · exact id
  have on : ∀ z, (u.rail z).st = .on → (v.rail z).st = .on := fun z e => by
    rw [rail, if_neg (by rintro rfl; exact off e), e]
  have self : v.rail x = u.rail x := by rw [rail, if_neg hy]
  refine ⟨h.run, self ▸ h.off, ?_, self ▸ h.able, fun z hz => ?_⟩
  · have fed := h.fed
    simp only [Sup.depsOn, List.all_eq_true, Bool.or_eq_true, Bool.not_eq_true', decide_eq_true_eq, needs] at fed ⊢
    exact fun z hz => (fed z hz).imp_right (on z)
  · rw [Sup.dependants_congr needs]
    exact h.linked z (failed z hz)

theorem Sup.MayEnable.enableRail {u : Sup} {x : RailId} (h : u.MayEnable x) (w : Word) (y : RailId) (hy : y ≠ x) :
    (u.enableRail w y).MayEnable x := by
  unfold Sup.enableRail
  split
  next go =>
    simp only [Bool.and_eq_true, decide_eq_true_eq] at go
    obtain ⟨⟨⟨-, off⟩, -⟩, -⟩ := go
    exact h.other hy.symm off
  next => exact h

/-- ENABLE: the rails one by one, then the domains, of which the rails see nothing. -/
theorem State.seqEnable_rail (h : s.sup.at_ 1 = true) (x : RailId) :
    s.seqEnable.sup.rail x = ((List.finRange 8).foldl (Sup.enableRail s.sup.word) s.sup).rail x := by
  have doms : ∀ (u : Sup) (p : Sup → DomainId → Bool) (l : List DomainId),
      (l.foldl (fun (u : Sup) d => if p u d then u.startDom d else u) u).rail x = u.rail x := fun u p l =>
    List.foldlRecOn (motive := fun v : Sup => v.rail x = u.rail x) l _ rfl fun v g d _ => by
      split
      · rw [Sup.rail_startDom, g]
      · exact g
  unfold State.seqEnable
  rw [if_pos h]
  exact (State.seqGoOn_rail _ x).trans (doms _ (fun u d => s.seqDom s.sup.word d && u.inDom d) _)

theorem State.seqEnable_enables (h : s.sup.at_ 1 = true) {x : RailId} (hw : seqRail s.sup.word x = true) (hx : s.sup.MayEnable x) :
    (s.seqEnable.sup.rail x).en = true ∧ (s.seqEnable.sup.rail x).st = .checking := by
  rw [State.seqEnable_rail h]
  exact foldl_brings_about (P := fun u : Sup => u.MayEnable x) (Q := fun u : Sup => (u.rail x).en = true ∧ (u.rail x).st = .checking)
    (fun _ g => Sup.enableRail_enabled hw g) (fun _ y hy g => g.enableRail _ y hy) (fun _ y g => Sup.enableRail_keeps _ y g)
    (List.mem_finRange x) hx

/-! ### SEQ_DISABLE (R315, R319) -/

/-- The rails and the run of the supervisor: what a domain's going off leaves alone. -/
def State.railsRun (s : State) : Tab Rail × Option (List RailId × List DomainId) := (s.sup.rails, s.sup.subset)

theorem State.rail_eq_of_railsRun {s t : State} (h : s.railsRun = t.railsRun) (x : RailId) : s.sup.rail x = t.sup.rail x := by
  have rails : s.sup.rails = t.sup.rails := congrArg Prod.fst h
  rw [Sup.rail, rails, Sup.rail]

theorem State.inRail_eq_of_railsRun {s t : State} (h : s.railsRun = t.railsRun) (x : RailId) : s.sup.inRail x = t.sup.inRail x := by
  have run : s.sup.subset = t.sup.subset := congrArg Prod.snd h
  rw [Sup.inRail, run, Sup.inRail]

theorem State.foldl_railsRun {α : Type} {f : State → α → State} (hf : ∀ s a, (f s a).railsRun = s.railsRun) (l : List α) (s : State) :
    (l.foldl f s).railsRun = s.railsRun :=
  List.foldlRecOn (motive := fun v : State => v.railsRun = s.railsRun) l f rfl fun v h a _ => (hf v a).trans h

/-- A rail that goes down takes domains with it, and no other rail. -/
theorem State.railDown_railsRun (s : State) (x : RailId) :
    (s.railDown x).railsRun = (s.modRail x fun r => { r with en := false, st := .off }).railsRun := by
  unfold State.railDown
  refine State.foldl_railsRun (fun v d => ?_) _ _
  split
  · simp only [State.railsRun, State.modDom, State.modSup, Sup.modDom, State.domLost_sup]
  · rfl

/-- What a DISABLE makes of one rail. -/
def State.disableRail (w : Word) (s : State) (x : RailId) : State :=
  if seqRail w x && s.sup.inRail x && ((s.sup.rail x).en || decide ((s.sup.rail x).st = .on)) then s.railDown x else s

/-- A rail is down. -/
def State.RailIsDown (s : State) (x : RailId) : Prop := (s.sup.rail x).en = false ∧ (s.sup.rail x).st = .off

/-- A DISABLE takes the rail down: it is in the run, and enabled or on. -/
def State.MayDisable (s : State) (x : RailId) : Prop := s.sup.inRail x = true ∧ ((s.sup.rail x).en = true ∨ (s.sup.rail x).st = .on)

theorem State.railDown_rail (s : State) (x y : RailId) :
    (s.railDown x).sup.rail y = if y = x then { s.sup.rail x with en := false, st := .off } else s.sup.rail y := by
  rw [State.rail_eq_of_railsRun (s.railDown_railsRun x), State.rail_modRail]

theorem State.railDown_inRail (s : State) (x y : RailId) : (s.railDown x).sup.inRail y = s.sup.inRail y :=
  (State.inRail_eq_of_railsRun (s.railDown_railsRun x) y).trans rfl

theorem State.MayDisable.down {w : Word} {x : RailId} (hw : seqRail w x = true) (h : s.MayDisable x) :
    (s.disableRail w x).RailIsDown x := by
  have go : (seqRail w x && s.sup.inRail x && ((s.sup.rail x).en || decide ((s.sup.rail x).st = .on))) = true := by
    simpa [hw, h.1] using h.2
  rw [State.disableRail, if_pos go, State.RailIsDown, State.railDown_rail, if_pos rfl]
  exact ⟨rfl, rfl⟩

theorem State.MayDisable.other {x : RailId} (h : s.MayDisable x) (w : Word) (y : RailId) (hy : y ≠ x) :
    (s.disableRail w y).MayDisable x := by
  unfold State.disableRail
  split
  · rw [State.MayDisable, State.railDown_inRail, State.railDown_rail, if_neg hy.symm]
    exact h
  · exact h

theorem State.RailIsDown.disableRail {x : RailId} (h : s.RailIsDown x) (w : Word) (y : RailId) : (s.disableRail w y).RailIsDown x := by
  unfold State.disableRail
  split
  · rw [State.RailIsDown, State.railDown_rail]
    split
    · exact ⟨rfl, rfl⟩
    · exact h
  · exact h

theorem State.stopDom_railsRun (s : State) (d : DomainId) : (s.stopDom d).railsRun = s.railsRun := by
  unfold State.stopDom
  split
  · rw [State.railsRun, State.domDark_sup]
    rfl
  · rfl
  · rfl

/-- DISABLE: the rails one by one, then the domains, of which the rails see nothing. -/
theorem State.seqDisable_rail (h : s.sup.at_ 2 = true) (x : RailId) :
    s.seqDisable.sup.rail x = ((List.finRange 8).foldl (State.disableRail s.sup.word) s).sup.rail x := by
  have doms : ∀ (v : State) (p : State → DomainId → Bool) (l : List DomainId),
      (l.foldl (fun (s : State) d => if p s d then s.stopDom d else s) v).railsRun = v.railsRun := fun v p l =>
    State.foldl_railsRun (fun v d => by split; exacts [v.stopDom_railsRun d, rfl]) l v
  unfold State.seqDisable
  rw [if_pos h]
  exact (State.seqGoOn_rail _ x).trans (State.rail_eq_of_railsRun
    (doms _ (fun v d => v.seqDom s.sup.word d && v.sup.inDom d && decide ((v.sup.dom d).st ≠ .off)) _) x)

theorem State.seqDisable_disables (h : s.sup.at_ 2 = true) {x : RailId} (hw : seqRail s.sup.word x = true) (hx : s.MayDisable x) :
    s.seqDisable.RailIsDown x := by
  rw [State.RailIsDown, State.seqDisable_rail h]
  exact foldl_brings_about (P := fun v : State => v.MayDisable x) (Q := fun v : State => v.RailIsDown x)
    (fun _ g => g.down hw) (fun _ y hy g => g.other _ y hy) (fun _ y g => g.disableRail _ y) (List.mem_finRange x) hx

/-! ### END (R318, R322, R323) -/

section
variable (h : s.sup.at_ 0 = true)
include h

theorem State.seqEnd_off (ho : s.sup.progOff = true) (hr : s.sup.resume = none) (ha : s.sup.action = none) :
    s.seqEnd = { s with sup := { s.sup with running := false, subset := none, st := .offWait, offAt := s.now } } := by
  simp [State.seqEnd, h, ho, hr, ha, State.modSup]

/-- After rails that failed to come up the on programme goes on, each failure reported. -/
theorem State.seqEnd_resumes {k : Nat} (ho : s.sup.progOff = true) (hr : s.sup.resume = some k) (hh : s.sup.heldOff = false) :
    s.seqEnd = s.sup.failed.foldl (fun (s : State) (e : RailId × Byte) => s.raise 0 (fld 0 e.1.val ||| fld 8 e.2.toNat))
      { s with sup := { s.sup with progOff := false, pc := k, busy := false, subset := none, resume := none, failed := [] } } := by
  have reported : ∀ (l : List (RailId × Byte)) (v : State),
      (l.foldl (fun (s : State) e => s.raise 0 (fld 0 e.1.val ||| fld 8 e.2.toNat)) v).sup = v.sup :=
    State.foldl_sup fun v e => v.raise_sup _ _ _ _
  simp [State.seqEnd, h, ho, hr, reported, State.modSup, hh]

/-- END of the on programme: ON, or DEGRADED; after the configuration read it is step 4 of start-up. -/
theorem State.seqEnd_on (ho : s.sup.progOff = false) :
    s.seqEnd =
      let s1 : State := { s with sup := { s.sup with running := false, st := if s.sup.lacking then .degraded else .on, passed := [] } }
      if s.boot.config && !s.boot.onProg then { s1.mile 2 with boot := { (s1.mile 2).boot with onProg := true } } else s1 := by
  simp [State.seqEnd, h, ho, State.modSup]

end

/-! ### WAIT, CHECK, JUMP, MARK (R319, R322) -/

theorem State.seqWait_begins (h : s.sup.at_ 3 = true) : s.seqWait = { s with sup := { s.sup with busy := true, since := s.now } } :=
  if_pos h

theorem State.waitEnds_due (hr : s.sup.running = true) (hb : s.sup.busy = true) (hw : seqOp s.sup.word = 3) :
    s.waitEnds = (s.till (s.sup.since + aon (s.sup.word.toNat % 2 ^ 24))).modSup Sup.advance :=
  if_pos (by simp [hr, hb, hw])

section
variable (h : s.sup.at_ 4 = true)
include h

theorem State.seqCheck_begins (hi : s.sup.inRail (chkRail s.sup.word) = true)
    (he : chkLow s.sup.word = true ∨ (s.sup.rail (chkRail s.sup.word)).en = true) :
    s.seqCheck = ({ s with sup := { s.sup with busy := true, since := s.now } } : State).modRail (chkRail s.sup.word)
      fun r => { r with trans := 0 } := by
  have go : ¬(s.sup.inRail (chkRail s.sup.word) = false ∨
      (chkLow s.sup.word = false ∧ (s.sup.rail (chkRail s.sup.word)).en = false)) := by
    simp only [hi, Bool.true_eq_false, false_or, not_and_or]
    exact he.imp (by simp_all) (by simp_all)
  rw [State.seqCheck, if_pos h]
  exact if_neg go

theorem State.seqCheck_passedOver (ho : s.sup.inRail (chkRail s.sup.word) = false ∨
    (chkLow s.sup.word = false ∧ (s.sup.rail (chkRail s.sup.word)).en = false)) : s.seqCheck = s.modSup Sup.advance := by
  rw [State.seqCheck, if_pos h]
  exact if_pos ho

end

/-- ARG of the JUMP at PC, and the rail it may name. -/
def Sup.jumpArg (u : Sup) : Nat := u.word.toNat / 4096 % 8
def Sup.jumpRail (u : Sup) : RailId := ⟨u.jumpArg % 8, Nat.mod_lt _ (by decide)⟩

/-- The condition of the JUMP at PC holds (Table 12.3). -/
def State.jumps (s : State) : Bool := match s.sup.word.toNat / 256 % 16 with
  | 0 => true
  | 1 => decide ((s.sup.rail s.sup.jumpRail).st = .on)
  | 2 => !decide ((s.sup.rail s.sup.jumpRail).st = .on)
  | 3 => decide (s.sup.jumpArg < s.part.tiles)
  | 4 => !decide (s.sup.jumpArg < s.part.tiles)
  | _ => false

theorem State.seqJump_at (h : s.sup.at_ 5 = true) :
    s.seqJump = if s.jumps then s.modSup fun u => ({ u with pc := s.sup.word.toNat % 64 - 1 } : Sup).advance
      else s.modSup Sup.advance :=
  if_pos h

theorem Sup.jumpRail_on (u : Sup) : (∃ x : RailId, x.val = u.jumpArg ∧ (u.rail x).st = .on) ↔ (u.rail u.jumpRail).st = .on := by
  have arg : u.jumpArg % 8 = u.jumpArg := Nat.mod_mod _ _
  constructor
  · rintro ⟨x, hx, on⟩
    obtain rfl : x = u.jumpRail := Fin.ext (hx.trans arg.symm)
    exact on
  · exact fun on => ⟨u.jumpRail, arg, on⟩

theorem State.jumps_iff (s : State) :
    s.jumps = true ↔
      let k := s.sup.word.toNat / 256 % 16
      let on : Prop := ∃ x : RailId, x.val = s.sup.jumpArg ∧ (s.sup.rail x).st = .on
      k = 0 ∨ (k = 1 ∧ on) ∨ (k = 2 ∧ ¬on) ∨ (k = 3 ∧ s.sup.jumpArg < s.part.tiles) ∨ (k = 4 ∧ s.part.tiles ≤ s.sup.jumpArg) := by
  dsimp only
  rw [Sup.jumpRail_on]
  unfold State.jumps
  generalize s.sup.word.toNat / 256 % 16 = k
  split <;> simp_all

theorem State.seqMark_at (h : s.sup.at_ 6 = true) :
    s.seqMark = s.modSup fun u => ({ u with mark := BitVec.ofNat 16 u.word.toNat } : Sup).advance :=
  if_pos h

/-! ### The outcome of a CHECK (R322, R323) -/

/-- The transitions of a rail that has passed are reported where there are any. -/
def State.noted (s : State) (x : RailId) (n : Byte) : State := if n = 0 then s else s.raise 2 (fld 0 x.val ||| fld 8 n.toNat)

section
variable (hp : s.sup.preludeCheck = false)
include hp

section
variable {x : RailId} (hr : s.sup.retryCheck = some x) (n : Byte)
include hr

theorem State.checkPasses_retry : s.checkPasses n = s.retryPasses x n := by simp [State.checkPasses, hp, hr]

theorem State.checkFails_retry : s.checkFails n = s.retryFails x n := by simp [State.checkFails, hp, hr]

end

section
variable (hr : s.sup.retryCheck = none) (run : s.sup.running = true) (busy : s.sup.busy = true) (hw : seqOp s.sup.word = 4) (n : Byte)
include hr run busy hw

theorem State.checkPasses_high (hl : chkLow s.sup.word = false) :
    s.checkPasses n = (((s.till (s.sup.since + aon (chkDwell s.sup.word s.sup))).modRail (chkRail s.sup.word)
      fun r => { r with trans := n, pg := true, st := .on }).noted (chkRail s.sup.word) n).modSup
        fun u => ({ u with passed := chkRail s.sup.word :: u.passed } : Sup).advance := by
  simp [State.checkPasses, hp, hr, run, busy, hw, hl, State.noted]

theorem State.checkPasses_low (hl : chkLow s.sup.word = true) :
    s.checkPasses n = (((s.till (s.sup.since + aon (chkDwell s.sup.word s.sup))).modRail (chkRail s.sup.word)
      fun r => { r with trans := n, pg := false }).noted (chkRail s.sup.word) n).modSup Sup.advance := by
  simp [State.checkPasses, hp, hr, run, busy, hw, hl, State.noted]

theorem State.checkFails_high (hl : chkLow s.sup.word = false) :
    s.checkFails n = (s.till (s.sup.since + us (chkTimeout s.sup.word))).comeUpFails (chkRail s.sup.word) n (s.sup.pc + 1) := by
  simp [State.checkFails, hp, hr, run, busy, hw, hl]

theorem State.checkFails_low (hl : chkLow s.sup.word = true) :
    s.checkFails n = ((s.till (s.sup.since + us (chkTimeout s.sup.word))).modRail (chkRail s.sup.word)
      fun r => { r with trans := n, faults := min (r.faults + 1) 65535 }).modSup Sup.advance := by
  simp [State.checkFails, hp, hr, run, busy, hw, hl]

end
end

/-! ### The commands -/

section
variable (hp : s.powered = true)
include hp

theorem exec_seqEnd : exec .seqEnd s = .next s.seqEnd := (State.doIf_enabled hp rfl : execSeqEnd s = _)

theorem exec_seqEnable : exec .seqEnable s = .next s.seqEnable := (State.doIf_enabled hp rfl : execSeqEnable s = _)

theorem exec_seqDisable : exec .seqDisable s = .next (s.after s.seqDisable) := (State.doAll_enabled hp rfl : execSeqDisable s = _)

theorem exec_wait : exec .wait s = .next s.seqWait := (State.doIf_enabled hp rfl : execWait s = _)

theorem exec_waitExpiry : exec .waitExpiry s = .next s.waitEnds := (State.doIf_enabled hp rfl : execWaitExpiry s = _)

theorem exec_check : exec .check s = .next s.seqCheck := (State.doIf_enabled hp rfl : execCheck s = _)

theorem exec_jump : exec .jump s = .next s.seqJump := (State.doIf_enabled hp rfl : execJump s = _)

theorem exec_mark : exec .mark s = .next s.seqMark := (State.doIf_enabled hp rfl : execMark s = _)

end

/-- Settles O50, instruction by instruction; ENABLE and DISABLE rail by rail, CHECK's outcome by what is being checked. -/
theorem sequencerInstructions : Obligations.SequencerInstructions := by
  intro n s hp
  rw [exec_seqEnd hp, exec_seqEnable hp, exec_seqDisable hp, exec_wait hp, exec_waitExpiry hp, exec_check hp, exec_jump hp, exec_mark hp,
    exec_checkPass hp, exec_checkTimeoutRailFail hp]
  refine ⟨fun h ho => ⟨fun hr ha => ?_, fun k hr hh => ?_⟩, fun h ho => ?_, fun h => ⟨_, rfl, fun x hw run off fed able linked => ?_⟩,
    fun h => ⟨_, rfl, fun x hw run on => ?_⟩, fun h => ?_, fun run busy hw => ?_, fun h => ⟨fun hi he => ?_, fun out => ?_⟩, fun h => ?_,
    fun h => ?_, fun hpr hr run busy hw => ⟨fun hl => ⟨?_, ?_⟩, fun hl => ⟨?_, ?_⟩⟩, fun x hpr hr => ⟨?_, ?_⟩⟩
  · rw [State.seqEnd_off h ho hr ha]
  · rw [State.seqEnd_resumes h ho hr hh]
  · rw [State.seqEnd_on h ho]
    exact ⟨fun hc => congrArg _ (if_neg (by simpa [or_comm, imp_iff_not_or] using hc)), fun hn hc => congrArg _ (if_pos (by simp [hn, hc]))⟩
  · exact State.seqEnable_enables h hw ⟨run, off, fed, able, linked⟩
  · exact State.seqDisable_disables h hw ⟨run, on⟩
  · rw [State.seqWait_begins h]
  · rw [State.waitEnds_due run busy hw]
  · rw [State.seqCheck_begins h hi he]
  · rw [State.seqCheck_passedOver h out]
  · rw [State.seqJump_at h]
    exact ⟨fun go => congrArg _ (if_pos (s.jumps_iff.2 go)), fun stay => congrArg _ (if_neg (mt s.jumps_iff.1 stay))⟩
  · rw [State.seqMark_at h]
  · rw [State.checkPasses_high hpr hr run busy hw n hl]
    rfl
  · rw [State.checkFails_high hpr hr run busy hw n hl]
  · rw [State.checkPasses_low hpr hr run busy hw n hl]
    rfl
  · rw [State.checkFails_low hpr hr run busy hw n hl]
  · rw [State.checkPasses_retry hpr hr]
  · rw [State.checkFails_retry hpr hr]

end Sys2Proof.Machine
end
